-- ==== Sys2Proof/Word.lean ====
section
/-! DEFINITION. The word types of the machine and their plainest arithmetic (R4, R297, R301). -/

namespace Sys2Proof

abbrev Byte := BitVec 8
abbrev Word := BitVec 32
abbrev DWord := BitVec 64

/-- A set of the 32 lanes of a wave: bit l is lane l (R1, R191). -/
abbrev Mask := BitVec 32

/-- The canonical form of a virtual address: bits [63:54] equal bit 53 (R98). -/
def canonical (a : DWord) : Bool :=
  a.extractLsb' 54 10 == (if a.getLsbD 53 then BitVec.allOnes 10 else 0)

/-- Two words as one 64-bit value, the first in the low half (R303). -/
def pairUp (lo hi : Word) : DWord := hi ++ lo

def loWord (d : DWord) : Word := d.extractLsb' 0 32
def hiWord (d : DWord) : Word := d.extractLsb' 32 32

/-- A natural number cut to the range [lo, hi] (R7, Sat). -/
def satInt (x lo hi : Int) : Int := max lo (min x hi)

end Sys2Proof
end

