-- ==== Sys2Proof/Syntax.lean ====
section
/-! DEFINITION. The syntax of the machine's steps: operand codes, modifier fields, and Instr, one constructor per
row of the table of operations and events. Instructions carry their decoded fields. Events carry what the spec leaves
to the surroundings. -/

namespace Sys2Proof

/-- Special registers, in index order 0x00-0x13 (R195). -/
inductive SReg where
  | tid | lane | wave | wgidX | wgidY | wgidZ | tileX | tileY | tileZ | task | ptime | ccyc | die | quad | core
  | cluster | maskAct | maskPath | rseed | fpctl
  deriving DecidableEq, Repr

/-- Operand codes (R301). -/
inductive Opnd where
  | v (n : BitVec 8)
  | p (n : BitVec 5)
  | sreg (r : SReg)
  | konst (k : BitVec 6)
  | imm
  | null
  | fed
  deriving DecidableEq, Repr

/-- Operation types, codes 0x0-0xE (R310). -/
inductive Ty where
  | b32 | b64 | s32 | s64 | n32 | n64 | f32 | f16 | bf16 | f16x2 | bf16x2 | e4m3 | e5m2 | e2m1 | mxi8
  deriving DecidableEq, Repr

/-- Rounding modes, codes 000-101 (R285). -/
inductive Rnd where
  | rne | rtz | rdn | rup | rna | rs
  deriving DecidableEq, Repr

/-- Access sizes, codes 000-100 (R313). -/
inductive Size where
  | b8 | b16 | b32 | b64 | b128
  deriving DecidableEq, Repr

/-- Orderings, codes 000-100 (R313). -/
inductive Ord where
  | plain | rlx | acq | rel | ar
  deriving DecidableEq, Repr

/-- Scopes, codes 000-100 (R2, R313). -/
inductive Scope where
  | wg | quad | die | pkg | sys
  deriving DecidableEq, Repr

/-- Memory spaces, codes 00-10 (R313). -/
inductive Space where
  | glb | scr | const
  deriving DecidableEq, Repr

/-- Retention hints, codes 00-11 (R313). -/
inductive Keep where
  | dflt | strm | keep | llc
  deriving DecidableEq, Repr

/-- The guard of an instruction (R299). -/
structure Guard where
  neg : Bool
  pred : BitVec 5
  deriving DecidableEq, Repr

/-- Guard, hints and the four operand fields (R298). -/
structure Head where
  g : Guard
  hnt : BitVec 6
  dst : Opnd
  sa : Opnd
  sb : Opnd
  sc : Opnd
  deriving DecidableEq, Repr

/-- The ARITH layout (R310). `hi` is MOD[95:80]: SRCMOD, IMM16, or the function code of bfn3. -/
structure ArithF where
  h : Head
  hi : BitVec 16
  ftz : Bool
  sat : Bool
  rnd : Rnd
  ty : Ty
  deriving DecidableEq, Repr

/-- The CVT layout (R311). -/
structure CvtF where
  h : Head
  esel : BitVec 3
  sty : Ty
  ftz : Bool
  sat : Bool
  rnd : Rnd
  dty : Ty
  deriving DecidableEq, Repr

/-- The CTL layout (R312). -/
structure CtlF where
  h : Head
  imm : BitVec 26
  deriving DecidableEq, Repr

/-- The MEM layout (R313). The scope is meaningful only with an ordering other than plain. -/
structure MemF where
  h : Head
  off : BitVec 10
  cache : Keep
  rset : BitVec 4
  scope : Scope
  ord : Ord
  space : Space
  size : Size
  deriving DecidableEq, Repr

/-- The GEN layout (R314). -/
structure GenF where
  h : Head
  imm12 : BitVec 12
  rset : BitVec 4
  flags : BitVec 8
  deriving DecidableEq, Repr

/-- Conditions of icmp, SUB 0-5 (R329). -/
inductive ICond where
  | eq | ne | lt | le | gt | ge
  deriving DecidableEq, Repr

/-- Conditions of fcmp, SUB 0-7 (R338). -/
inductive FCond where
  | eq | ne | lt | le | gt | ge | num | nan
  deriving DecidableEq, Repr

inductive PandOp where
  | and | or | xor | andn
  deriving DecidableEq, Repr

inductive ShflMode where
  | sfrom | back | fwd | swap | rot
  deriving DecidableEq, Repr

inductive VoteOp where
  | and | or | same
  deriving DecidableEq, Repr

inductive ReduxOp where
  | add | min | max | and | or | xor
  deriving DecidableEq, Repr

inductive ScanOp where
  | add | addx | min | max | or | xor
  deriving DecidableEq, Repr

inductive LmaskOp where
  | lo | loeq | hi | hieq | self
  deriving DecidableEq, Repr

inductive PrefLevel where
  | l1 | l2 | llc
  deriving DecidableEq, Repr

/-- Operations of the atomics, SUB 0-15 (R378). -/
inductive AtomOp where
  | add | smin | smax | umin | umax | and | or | xor | exch | inc | dec | fadd | fmin | fmax | hadd2 | badd2
  deriving DecidableEq, Repr

/-- Where an ordered-flow message comes from: the n-th message in transit, or another module of the pod. -/
inductive Arrival where
  | wire (n : Nat)
  | pod (smod : Nat) (snode : Nat) (seq : Nat) (words : List DWord)
  deriving DecidableEq, Repr

/-- The links of one step of bring-up that finish training (R36). -/
inductive LinkGroup where
  | hubDie | mesh | wdie | tributary
  deriving DecidableEq, Repr

/-- The steps of the machine. Instructions first (rows 0 to 175 of the table), then events. -/
inductive Instr where
  -- integer and logic
  | nop (f : ArithF)
  | mov (f : ArithF)
  | sel (f : ArithF)
  | lea (k : BitVec 3) (f : ArithF)
  | iadd (f : ArithF)
  | isub (f : ArithF)
  | iadd3 (f : ArithF)
  | iaddx (f : ArithF)
  | iaddxCo (f : ArithF)
  | imul (f : ArithF)
  | imulh (f : ArithF)
  | imad (f : ArithF)
  | imadw (f : ArithF)
  | idiv (f : ArithF)
  | irem (f : ArithF)
  | imin (f : ArithF)
  | imax (f : ArithF)
  | iabs (f : ArithF)
  | ineg (f : ArithF)
  | isad (f : ArithF)
  | idp4 (as : Bool) (bs : Bool) (f : ArithF)
  | idp2 (as : Bool) (bs : Bool) (f : ArithF)
  | icmp (c : ICond) (f : ArithF)
  | iclamp (f : ArithF)
  | and (f : ArithF)
  | or (f : ArithF)
  | xor (f : ArithF)
  | not (f : ArithF)
  | andn (f : ArithF)
  | bfn3 (f : ArithF)
  | shl (f : ArithF)
  | shr (f : ArithF)
  | sra (f : ArithF)
  | rot (right : Bool) (f : ArithF)
  | shf (left : Bool) (f : ArithF)
  | bfx (f : ArithF)
  | bfi (f : ArithF)
  | popc (f : ArithF)
  | clz (f : ArithF)
  | ctz (f : ArithF)
  | brev (f : ArithF)
  | bperm (f : ArithF)
  | pand (op : PandOp) (f : ArithF)
  | pmov (f : ArithF)
  | pmovMask (f : ArithF)
  | pmovBit (f : ArithF)
  | pmovNz (f : ArithF)
  -- floating point
  | fadd (f : ArithF)
  | fsub (f : ArithF)
  | fmul (f : ArithF)
  | ffma (f : ArithF)
  | fmin (nan : Bool) (f : ArithF)
  | fmax (nan : Bool) (f : ArithF)
  | fcmp (c : FCond) (f : ArithF)
  | fclass (f : ArithF)
  | fscale (f : ArithF)
  | fexpo (f : ArithF)
  | ffract (f : ArithF)
  | fround (f : ArithF)
  | fdiv (f : ArithF)
  | fsqrt (f : ArithF)
  | frcp (f : ArithF)
  | frsq (f : ArithF)
  | fex2 (f : ArithF)
  | flg2 (f : ArithF)
  | fsin (f : ArithF)
  | fcos (f : ArithF)
  | ftanh (f : ArithF)
  | hadd2 (f : ArithF)
  | hmul2 (f : ArithF)
  | hfma2 (f : ArithF)
  | hmin2 (nan : Bool) (f : ArithF)
  | hmax2 (nan : Bool) (f : ArithF)
  | fdot2 (f : ArithF)
  | fdot4 (mix : Bool) (f : ArithF)
  -- conversion and microscaling
  | cvt (f : CvtF)
  | cvtp (k : BitVec 2) (f : CvtF)
  | cvtx (f : CvtF)
  | mxamax (f : CvtF)
  | mxscale (f : CvtF)
  | mxq (f : CvtF)
  | mxdq (f : CvtF)
  -- cross-lane
  | shfl (m : ShflMode) (f : ArithF)
  | vote (op : VoteOp) (f : ArithF)
  | voteBits (f : ArithF)
  | matchLanes (f : ArithF)
  | redux (op : ReduxOp) (f : ArithF)
  | scan (op : ScanOp) (f : ArithF)
  | elect (f : ArithF)
  | lget (f : ArithF)
  | lput (f : ArithF)
  | lmask (op : LmaskOp) (f : ArithF)
  -- control
  | bra (f : CtlF)
  | braAbs (f : CtlF)
  | brx (f : CtlF)
  | call (f : CtlF)
  | callAbs (f : CtlF)
  | callx (f : CtlF)
  | ret (f : CtlF)
  | wsync (f : CtlF)
  | yld (f : CtlF)
  | exit (f : CtlF)
  | trap (f : CtlF)
  | brkpt (f : CtlF)
  | pfx (imm : DWord)
  | beat (f : CtlF)
  -- memory
  | ld (sx : Bool) (f : MemF)
  | st (f : MemF)
  | lds (sx : Bool) (f : MemF)
  | sts (f : MemF)
  | ldc (sx : Bool) (f : MemF)
  | pref (lvl : PrefLevel) (f : MemF)
  | stm (f : MemF)
  | sete (f : MemF)
  | setf (f : MemF)
  | ldfe (f : MemF)
  | atom (op : AtomOp) (f : MemF)
  | acas (f : MemF)
  | red (op : AtomOp) (f : MemF)
  | atoms (op : AtomOp) (f : MemF)
  | acass (f : MemF)
  | reds (op : AtomOp) (f : MemF)
  -- synchronisation
  | fence (f : MemF)
  | sinv (f : MemF)
  | drainInsn (f : MemF)
  | racq (f : MemF)
  | rrel (f : MemF)
  | rtst (f : MemF)
  | mon (f : MemF)
  | mwait (f : MemF)
  | bar (f : MemF)
  | gbar (f : MemF)
  | tbinit (f : MemF)
  | tbarr (f : MemF)
  | tbarrRem (f : MemF)
  | tbwait (f : MemF)
  -- tasks
  | spawn (f : GenF)
  | qrsv (f : GenF)
  | qpub (f : GenF)
  | qpop (f : GenF)
  | qpopTry (f : GenF)
  | qsteal (f : GenF)
  | qinfo (f : GenF)
  | qinfoBase (f : GenF)
  | cont (f : GenF)
  | mig (f : GenF)
  | migTry (f : GenF)
  | dsig (f : GenF)
  -- engines
  | mmx (f : GenF)
  | mmz (f : GenF)
  | mepi (f : GenF)
  | mldA2s (f : GenF)
  | mldS2a (f : GenF)
  | cpyLd (f : GenF)
  | cpySt (f : GenF)
  | cpym (f : GenF)
  | bcpy (f : GenF)
  | bcpyReg (f : GenF)
  | wmv (f : GenF)
  | wld (f : GenF)
  | ewait (f : GenF)
  | evpop (f : GenF)
  -- system
  | capr (f : GenF)
  | ctlr (f : GenF)
  | ctlw (f : GenF)
  | tretRe (f : GenF)
  | tretSkipf (f : GenF)
  | tretSkip (f : GenF)
  | atinv (f : GenF)
  | atinvForce (f : GenF)
  | lsave (f : GenF)
  | lrest (f : GenF)
  | whalt (f : GenF)
  | whaltGroup (f : GenF)
  | csleep (f : GenF)
  | keydrop (f : GenF)
  -- events of waves and cores
  | deferredTrapTaken (w : Nat)
  | groupHaltArrival (w : Nat) (stop : Bool)
  | pathPromotion (w : Nat)
  | joinTimeout (w : Nat) (slot : Nat)
  | emptyLineFilled (core : Nat) (line : Nat)
  | mwaitWake (w : Nat) (slot : Nat) (code : Nat)
  | qpopWake (w : Nat) (slot : Nat)
  | csleepWake (w : Nat) (slot : Nat) (code : Nat)
  | gbarArrival (n : Nat)
  | gbarDeparture (n : Nat)
  | tbarrRemoteArrival (n : Nat)
  | tbwaitReturn (w : Nat) (slot : Nat)
  | migArrival (w : Nat)
  | migLandingSlotFree (w : Nat) (slot : Nat)
  | engineCmdStart (core : Nat) (tag : Nat)
  | engineCmdComplete (core : Nat) (tag : Nat)
  | cpymReceiverWrite (n : Nat)
  | wdieOperationServe (wdie : Nat) (slot : Nat)
  -- coherence messages: the n-th delivered message
  | rd (n : Nat)
  | data (n : Nat)
  | regReq (n : Nat)
  | regAck (n : Nat)
  | wb (n : Nat)
  | fwd (n : Nat)
  | gone (n : Nat)
  | recallWord (n : Nat)
  | dmark (n : Nat)
  | dmarkAck (n : Nat)
  | relinq (n : Nat)
  | rel (n : Nat)
  | acq (n : Nat)
  | acqRsp (n : Nat)
  | drain (n : Nat)
  | armed (n : Nat)
  | tokAcq (n : Nat)
  | tokRel (n : Nat)
  | tokGrant (n : Nat)
  | replWr (n : Nat)
  | regSet (n : Nat)
  | held (n : Nat)
  | heldResend (k : Nat)
  | responseTimeout (k : Nat)
  | regionMergeCheck (node : Nat)
  | wtLineTimeout (node : Nat) (k : Nat)
  -- flows and home-map rewrite
  | flowMessageArrival (a : Arrival) (ack : Bool)
  | flowPathFail (k : Nat)
  | hubForward (hub : Nat) (n : Nat)
  | go (value : Word)
  | moveMark (n : Nat)
  | markAck (n : Nat)
  | handoffEnd (n : Nat)
  | commit (n : Nat)
  | redirect (n : Nat)
  | flowReset (n : Nat)
  | debugHold (n : Nat)
  | debugHoldClear (n : Nat)
  -- package time
  | ptimeStamp (node : Nat) (delay : Int)
  | ptimeStampMissed (node : Nat)
  | ptimeSourceTakeover
  -- leases
  | leaseRequest (n : Nat)
  | leaseGrant (n : Nat)
  | leaseFaultAnswer (n : Nat)
  | leaseWaitGranted (node : Nat) (k : Nat)
  | leaseRenewDue (node : Nat) (k : Nat)
  | renew (n : Nat)
  | renewed (n : Nat)
  | leaseLostAnswer (n : Nat)
  | leaseHolderExpiry (node : Nat) (k : Nat)
  | leaseGrantorExpiry (node : Nat) (k : Nat)
  -- faults
  | faultRecordPost
  | resolved (seq : Word)
  | denied (seq : Word)
  -- host port, life cycle, keys
  | enqueueWindowWrite (func : Nat) (off : Nat) (bytes : List Byte)
  | configRequestRetry (hub : Nat)
  | ctxCreate (func : Nat) (cmd : Word)
  | ctxDestroy (func : Nat) (cmd : Word)
  | keyDestruction (n : Nat)
  | attReport (func : Nat) (ok : Bool)
  | attCert (func : Nat) (ok : Bool)
  | imgStage (ok : Bool)
  | imgLifecycle (ok : Bool)
  | imgRecover (ok : Bool)
  | advanceCommit
  | hctlValWrite (func : Nat) (value : DWord)
  | hctlValRead (func : Nat)
  -- commands of contexts
  | queueCreate (asid : Nat) (cmd : DWord)
  | queueDestroy (asid : Nat) (cmd : DWord)
  | flush (n : Nat)
  | quarantineEnd (node : Nat) (index : Nat)
  | tokenCreate (asid : Nat) (cmd : DWord)
  | tokenDestroy (asid : Nat) (cmd : DWord)
  | ctxLeaseWrite (asid : Nat) (k : Nat) (value : DWord)
  | ctxTtypeWrite (asid : Nat) (value : DWord)
  | schedStop (asid : Nat)
  | schedRun (asid : Nat)
  | schedReset (asid : Nat)
  | dbgHalt (asid : Nat)
  | dbgResume (asid : Nat)
  | dieHalt (die : Nat)
  | dieResume (die : Nat)
  -- clusters, service, clocks, power, supply, bring-up
  | clusterWrite (value : Word)
  | clusterMoveComplete
  | isolate (node : Nat)
  | next (node : Nat)
  | readmit (node : Nat)
  | abort (node : Nat)
  | svcDrainComplete
  | wipeComplete
  | selfTestDone (pass : Bool)
  | dieTaskUnitReady
  | unplannedDieReset (node : Nat)
  | freqWrite (die : Nat) (freq : BitVec 6)
  | relockEnd (die : Nat)
  | pwrCapWrite (cap : BitVec 16)
  | powerCapWindow (avg : BitVec 16)
  | thermalCeilingStep (die : Nat) (celsius : Nat)
  | thermalTrip (die : Nat) (celsius : Nat)
  | supplyLow (volt : Nat)
  | supplyLimitClear
  | supplyDip
  | supplyFaultLow
  | supplyHigh (volt : Nat)
  | supplyFaultHigh
  | supplyOvervoltage
  | supplyRestored
  | moduleReset
  | linkTrainingComplete (g : LinkGroup) (failed : List Nat)
  | moduleWipeComplete (far : Bool)
  | modReadySet
  | ucieModuleFail (die : Nat) (n : Nat)
  | tributaryLinkFail (k : Nat)
  -- task units
  | taskDispatch (die : Nat)
  | stealCountExchange
  | steal (thief : Nat) (peer : Nat)
  | gangLaunch (task : Nat)
  | pendingLift (die : Nat) (index : Nat)
  | taskEnd (task : Nat)
  | workgroupPark (wg : Nat)
  | parkedWorkgroupReady (wg : Nat)
  | continuationResume (die : Nat) (k : Nat)
  | watchdogFirstExpiry (task : Nat)
  | watchdogSecondExpiry (task : Nat)
  | preemptSave (k : Nat)
  | preemptForce (k : Nat)
  -- retention, soft errors, registers, links
  | coreRetentionEntry (core : Nat)
  | coreWake (core : Nat)
  | eccCorrectable (die : Nat)
  | eccUncorrectable (node : Nat) (level : Nat) (asid : Nat) (va : Nat)
  | patrolScrub (die : Nat)
  | wdieRowScrub (wdie : Nat) (bad : List Nat)
  | registerWrite (func : Nat) (off : Nat) (value : DWord)
  | registerReadClear (func : Nat) (off : Nat)
  | handoffState (n : Nat)
  | linkLevelRetry (die : Nat) (n : Nat)
  | linkRetrain (die : Nat) (n : Nat) (repl : Nat)
  | uncorrectableFecCodeword (k : Nat)
  deriving DecidableEq, Repr

end Sys2Proof
end

