-- ==== Sys2Proof/Machine/Form.lean ====
section
/-! DEFINITION. The 96-bit word cut into its fields (R297, R298), the codes of the fields (R301, R310-R314), and
the table of forms: which operand codes, types and modifier fields each operation accepts (chapters 11 to 14).
`Raw.bad` applies the decode checks of R315 in their order. -/

namespace Sys2Proof.Machine

/-! ## Codes -/

/-- The index of a special register (R195). -/
def sregIndex : SReg → BitVec 8
  | .tid => 0x00 | .lane => 0x01 | .wave => 0x02 | .wgidX => 0x03 | .wgidY => 0x04 | .wgidZ => 0x05
  | .tileX => 0x06 | .tileY => 0x07 | .tileZ => 0x08 | .task => 0x09 | .ptime => 0x0A | .ccyc => 0x0B
  | .die => 0x0C | .quad => 0x0D | .core => 0x0E | .cluster => 0x0F | .maskAct => 0x10 | .maskPath => 0x11
  | .rseed => 0x12 | .fpctl => 0x13

def sregOf (n : BitVec 8) : Option SReg :=
  match n.toNat with
  | 0x00 => some .tid | 0x01 => some .lane | 0x02 => some .wave | 0x03 => some .wgidX | 0x04 => some .wgidY
  | 0x05 => some .wgidZ | 0x06 => some .tileX | 0x07 => some .tileY | 0x08 => some .tileZ | 0x09 => some .task
  | 0x0A => some .ptime | 0x0B => some .ccyc | 0x0C => some .die | 0x0D => some .quad | 0x0E => some .core
  | 0x0F => some .cluster | 0x10 => some .maskAct | 0x11 => some .maskPath | 0x12 => some .rseed
  | 0x13 => some .fpctl
  | _ => none

/-- The 10-bit code of an operand (R301). -/
def opndCode : Opnd → BitVec 10
  | .v n => 0#2 ++ n
  | .p n => 8#5 ++ n
  | .sreg r => 2#2 ++ sregIndex r
  | .konst k => 0xC#4 ++ k
  | .imm => 0x340
  | .null => 0x380
  | .fed => 0x3C0

/-- The operand that a code stands for; none for a reserved code (R301). -/
def opndOf (c : BitVec 10) : Option Opnd :=
  if c.toNat < 0x100 then some (.v (c.extractLsb' 0 8))
  else if c.toNat < 0x120 then some (.p (c.extractLsb' 0 5))
  else if c.toNat < 0x200 then none
  else if c.toNat < 0x300 then (sregOf (c.extractLsb' 0 8)).map .sreg
  else if c.toNat < 0x340 then some (.konst (c.extractLsb' 0 6))
  else if c = 0x340 then some .imm
  else if c = 0x380 then some .null
  else if c = 0x3C0 then some .fed
  else none

/-- TYPE codes (R310). -/
def tyCode : Ty → BitVec 4
  | .b32 => 0x0 | .b64 => 0x1 | .s32 => 0x2 | .s64 => 0x3 | .n32 => 0x4 | .n64 => 0x5 | .f32 => 0x6 | .f16 => 0x7
  | .bf16 => 0x8 | .f16x2 => 0x9 | .bf16x2 => 0xA | .e4m3 => 0xB | .e5m2 => 0xC | .e2m1 => 0xD | .mxi8 => 0xE

def tyOf (c : BitVec 4) : Option Ty :=
  match c.toNat with
  | 0 => some .b32 | 1 => some .b64 | 2 => some .s32 | 3 => some .s64 | 4 => some .n32 | 5 => some .n64
  | 6 => some .f32 | 7 => some .f16 | 8 => some .bf16 | 9 => some .f16x2 | 10 => some .bf16x2 | 11 => some .e4m3
  | 12 => some .e5m2 | 13 => some .e2m1 | 14 => some .mxi8 | _ => none

/-- RND codes (R285). -/
def rndCode : Rnd → BitVec 3
  | .rne => 0 | .rtz => 1 | .rdn => 2 | .rup => 3 | .rna => 4 | .rs => 5

def rndOf (c : BitVec 3) : Option Rnd :=
  match c.toNat with
  | 0 => some .rne | 1 => some .rtz | 2 => some .rdn | 3 => some .rup | 4 => some .rna | 5 => some .rs | _ => none

/-- SIZE codes (R313). -/
def sizeCode : Size → BitVec 3
  | .b8 => 0 | .b16 => 1 | .b32 => 2 | .b64 => 3 | .b128 => 4

def sizeOf (c : BitVec 3) : Option Size :=
  match c.toNat with
  | 0 => some .b8 | 1 => some .b16 | 2 => some .b32 | 3 => some .b64 | 4 => some .b128 | _ => none

/-- ORD codes (R313). -/
def ordCode : Ord → BitVec 3
  | .plain => 0 | .rlx => 1 | .acq => 2 | .rel => 3 | .ar => 4

def ordOf (c : BitVec 3) : Option Ord :=
  match c.toNat with
  | 0 => some .plain | 1 => some .rlx | 2 => some .acq | 3 => some .rel | 4 => some .ar | _ => none

/-- Scope codes, SUB[5]:SCOPE (R313). -/
def scopeCode : Scope → BitVec 3
  | .wg => 0 | .quad => 1 | .die => 2 | .pkg => 3 | .sys => 4

def scopeOf (c : BitVec 3) : Option Scope :=
  match c.toNat with
  | 0 => some .wg | 1 => some .quad | 2 => some .die | 3 => some .pkg | 4 => some .sys | _ => none

/-- SPACE codes (R313). -/
def spaceCode : Space → BitVec 2
  | .glb => 0 | .scr => 1 | .const => 2

def spaceOf (c : BitVec 2) : Option Space :=
  match c.toNat with
  | 0 => some .glb | 1 => some .scr | 2 => some .const | _ => none

/-- CACHE codes (R313). -/
def keepCode : Keep → BitVec 2
  | .dflt => 0 | .strm => 1 | .keep => 2 | .llc => 3

def keepOf (c : BitVec 2) : Keep :=
  match c.toNat with
  | 0 => .dflt | 1 => .strm | 2 => .keep | _ => .llc

/-- SUB of the atomic operations (R378). -/
def atomCode : AtomOp → BitVec 5
  | .add => 0 | .smin => 1 | .smax => 2 | .umin => 3 | .umax => 4 | .and => 5 | .or => 6 | .xor => 7
  | .exch => 8 | .inc => 9 | .dec => 10 | .fadd => 11 | .fmin => 12 | .fmax => 13 | .hadd2 => 14 | .badd2 => 15

def atomOf (n : Nat) : Option AtomOp :=
  match n with
  | 0 => some .add | 1 => some .smin | 2 => some .smax | 3 => some .umin | 4 => some .umax | 5 => some .and
  | 6 => some .or | 7 => some .xor | 8 => some .exch | 9 => some .inc | 10 => some .dec | 11 => some .fadd
  | 12 => some .fmin | 13 => some .fmax | 14 => some .hadd2 | 15 => some .badd2 | _ => none

def icondCode : ICond → BitVec 6
  | .eq => 0 | .ne => 1 | .lt => 2 | .le => 3 | .gt => 4 | .ge => 5

def icondOf (n : Nat) : Option ICond :=
  match n with
  | 0 => some .eq | 1 => some .ne | 2 => some .lt | 3 => some .le | 4 => some .gt | 5 => some .ge | _ => none

def fcondCode : FCond → BitVec 6
  | .eq => 0 | .ne => 1 | .lt => 2 | .le => 3 | .gt => 4 | .ge => 5 | .num => 6 | .nan => 7

def fcondOf (n : Nat) : Option FCond :=
  match n with
  | 0 => some .eq | 1 => some .ne | 2 => some .lt | 3 => some .le | 4 => some .gt | 5 => some .ge | 6 => some .num
  | 7 => some .nan | _ => none

def pandCode : PandOp → BitVec 6
  | .and => 0 | .or => 1 | .xor => 2 | .andn => 3

def pandOf (n : Nat) : Option PandOp :=
  match n with
  | 0 => some .and | 1 => some .or | 2 => some .xor | 3 => some .andn | _ => none

def shflCode : ShflMode → BitVec 6
  | .sfrom => 0 | .back => 1 | .fwd => 2 | .swap => 3 | .rot => 4

def shflOf (n : Nat) : Option ShflMode :=
  match n with
  | 0 => some .sfrom | 1 => some .back | 2 => some .fwd | 3 => some .swap | 4 => some .rot | _ => none

def voteCode : VoteOp → BitVec 6
  | .and => 0 | .or => 1 | .same => 2

def voteOf (n : Nat) : Option VoteOp :=
  match n with
  | 0 => some .and | 1 => some .or | 2 => some .same | _ => none

def reduxCode : ReduxOp → BitVec 6
  | .add => 0 | .min => 1 | .max => 2 | .and => 3 | .or => 4 | .xor => 5

def reduxOf (n : Nat) : Option ReduxOp :=
  match n with
  | 0 => some .add | 1 => some .min | 2 => some .max | 3 => some .and | 4 => some .or | 5 => some .xor | _ => none

def scanCode : ScanOp → BitVec 6
  | .add => 0 | .addx => 1 | .min => 2 | .max => 3 | .or => 4 | .xor => 5

def scanOf (n : Nat) : Option ScanOp :=
  match n with
  | 0 => some .add | 1 => some .addx | 2 => some .min | 3 => some .max | 4 => some .or | 5 => some .xor | _ => none

def lmaskCode : LmaskOp → BitVec 6
  | .lo => 0 | .loeq => 1 | .hi => 2 | .hieq => 3 | .self => 4

def lmaskOf (n : Nat) : Option LmaskOp :=
  match n with
  | 0 => some .lo | 1 => some .loeq | 2 => some .hi | 3 => some .hieq | 4 => some .self | _ => none

def prefCode : PrefLevel → BitVec 5
  | .l1 => 0 | .l2 => 1 | .llc => 2

def prefOf (n : Nat) : Option PrefLevel :=
  match n with
  | 0 => some .l1 | 1 => some .l2 | 2 => some .llc | _ => none

def boolCode {w : Nat} (b : Bool) : BitVec w := if b then 1 else 0

/-! ## The word -/

/-- The fields of a word (R298). -/
structure Raw where
  opc : BitVec 10
  sub : BitVec 6
  dst : BitVec 10
  sa : BitVec 10
  sb : BitVec 10
  sc : BitVec 10
  pred : BitVec 5
  neg : BitVec 1
  hnt : BitVec 8
  mod : BitVec 26
  deriving DecidableEq, Repr

def rawOfBits (w : BitVec 96) : Raw :=
  { opc := w.extractLsb' 0 10
    sub := w.extractLsb' 10 6
    dst := w.extractLsb' 16 10
    sa := w.extractLsb' 26 10
    sb := w.extractLsb' 36 10
    sc := w.extractLsb' 46 10
    pred := w.extractLsb' 56 5
    neg := w.extractLsb' 61 1
    hnt := w.extractLsb' 62 8
    mod := w.extractLsb' 70 26 }

def rawBits (r : Raw) : BitVec 96 :=
  r.mod ++ r.hnt ++ r.neg ++ r.pred ++ r.sc ++ r.sb ++ r.sa ++ r.dst ++ r.sub ++ r.opc

/-! MOD of the layouts; bit k of MOD is bit 70 + k of the word. -/

def modTy (m : BitVec 26) : BitVec 4 := m.extractLsb' 0 4
def modRnd (m : BitVec 26) : BitVec 3 := m.extractLsb' 4 3
def modSat (m : BitVec 26) : BitVec 1 := m.extractLsb' 7 1
def modFtz (m : BitVec 26) : BitVec 1 := m.extractLsb' 8 1
def modRsv9 (m : BitVec 26) : BitVec 1 := m.extractLsb' 9 1
/-- [95:80] of ARITH (R310). -/
def modHi (m : BitVec 26) : BitVec 16 := m.extractLsb' 10 16
/-- STYPE, ESEL and the reserved bits of CVT (R311). -/
def modSty (m : BitVec 26) : BitVec 4 := m.extractLsb' 10 4
def modEsel (m : BitVec 26) : BitVec 3 := m.extractLsb' 14 3
def modRsv17 (m : BitVec 26) : BitVec 9 := m.extractLsb' 17 9
/-- The fields of MEM (R313). -/
def modSize (m : BitVec 26) : BitVec 3 := m.extractLsb' 0 3
def modSpace (m : BitVec 26) : BitVec 2 := m.extractLsb' 3 2
def modOrd (m : BitVec 26) : BitVec 3 := m.extractLsb' 5 3
def modScope (m : BitVec 26) : BitVec 2 := m.extractLsb' 8 2
def modRset (m : BitVec 26) : BitVec 4 := m.extractLsb' 10 4
def modCache (m : BitVec 26) : BitVec 2 := m.extractLsb' 14 2
def modOff (m : BitVec 26) : BitVec 10 := m.extractLsb' 16 10
/-- The fields of GEN (R314). -/
def modFlags (m : BitVec 26) : BitVec 8 := m.extractLsb' 0 8
def modRsv8 (m : BitVec 26) : BitVec 2 := m.extractLsb' 8 2
def modImm12 (m : BitVec 26) : BitVec 12 := m.extractLsb' 14 12

/-- The scope code SUB[5]:SCOPE (R313). -/
def rawScope (r : Raw) : BitVec 3 := r.sub.extractLsb' 5 1 ++ modScope r.mod

/-! ## Forms -/

/-- What an operand field accepts. The codes are those of R328, R366 and R412. -/
inductive SlotK where
  /-- the field holds 0x380 -/
  | no
  /-- register or null destination of the operation type's width -/
  | d
  /-- register or null destination of n registers -/
  | dn (n : Nat)
  /-- destination of mov: as d, and rseed, fpctl -/
  | dm
  /-- predicate p0-p30 or null -/
  | pd
  /-- register or pd, the destination of lput -/
  | rp
  /-- source in the operation type -/
  | s
  /-- source in the operation type, without 0x340 -/
  | sx
  /-- source read as a 32-bit integer -/
  | s1
  /-- source read as .f32, without 0x340 -/
  | sf
  /-- 64-bit integer source -/
  | sw
  /-- predicate p0-p31 or null -/
  | q
  /-- register or predicate, the source of lget -/
  | rq
  /-- uniform 32-bit integer source -/
  | g1
  /-- register of n words; uniform when u -/
  | reg (n : Nat) (u : Bool)
  /-- register pair or 0x3C0 -/
  | pairFed (u : Bool)
  /-- global or constant address base (A); uniform when u -/
  | adr (u : Bool)
  /-- scratchpad address base (As); uniform when u -/
  | scr (u : Bool)
  /-- queue handle -/
  | h
  /-- load destination, by SIZE -/
  | md
  /-- store or atomic data, by SIZE -/
  | ms
  /-- 32-bit integer source of a memory or task instruction (no special register) -/
  | m1
  /-- the same, uniform -/
  | mg
  deriving DecidableEq, Repr

/-- Which types accept SAT. -/
inductive SatK where
  | no | s | sn | all
  deriving DecidableEq, Repr

/-- What MOD holds in a form. -/
inductive ModK where
  /-- accepted TYPEs; RND, SAT, FTZ accepted or not -/
  | arith (tys : List Nat) (rnd : Bool) (sat : SatK) (ftz : Bool)
  /-- bfn3: the function code -/
  | bfn3
  /-- accepted DTYPEs, STYPEs; ESEL used; RND, SAT, FTZ accepted -/
  | cvt (dtys stys : List Nat) (esel : Bool) (rnd sat ftz : Bool)
  /-- IMM26 used as a displacement -/
  | ctlOff
  /-- IMM26 zero -/
  | ctlZero
  /-- IMM26 is the mask of wsync when SA is 0x340 -/
  | ctlMask
  /-- IMM26[7:0] is a number -/
  | ctlByte
  | pfx
  /-- accepted SIZEs, SPACEs, ORDs, scopes; CACHE used; OFF used; RSET must be zero -/
  | mem (sizes spaces ords scopes : List Nat) (cache off rset0 : Bool)
  /-- accepted bits of IMM12 and FLAGS; RSET used -/
  | gen (imm12 flags : Nat) (rset : Bool)
  deriving DecidableEq, Repr

/-- Where an instruction may be used (R223, R429). -/
inductive WhereK where
  /-- everywhere -/
  | all
  /-- not on a general core (R223) -/
  | compute
  /-- scratchpad forms only are barred from a general core (R389, R397) -/
  | noScr
  /-- supervisor mode (S) -/
  | sup
  /-- handler mode, or supervisor mode after a trap (H, S after a trap) -/
  | handler
  /-- a slot other than null only in supervisor mode (keydrop) -/
  | slot
  deriving DecidableEq, Repr

/-- The form of one (OPC, SUB) pair. -/
structure Form where
  opc : Nat
  sub : Nat
  d : SlotK
  a : SlotK
  b : SlotK
  c : SlotK
  mod : ModK
  ung : Bool := false
  place : WhereK := .all
  deriving DecidableEq, Repr

/-! Type lists (R310, R328, R338, R346). -/
def tysI6 : List Nat := [0, 1, 2, 3, 4, 5]
def tysB : List Nat := [0, 1]
def tysb : List Nat := [0]
def tysSn : List Nat := [2, 4]
def tysSN : List Nat := [2, 3, 4, 5]
def tysS : List Nat := [2, 3]
def tysF : List Nat := [6, 7, 8]
def tysH : List Nat := [9, 10]
def tysE8 : List Nat := [11, 12]
def tysEl : List Nat := [11, 12, 13, 14]
def tysSc : List Nat := [0, 1, 2, 3, 4, 5, 6, 7, 8]

/-- An integer row: no RND, no FTZ. -/
def fI (opc sub : Nat) (kd ka kb kc : SlotK) (tys : List Nat) (sat : SatK := .no) : Form :=
  { opc := opc, sub := sub, d := kd, a := ka, b := kb, c := kc, mod := .arith tys false sat false }

/-- A floating-point row. -/
def fF (opc sub : Nat) (kd ka kb kc : SlotK) (tys : List Nat) (rs ftz : Bool) : Form :=
  { opc := opc, sub := sub, d := kd, a := ka, b := kb, c := kc,
    mod := .arith tys rs (if rs then .all else .no) ftz }

def fC (opc sub : Nat) (kd ka kb kc : SlotK) (dt st : List Nat) (esel rnd sat ftz : Bool) : Form :=
  { opc := opc, sub := sub, d := kd, a := ka, b := kb, c := kc, mod := .cvt dt st esel rnd sat ftz }

def fT (opc sub : Nat) (kd ka : SlotK) (m : ModK) (ung : Bool := false) : Form :=
  { opc := opc, sub := sub, d := kd, a := ka, b := .no, c := .no, mod := m, ung := ung }

def fM (opc sub : Nat) (kd ka kb kc : SlotK) (m : ModK) (place : WhereK := .all) (ung : Bool := false) : Form :=
  { opc := opc, sub := sub, d := kd, a := ka, b := kb, c := kc, mod := m, ung := ung, place := place }

def fG (opc sub : Nat) (kd ka kb kc : SlotK) (imm12 : Nat := 0) (flags : Nat := 0) (rset : Bool := false)
    (place : WhereK := .all) (ung : Bool := false) : Form :=
  { opc := opc, sub := sub, d := kd, a := ka, b := kb, c := kc, mod := .gen imm12 flags rset, ung := ung,
    place := place }

/-- R329. -/
def formsInt : List Form := [
  fI 0x000 0 .no .no .no .no tysb, fI 0x001 0 .dm .s .no .no tysB, fI 0x002 0 .d .s .s .q tysB,
  fI 0x003 0 .d .s .s1 .no tysI6, fI 0x003 1 .d .s .s1 .no tysI6, fI 0x003 2 .d .s .s1 .no tysI6,
  fI 0x003 3 .d .s .s1 .no tysI6, fI 0x003 4 .d .s .s1 .no tysI6, fI 0x003 5 .d .s .s1 .no tysI6,
  fI 0x003 6 .d .s .s1 .no tysI6, fI 0x003 7 .d .s .s1 .no tysI6,
  fI 0x004 0 .d .s .s .no tysI6 .sn, fI 0x005 0 .d .s .s .no tysI6 .sn, fI 0x006 0 .d .s .s .s tysI6 .sn,
  fI 0x007 0 .d .s .s .q tysB, fI 0x007 1 .pd .s .s .q tysB,
  fI 0x008 0 .d .s .s .no tysI6 .sn, fI 0x009 0 .d .s .s .no tysSN, fI 0x00A 0 .d .s .s .s tysI6 .sn,
  fI 0x00B 0 (.dn 2) .s .s .sw tysSn, fI 0x00C 0 .d .s .s .no tysSN .s, fI 0x00D 0 .d .s .s .no tysSN,
  fI 0x00E 0 .d .s .s .no tysSN, fI 0x00F 0 .d .s .s .no tysSN, fI 0x010 0 .d .s .no .no tysS .s,
  fI 0x011 0 .d .s .no .no tysI6 .s, fI 0x012 0 .d .s .s .s tysSn,
  fI 0x013 0 .d .s .s .s tysb, fI 0x013 1 .d .s .s .s tysb, fI 0x013 2 .d .s .s .s tysb,
  fI 0x013 3 .d .s .s .s tysb, fI 0x014 0 .d .s .s .s tysb, fI 0x014 1 .d .s .s .s tysb,
  fI 0x014 2 .d .s .s .s tysb, fI 0x014 3 .d .s .s .s tysb,
  fI 0x015 0 .pd .s .s .q tysI6, fI 0x015 1 .pd .s .s .q tysI6, fI 0x015 2 .pd .s .s .q tysSN,
  fI 0x015 3 .pd .s .s .q tysSN, fI 0x015 4 .pd .s .s .q tysSN, fI 0x015 5 .pd .s .s .q tysSN,
  fI 0x016 0 .d .s .s .s tysSN]

/-- R334, R337. -/
def formsLogic : List Form := [
  fI 0x020 0 .d .s .s .no tysB, fI 0x021 0 .d .s .s .no tysB, fI 0x022 0 .d .s .s .no tysB,
  fI 0x023 0 .d .s .no .no tysB, fI 0x024 0 .d .s .s .no tysB,
  { opc := 0x025, sub := 0, d := .d, a := .sx, b := .sx, c := .sx, mod := .bfn3 },
  fI 0x026 0 .d .s .s1 .no tysB, fI 0x027 0 .d .s .s1 .no tysB, fI 0x028 0 .d .s .s1 .no tysB,
  fI 0x029 0 .d .s .s1 .no tysB, fI 0x029 1 .d .s .s1 .no tysB,
  fI 0x02A 0 .d .s .s .s1 tysb, fI 0x02A 1 .d .s .s .s1 tysb, fI 0x02B 0 .d .s .s1 .no tysSN,
  fI 0x02C 0 .d .s .s .s1 tysB, fI 0x02D 0 (.dn 1) .s .no .no tysB, fI 0x02E 0 (.dn 1) .s .no .no tysB,
  fI 0x02F 0 (.dn 1) .s .no .no tysB, fI 0x030 0 .d .s .no .no tysB, fI 0x031 0 .d .s .s .s1 tysb,
  fI 0x032 0 .pd .q .q .no tysb, fI 0x032 1 .pd .q .q .no tysb, fI 0x032 2 .pd .q .q .no tysb,
  fI 0x032 3 .pd .q .q .no tysb, fI 0x033 0 .pd .q .no .no tysb, fI 0x033 1 .d .q .no .no tysb,
  fI 0x033 2 .pd .s .no .no tysb, fI 0x033 3 .pd .s .no .no tysb]

/-- R338. -/
def formsFloat : List Form := [
  fF 0x080 0 .d .s .s .no tysF true true, fF 0x081 0 .d .s .s .no tysF true true,
  fF 0x082 0 .d .s .s .no tysF true true, fF 0x083 0 .d .s .s .s tysF true true,
  fF 0x084 0 .d .s .s .no tysF false true, fF 0x084 1 .d .s .s .no tysF false true,
  fF 0x085 0 .d .s .s .no tysF false true, fF 0x085 1 .d .s .s .no tysF false true,
  fF 0x086 0 .pd .s .s .q tysF false true, fF 0x086 1 .pd .s .s .q tysF false true,
  fF 0x086 2 .pd .s .s .q tysF false true, fF 0x086 3 .pd .s .s .q tysF false true,
  fF 0x086 4 .pd .s .s .q tysF false true, fF 0x086 5 .pd .s .s .q tysF false true,
  fF 0x086 6 .pd .s .s .q tysF false true, fF 0x086 7 .pd .s .s .q tysF false true,
  fF 0x087 0 .d .s .no .no tysF false true, fF 0x089 0 .d .s .s1 .no tysF true true,
  fF 0x08A 0 .d .s .no .no tysF false true, fF 0x08B 0 .d .s .no .no tysF false true,
  fF 0x08C 0 .d .s .no .no tysF true true, fF 0x08D 0 .d .s .s .no tysF true true,
  fF 0x08E 0 .d .s .no .no tysF true true, fF 0x090 0 .d .s .no .no tysF true true,
  fF 0x091 0 .d .s .no .no tysF true true, fF 0x092 0 .d .s .no .no tysF true true,
  fF 0x093 0 .d .s .no .no tysF true true, fF 0x094 0 .d .s .no .no tysF true true,
  fF 0x095 0 .d .s .no .no tysF true true, fF 0x096 0 .d .s .no .no tysF true true,
  fF 0x098 0 .d .s .s .no tysH true true, fF 0x099 0 .d .s .s .no tysH true true,
  fF 0x09A 0 .d .s .s .s tysH true true, fF 0x09B 0 .d .s .s .no tysH false true,
  fF 0x09B 1 .d .s .s .no tysH false true, fF 0x09C 0 .d .s .s .no tysH false true,
  fF 0x09C 1 .d .s .s .no tysH false true, fF 0x09D 0 .d .s .s .sf tysH true true,
  fF 0x09E 0 .d .s .s .sf tysE8 true true, fF 0x09E 1 .d .s .s .sf tysE8 true true]

/-- R346. -/
def formsCvt : List Form := [
  fC 0x0E0 0 .d .s .no .no tysSc (tysSc ++ tysH ++ tysEl) true true true true,
  fC 0x0E1 0 .d .s .s .s (tysH ++ tysEl) tysF false true true true,
  fC 0x0E1 1 .d .s .s .s tysEl tysF false true true true,
  fC 0x0E1 2 .d .s .s .s [13] tysF false true true true,
  fC 0x0E1 3 .d .s .s .s [13] tysF false true true true,
  fC 0x0E2 0 .d .s .no .no tysH tysEl true false true false,
  fC 0x0E3 0 .d .s .no .no [6] tysF false false false true,
  fC 0x0E4 0 .d .s .no .no tysEl [6] false false false true,
  fC 0x0E5 0 .d .s .s1 .no tysEl tysF false true true true,
  fC 0x0E6 0 .d .s .s1 .no tysF tysEl true true true true]

/-- R353. -/
def formsLane : List Form := [
  fI 0x100 0 .d .s .s1 .no tysB, fI 0x100 1 .d .s .s1 .no tysB, fI 0x100 2 .d .s .s1 .no tysB,
  fI 0x100 3 .d .s .s1 .no tysB, fI 0x100 4 .d .s .s1 .no tysB,
  fI 0x101 0 .pd .q .no .no tysb, fI 0x101 1 .pd .q .no .no tysb, fI 0x101 2 .pd .q .no .no tysb,
  fI 0x101 3 .d .q .no .no tysb, fI 0x102 0 (.dn 1) .s .no .no tysB,
  fF 0x103 0 .d .s .no .no [0, 2, 4, 6] true true, fF 0x103 1 .d .s .no .no [2, 4, 6] false true,
  fF 0x103 2 .d .s .no .no [2, 4, 6] false true, fI 0x103 3 .d .s .no .no tysb, fI 0x103 4 .d .s .no .no tysb,
  fI 0x103 5 .d .s .no .no tysb, fI 0x104 0 .d .s .no .no [0, 2, 4], fI 0x104 1 .d .s .no .no [0, 2, 4],
  fI 0x104 2 .d .s .no .no tysSn, fI 0x104 3 .d .s .no .no tysSn, fI 0x104 4 .d .s .no .no tysb,
  fI 0x104 5 .d .s .no .no tysb, fI 0x105 0 .pd .no .no .no tysb, fI 0x106 0 .d .rq .g1 .no tysb,
  fI 0x107 0 .rp .g1 .g1 .no tysb, fI 0x108 0 .d .no .no .no tysb, fI 0x108 1 .d .no .no .no tysb,
  fI 0x108 2 .d .no .no .no tysb, fI 0x108 3 .d .no .no .no tysb, fI 0x108 4 .d .no .no .no tysb]

/-- R360, R307. -/
def formsCtl : List Form := [
  fT 0x140 0 .no .no .ctlOff, fT 0x140 1 .no (.pairFed true) .ctlOff, fT 0x141 0 .no (.pairFed false) .ctlOff,
  fT 0x142 0 (.dn 2) .no .ctlOff, fT 0x142 1 (.dn 2) (.pairFed true) .ctlOff,
  fT 0x143 0 (.dn 2) (.pairFed false) .ctlOff, fT 0x144 0 .no (.pairFed false) .ctlZero,
  fT 0x145 0 .no .g1 .ctlMask true, fT 0x147 0 .no .no .ctlZero, fT 0x148 0 .no .no .ctlZero,
  fT 0x149 0 .no .no .ctlByte, fT 0x14A 0 .no .no .ctlZero, fT 0x14B 0 .no .no .pfx, fT 0x14C 0 .no .no .ctlZero]

def scopesAll : List Nat := [0, 1, 2, 3, 4]
def sizesAll : List Nat := [0, 1, 2, 3, 4]

def memLd (sizes : List Nat) : ModK := .mem sizes [0] [0, 1, 2] scopesAll true true false
def memSt : ModK := .mem sizesAll [0] [0, 1, 3] scopesAll true true false
def memLds (sizes : List Nat) : ModK := .mem sizes [1] [0, 1, 2] [0] false true false
def memSts : ModK := .mem sizesAll [1] [0, 1, 3] [0] false true false
def memLdc (sizes : List Nat) : ModK := .mem sizes [2] [0] [0] true true false
def memPref : ModK := .mem [0] [0] [0] [0] true true false
def memFe (size : Nat) : ModK := .mem [size] [1] [0] [0] false true false
def memAtom (sizes : List Nat) : ModK := .mem sizes [0] [0, 1, 2, 3, 4] scopesAll true true false
def memRed (sizes : List Nat) : ModK := .mem sizes [0] [0, 1, 3] scopesAll true true false
def memAtoms (sizes : List Nat) : ModK := .mem sizes [1] [0, 1, 2, 3, 4] [0] false true false
def memReds (sizes : List Nat) : ModK := .mem sizes [1] [0, 1, 3] [0] false true false
def memNone (ords scopes : List Nat) : ModK := .mem [0] [0] ords scopes false false false
def memTok (ords scopes : List Nat) : ModK := .mem [0] [0] ords scopes false true true
def memTb (ords scopes : List Nat) : ModK := .mem [3] [1] ords scopes false true false

/-- SIZEs of an atomic operation: operations 9 and up are 32-bit (R378). -/
def atomSizes (op : Nat) : List Nat := if op ≤ 8 then [2, 3] else [2]

def atomSubs : List Nat := [0, 1, 2, 3, 4, 5, 6, 7, 8, 9, 10, 11, 12, 13, 14, 15]
/-- red and reds have no exch (R377). -/
def redSubs : List Nat := [0, 1, 2, 3, 4, 5, 6, 7, 9, 10, 11, 12, 13, 14, 15]

/-- R370, R375. -/
def formsMem : List Form := [
  fM 0x180 0 .md (.adr false) .no .no (memLd sizesAll), fM 0x180 1 .md (.adr false) .no .no (memLd [0, 1]),
  fM 0x181 0 .no (.adr false) .ms .no memSt,
  fM 0x182 0 .md (.scr false) .no .no (memLds sizesAll) .compute,
  fM 0x182 1 .md (.scr false) .no .no (memLds [0, 1]) .compute,
  fM 0x183 0 .no (.scr false) .ms .no memSts .compute,
  fM 0x184 0 .md (.adr false) .no .no (memLdc sizesAll), fM 0x184 1 .md (.adr false) .no .no (memLdc [0, 1]),
  fM 0x186 0 .no (.adr false) .no .no memPref, fM 0x186 1 .no (.adr false) .no .no memPref,
  fM 0x186 2 .no (.adr false) .no .no memPref, fM 0x188 0 .no (.adr false) .ms .no memSt,
  fM 0x189 0 .no (.scr false) .m1 .no (memFe 0) .compute, fM 0x18A 0 .no (.scr false) .m1 .no (memFe 0) .compute,
  fM 0x18B 0 (.dn 1) (.scr false) .no .no (memFe 2) .compute]

/-- R377. -/
def formsAtom : List Form :=
  atomSubs.map (fun k => fM 0x1C0 k .md (.adr false) .ms .no (memAtom (atomSizes k))) ++
  [fM 0x1C1 0 .md (.adr false) .ms .ms (memAtom [2, 3])] ++
  redSubs.map (fun k => fM 0x1C2 k .no (.adr false) .ms .no (memRed (atomSizes k))) ++
  atomSubs.map (fun k => fM 0x1C3 k .md (.scr false) .ms .no (memAtoms (atomSizes k)) .compute) ++
  [fM 0x1C4 0 .md (.scr false) .ms .ms (memAtoms [2, 3]) .compute] ++
  redSubs.map (fun k => fM 0x1C5 k .no (.scr false) .ms .no (memReds (atomSizes k)) .compute)

/-- R381, R385, R389, R391, R394. -/
def formsSync : List Form := [
  fM 0x200 0 .no .no .no .no (memNone [2, 3, 4] scopesAll), fM 0x202 0 .no .no .no .no (memNone [2] scopesAll),
  fM 0x203 0 .no .no .no .no (memNone [4] [2, 3, 4]),
  fM 0x204 0 .no (.adr true) .no .no (memTok [2] [3]), fM 0x205 0 .no (.adr true) .mg .no (memTok [3] [3]),
  fM 0x206 0 (.dn 1) (.adr true) .no .no (memTok [0] [0]),
  fM 0x207 0 .md (.adr true) .no .no (.mem [2, 3] [0, 1] [0] [0] false true false) .noScr,
  fM 0x208 0 (.dn 1) .mg .no .no (memNone [0] [0]),
  fM 0x209 0 .no .mg .mg .no (memNone [4] [0]) .compute true,
  fM 0x20A 0 .no .mg .mg .no (memNone [4] [1, 2, 3, 4]) .all true,
  fM 0x20B 0 (.dn 1) (.scr true) .mg .no (memTb [0] [0]) .compute,
  fM 0x20C 0 .no (.scr true) .mg .no (memTb [3] [0]) .compute,
  fM 0x20C 1 .no (.scr true) .mg .mg (memTb [3] [1, 2]) .compute,
  fM 0x20D 0 .no (.scr true) .mg .no (memTb [2] [0]) .compute]

/-- R397, R403. -/
def formsTask : List Form := [
  fG 0x240 0 (.dn 1) .h (.adr false) .no 0 0x7F, fG 0x241 0 (.dn 2) .h .mg .no, fG 0x242 0 (.dn 1) .h .mg .mg,
  fG 0x243 0 (.dn 2) .h (.adr false) .no 0 1 true .noScr, fG 0x243 1 (.dn 2) .h (.adr false) .no 0 1 true .noScr,
  fG 0x244 0 (.dn 2) .h (.adr false) .no 0 1 true .noScr, fG 0x245 0 (.dn 4) .h .no .no,
  fG 0x245 1 (.dn 2) .h .no .no, fG 0x246 0 .no .mg .no .no 0xFF 0x1F false .compute true,
  fG 0x247 0 .no (.adr true) .no .no 0 0 true .compute true,
  fG 0x247 1 .pd (.adr true) .no .no 0 0 true .compute true, fG 0x249 0 (.dn 1) .h .m1 .no]

/-- R412. -/
def formsEngine : List Form := [
  fG 0x280 0 (.dn 1) .s1 .no .no 0 0 false .compute, fG 0x281 0 (.dn 1) .s1 .s1 .no 0 0 false .compute,
  fG 0x282 0 (.dn 1) .s1 .no .no 0 0 false .compute, fG 0x283 0 (.dn 1) .s1 .s1 .s1 0 0 false .compute,
  fG 0x283 1 (.dn 1) .s1 .s1 .s1 0 0 false .compute,
  fG 0x284 0 (.dn 1) .s1 (.reg 4 false) (.reg 2 false) 0 0 false .compute,
  fG 0x284 1 (.dn 1) .s1 (.reg 4 false) (.reg 2 false) 0 0 false .compute,
  fG 0x285 0 (.dn 1) .s1 (.reg 4 false) (.reg 2 false) 0 0 false .compute,
  fG 0x286 0 (.dn 1) (.reg 2 false) (.reg 2 false) (.reg 2 false),
  fG 0x286 1 (.dn 1) (.reg 2 false) (.reg 2 false) (.reg 2 false),
  fG 0x287 0 (.dn 1) .s1 .no .no 0 0 false .compute, fG 0x288 0 (.dn 1) .s1 .no .no 0 0 false .compute,
  fG 0x289 0 (.dn 1) .s1 .no .no, fG 0x28A 0 (.dn 4) .no .no .no]

/-- R429. -/
def formsSystem : List Form := [
  fG 0x2C0 0 (.dn 4) .s1 .no .no, fG 0x2C1 0 (.dn 2) .g1 .no .no, fG 0x2C2 0 .no .g1 (.reg 2 true) .no,
  fG 0x2C3 0 .no .no .no .no 0 0 false .handler true, fG 0x2C3 1 .no .no .no .no 0 0 false .handler true,
  fG 0x2C3 2 .no .no .no .no 0 0 false .handler true, fG 0x2C4 0 .no (.reg 2 true) .g1 .g1 0 0 false .sup,
  fG 0x2C4 1 .no (.reg 2 true) .g1 .g1 0 0 false .sup, fG 0x2C5 0 (.dn 1) (.reg 2 true) .no .no 0 0 false .handler,
  fG 0x2C6 0 .no (.reg 2 true) .no .no 0 0 false .handler, fG 0x2C7 0 .pd .no .no .no, fG 0x2C7 1 .pd .no .no .no,
  fG 0x2C8 0 (.dn 1) .g1 .no .no, fG 0x2C9 0 (.dn 1) .g1 .no .no 0 0 false .slot]

def forms : List Form :=
  formsInt ++ formsLogic ++ formsFloat ++ formsCvt ++ formsLane ++ formsCtl ++ formsMem ++ formsAtom ++
  formsSync ++ formsTask ++ formsEngine ++ formsSystem

/-- The layout's SUB: MEM words take their scope extension from SUB[5] (R313). -/
def rawSub (r : Raw) : Nat :=
  if 0x180 ≤ r.opc.toNat ∧ r.opc.toNat ≤ 0x20D then r.sub.toNat % 32 else r.sub.toNat

def formOf (r : Raw) : Option Form :=
  forms.find? (fun f => f.opc == r.opc.toNat && (f.sub == rawSub r || f.opc == 0x14B))

/-! ## The checks of R315 -/

/-- A decode trap: illegal instruction or illegal operand, with its SUB (R315). -/
inductive Bad where
  | ins (sub : Nat)
  | opd (sub : Nat)
  deriving DecidableEq, Repr

/-- Whose word is decoded: fed by a pfx; on a general core; in handler mode; in supervisor mode; after a trap. -/
structure DecCtx where
  fed : Bool := false
  general : Bool := false
  handler : Bool := false
  sup : Bool := false
  afterTrap : Bool := false
  deriving DecidableEq, Repr

/-- One operand field with its kind and code. -/
structure FieldK where
  k : SlotK
  code : Nat
  isDst : Bool

def fieldsOf (f : Form) (r : Raw) : List FieldK :=
  -- mon on the scratchpad and the SCR forms name a scratchpad base instead of a global one (R389, R397)
  let alt (k : SlotK) : SlotK :=
    if r.opc.toNat = 0x207 ∧ (modSpace r.mod).toNat = 1 then .scr true
    else if (r.opc.toNat = 0x243 ∨ r.opc.toNat = 0x244) ∧ (modFlags r.mod).getLsbD 0 then .scr false
    else k
  [⟨f.d, r.dst.toNat, true⟩,
   ⟨if r.opc.toNat = 0x207 then alt f.a else f.a, r.sa.toNat, false⟩,
   ⟨if r.opc.toNat = 0x243 ∨ r.opc.toNat = 0x244 then alt f.b else f.b, r.sb.toNat, false⟩,
   ⟨f.c, r.sc.toNat, false⟩]

def usedFields (f : Form) (r : Raw) : List FieldK := (fieldsOf f r).filter (fun x => x.k != .no)

def hasCode (f : Form) (r : Raw) (c : Nat) : Bool := (usedFields f r).any (fun x => x.code == c)

/-- Number of elements of a packed type, 1 for a scalar (R281, R310). -/
def tyElems (t : Nat) : Nat :=
  if t = 9 ∨ t = 10 then 2 else if t = 11 ∨ t = 12 ∨ t = 14 then 4 else if t = 13 then 8 else 1

/-- The SRCMOD bits of an operand field: two bits where it is a floating-point source (R310). -/
def srcmodBits (k : SlotK) (pos : Nat) : Nat :=
  match k with
  | .s | .sf => 3 * 4 ^ pos
  | _ => 0

/-- Step 3 for [95:80] of ARITH (R306, R310). -/
def hiBad (f : Form) (r : Raw) : Bool :=
  let t := (modTy r.mod).toNat
  let hi := (modHi r.mod).toNat
  if hasCode f r 0x340 then
    if t = 13 then decide (16 ≤ hi) else if t = 11 ∨ t = 12 ∨ t = 14 then decide (256 ≤ hi) else false
  else
    let ok := if 6 ≤ t then srcmodBits f.a 0 + srcmodBits f.b 1 + srcmodBits f.c 2 else 0
    hi &&& ok != hi

def satBad (k : SatK) (t : Nat) : Bool :=
  match k with
  | .no => true
  | .s => !(t = 2 ∨ t = 3)
  | .sn => !(t = 2 ∨ t = 3 ∨ t = 4 ∨ t = 5)
  | .all => false

/-- RND, SAT and FTZ (R285, R310, R328). -/
def roundBad (m : BitVec 26) (rnd : Bool) (sat : SatK) (ftz : Bool) : Bool :=
  let t := (modTy m).toNat
  decide (5 < (modRnd m).toNat) || (decide (modRnd m ≠ 0) && !rnd) || (decide (modSat m = 1) && satBad sat t) ||
    (decide (modFtz m = 1) && !ftz)

/-- Step 3 for the modifier field. -/
def modBad (f : Form) (r : Raw) : Bool :=
  let m := r.mod
  match f.mod with
  | .arith tys rnd sat ftz =>
    let t := (modTy m).toNat
    -- redux takes RND, SAT and FTZ only with .f32 (R353)
    let fp := r.opc.toNat != 0x103 || t == 6
    decide (modRsv9 m ≠ 0) || !tys.contains t || roundBad m (rnd && fp) (if fp then sat else .no) (ftz && fp) ||
      hiBad f r
  | .bfn3 =>
    decide (modRsv9 m ≠ 0) || !tysB.contains (modTy m).toNat || roundBad m false .no false ||
      decide (256 ≤ (modHi m).toNat)
  | .cvt dt st esel rnd sat ftz =>
    let e := (modEsel m).toNat
    decide (modRsv9 m ≠ 0) || decide (modRsv17 m ≠ 0) || !dt.contains (modTy m).toNat ||
      !st.contains (modSty m).toNat || roundBad m rnd (if sat then .all else .no) ftz ||
      (if esel then decide (tyElems (modSty m).toNat ≤ e) else decide (e ≠ 0)) ||
      (r.opc.toNat == 0x0E2 && e % 2 == 1)
  | .ctlOff => false
  | .ctlZero => decide (m ≠ 0)
  | .ctlMask => decide (m ≠ 0) && decide (r.sa.toNat ≠ 0x340)
  | .ctlByte => decide (256 ≤ m.toNat)
  | .pfx => false
  | .mem sizes spaces _ _ cache off rset0 =>
    let o := (modOrd m).toNat
    let x := (rawScope r).toNat
    decide (4 < o) || decide (4 < x) || !sizes.contains (modSize m).toNat || !spaces.contains (modSpace m).toNat ||
      (o == 0 && x != 0) || (decide (modRset m ≠ 0) && (rset0 || (o != 2 && o != 4))) ||
      (decide (modCache m ≠ 0) && !cache) || (decide (modOff m ≠ 0) && !off && !hasCode f r 0x340)
  | .gen imm12 flags rset =>
    decide (modRsv8 m ≠ 0) || decide ((modImm12 m).toNat &&& imm12 ≠ (modImm12 m).toNat) ||
      decide ((modFlags m).toNat &&& flags ≠ (modFlags m).toNat) || (decide (modRset m ≠ 0) && !rset)

/-- Step 3: reserved fields, unused operand fields, guards (R298-R300, R302). -/
def step3Bad (f : Form) (r : Raw) : Bool :=
  if f.mod = .pfx then decide ((rawBits r).extractLsb' 10 22 ≠ 0)
  else
    decide (r.hnt.extractLsb' 6 2 ≠ 0) || (f.ung && !(r.neg == 0 && r.pred == 31)) ||
      (fieldsOf f r).any (fun x => x.k == .no && x.code != 0x380) || modBad f r

/-- Step 6: orderings and scopes (R231). -/
def step6Bad (f : Form) (r : Raw) : Bool :=
  match f.mod with
  | .mem _ _ ords scopes _ _ _ =>
    !ords.contains (modOrd r.mod).toNat ||
      ((modOrd r.mod).toNat != 0 && !scopes.contains (rawScope r).toNat)
  | _ => false

/-- Step 8: the instruction is unavailable on a general core (R223). -/
def step8Bad (f : Form) (r : Raw) (c : DecCtx) : Bool :=
  c.general &&
    match f.place with
    | .compute => true
    | .noScr => if r.opc.toNat = 0x207 then (modSpace r.mod).toNat == 1 else (modFlags r.mod).getLsbD 0
    | _ => false

/-- R429, Where: used elsewhere, the instruction is illegal with SUB 0. -/
def whereBad (f : Form) (r : Raw) (c : DecCtx) : Bool :=
  match f.place with
  | .sup => !(c.general && c.sup)
  | .handler => if c.general then !(c.sup && c.afterTrap) else !c.handler
  | .slot => r.sa != 0x380 && !(c.general && c.sup)
  | _ => false

/-- Registers that an operand of the operation type names. -/
def tyRegs (t : Nat) : Nat := if t = 1 ∨ t = 3 ∨ t = 5 then 2 else 1

def sizeRegs (s : Nat) : Nat := if s = 3 then 2 else if s = 4 then 4 else 1

/-- Registers that a field names, by its kind (R303). -/
def slotRegs (f : Form) (r : Raw) (x : FieldK) : Nat :=
  let t := (modTy r.mod).toNat
  match x.k with
  | .d | .dm => tyRegs t
  | .dn n => n
  | .s | .sx =>
    match f.mod with
    | .cvt .. => if x.isDst then tyRegs t else tyRegs (modSty r.mod).toNat
    | _ => tyRegs t
  | .sw => 2
  | .reg n _ => n
  | .pairFed _ | .adr _ => 2
  | .md | .ms => sizeRegs (modSize r.mod).toNat
  | _ => 1

/-- A source field reads its constants as integers or bits (R305, R366). -/
def slotInt (f : Form) (r : Raw) (x : FieldK) : Bool :=
  match x.k with
  | .sf => false
  | .s | .sx =>
    match f.mod with
    | .arith .. | .bfn3 => decide ((modTy r.mod).toNat < 6)
    -- the base of cvtp has the destination type
    | .cvt .. => decide ((modSty r.mod).toNat < 6)
    | _ => true
  -- the floating-point atomics read constants in their own type
  | .ms => !(decide (0x1C0 ≤ r.opc.toNat) && decide (r.opc.toNat ≤ 0x1C5) && decide (11 ≤ rawSub r))
  | _ => true

/-- Step 9 for one field: the SUB of the illegal operand (R301-R303). -/
def fieldBad (f : Form) (r : Raw) (x : FieldK) : Option Nat :=
  let c := x.code
  let n := slotRegs f r x
  let kindOk (b : Bool) : Option Nat := if b then none else some 1
  if c < 0x100 then
    match x.k with
    | .pd | .q => some 1
    | _ => if c % n = 0 then none else some 1
  else if c < 0x120 then
    match x.k with
    | .pd | .rp => if c = 0x11F then some 2 else none
    | .q | .rq => none
    | _ => if x.isDst ∧ c = 0x11F then some 2 else some 1
  else if c < 0x200 then some 1
  else if c < 0x300 then
    if x.isDst then
      if x.k = .dm ∧ (c = 0x212 ∨ c = 0x213) ∧ modTy r.mod = 0 then none else some 2
    else
      match x.k with
      | .s | .sx | .s1 | .sf | .sw | .g1 => none
      | _ => some 1
  else if x.isDst then kindOk (c = 0x380)
  else if c < 0x340 then
    match x.k with
    | .s | .sx | .s1 | .sf | .sw | .g1 | .adr _ | .scr _ | .h | .ms | .m1 | .mg => none
    | _ => some 1
  else if c = 0x340 then
    match f.mod with
    | .cvt .. | .gen .. => some 1
    | _ =>
      match x.k with
      | .s | .s1 | .sw | .g1 | .adr _ | .scr _ | .ms | .m1 | .mg => none
      | _ => some 1
  else if c = 0x380 then
    match x.k with
    | .s | .sx | .s1 | .sf | .sw | .q | .g1 | .adr _ | .scr _ | .ms | .m1 | .mg => none
    | _ => some 1
  else if c = 0x3C0 then
    match x.k with
    | .s | .sx | .s1 | .sf | .sw | .g1 | .pairFed _ | .adr _ | .scr _ | .h | .ms | .m1 | .mg => none
    | _ => some 1
  else some 1

/-- Step 10 for one field: a constant of entries 24-63 in an integer or bit type (R305). -/
def fieldConstBad (f : Form) (r : Raw) (x : FieldK) : Bool :=
  !x.isDst && decide (0x318 ≤ x.code) && decide (x.code < 0x340) && slotInt f r x

def firstBad (f : Form) (r : Raw) : List FieldK → Option Nat
  | [] => none
  | x :: t => match fieldBad f r x with
    | some s => some s
    | none => firstBad f r t

/-- R315, steps 1 to 10. -/
def rawBad (c : DecCtx) (r : Raw) : Option Bad :=
  match formOf r with
  | none => some (.ins 0)
  | some f =>
    if whereBad f r c then some (.ins 0)
    else if step3Bad f r then some (.ins 1)
    else if f.mod = .pfx then (if c.fed then some (.ins 3) else none)
    else if c.fed && !hasCode f r 0x3C0 then some (.ins 2)
    else if step6Bad f r then some (.ins 4)
    else if (usedFields f r).any (fun x => decide (0x214 ≤ x.code) && decide (x.code < 0x300)) then some (.ins 5)
    else if step8Bad f r c then some (.ins 6)
    else match firstBad f r (usedFields f r) with
      | some s => some (.opd s)
      | none => if (usedFields f r).any (fieldConstBad f r) then some (.opd 3) else none

/-- The context in which nothing depends on who runs the word: every place is allowed. -/
def anyCtx (f : Form) : DecCtx :=
  match f.place with
  | .sup | .slot => { general := true, sup := true }
  | .handler => { handler := true }
  | _ => {}

end Sys2Proof.Machine
end

