-- ==== Sys2Proof/Machine/Code.lean ====
section
/-! DEFINITION. From the fields of a word to an instruction and back (R297-R324): `instrOf` reads the fields of a
word that passed the checks, `rawOf` gives the fields of an instruction. -/

namespace Sys2Proof.Machine

def guardOf (r : Raw) : Guard := { neg := r.neg == 1, pred := r.pred }

def headOf (r : Raw) : Option Head := do
  let d ← opndOf r.dst
  let a ← opndOf r.sa
  let b ← opndOf r.sb
  let c ← opndOf r.sc
  some { g := guardOf r, hnt := r.hnt.extractLsb' 0 6, dst := d, sa := a, sb := b, sc := c }

def arithOf (r : Raw) : Option ArithF := do
  let h ← headOf r
  let rnd ← rndOf (modRnd r.mod)
  let ty ← tyOf (modTy r.mod)
  some { h := h, hi := modHi r.mod, ftz := modFtz r.mod == 1, sat := modSat r.mod == 1, rnd := rnd, ty := ty }

def cvtOf (r : Raw) : Option CvtF := do
  let h ← headOf r
  let rnd ← rndOf (modRnd r.mod)
  let sty ← tyOf (modSty r.mod)
  let dty ← tyOf (modTy r.mod)
  some { h := h, esel := modEsel r.mod, sty := sty, ftz := modFtz r.mod == 1, sat := modSat r.mod == 1, rnd := rnd,
         dty := dty }

def ctlOf (r : Raw) : Option CtlF := do
  let h ← headOf r
  some { h := h, imm := r.mod }

def memOf (r : Raw) : Option MemF := do
  let h ← headOf r
  let scope ← scopeOf (rawScope r)
  let ord ← ordOf (modOrd r.mod)
  let space ← spaceOf (modSpace r.mod)
  let size ← sizeOf (modSize r.mod)
  some { h := h, off := modOff r.mod, cache := keepOf (modCache r.mod), rset := modRset r.mod, scope := scope,
         ord := ord, space := space, size := size }

def genOf (r : Raw) : Option GenF := do
  let h ← headOf r
  some { h := h, imm12 := modImm12 r.mod, rset := modRset r.mod, flags := modFlags r.mod }

/-- Integer and logic operations, OPC 0x000-0x033 (R329, R334). -/
def instrInt (opc sub : Nat) (f : ArithF) : Option Instr :=
  match opc with
  | 0x000 => some (.nop f)
  | 0x001 => some (.mov f)
  | 0x002 => some (.sel f)
  | 0x003 => some (.lea (BitVec.ofNat 3 sub) f)
  | 0x004 => some (.iadd f)
  | 0x005 => some (.isub f)
  | 0x006 => some (.iadd3 f)
  | 0x007 => if sub = 0 then some (.iaddx f) else some (.iaddxCo f)
  | 0x008 => some (.imul f)
  | 0x009 => some (.imulh f)
  | 0x00A => some (.imad f)
  | 0x00B => some (.imadw f)
  | 0x00C => some (.idiv f)
  | 0x00D => some (.irem f)
  | 0x00E => some (.imin f)
  | 0x00F => some (.imax f)
  | 0x010 => some (.iabs f)
  | 0x011 => some (.ineg f)
  | 0x012 => some (.isad f)
  | 0x013 => some (.idp4 (sub % 2 == 1) (sub / 2 == 1) f)
  | 0x014 => some (.idp2 (sub % 2 == 1) (sub / 2 == 1) f)
  | 0x015 => (icondOf sub).map (fun c => .icmp c f)
  | 0x016 => some (.iclamp f)
  | 0x020 => some (.and f)
  | 0x021 => some (.or f)
  | 0x022 => some (.xor f)
  | 0x023 => some (.not f)
  | 0x024 => some (.andn f)
  | 0x025 => some (.bfn3 f)
  | 0x026 => some (.shl f)
  | 0x027 => some (.shr f)
  | 0x028 => some (.sra f)
  | 0x029 => some (.rot (sub == 1) f)
  | 0x02A => some (.shf (sub == 1) f)
  | 0x02B => some (.bfx f)
  | 0x02C => some (.bfi f)
  | 0x02D => some (.popc f)
  | 0x02E => some (.clz f)
  | 0x02F => some (.ctz f)
  | 0x030 => some (.brev f)
  | 0x031 => some (.bperm f)
  | 0x032 => (pandOf sub).map (fun o => .pand o f)
  | 0x033 => match sub with
    | 0 => some (.pmov f)
    | 1 => some (.pmovMask f)
    | 2 => some (.pmovBit f)
    | _ => some (.pmovNz f)
  | _ => none

/-- Floating-point operations, OPC 0x080-0x09E (R338). -/
def instrFloat (opc sub : Nat) (f : ArithF) : Option Instr :=
  match opc with
  | 0x080 => some (.fadd f)
  | 0x081 => some (.fsub f)
  | 0x082 => some (.fmul f)
  | 0x083 => some (.ffma f)
  | 0x084 => some (.fmin (sub == 1) f)
  | 0x085 => some (.fmax (sub == 1) f)
  | 0x086 => (fcondOf sub).map (fun c => .fcmp c f)
  | 0x087 => some (.fclass f)
  | 0x089 => some (.fscale f)
  | 0x08A => some (.fexpo f)
  | 0x08B => some (.ffract f)
  | 0x08C => some (.fround f)
  | 0x08D => some (.fdiv f)
  | 0x08E => some (.fsqrt f)
  | 0x090 => some (.frcp f)
  | 0x091 => some (.frsq f)
  | 0x092 => some (.fex2 f)
  | 0x093 => some (.flg2 f)
  | 0x094 => some (.fsin f)
  | 0x095 => some (.fcos f)
  | 0x096 => some (.ftanh f)
  | 0x098 => some (.hadd2 f)
  | 0x099 => some (.hmul2 f)
  | 0x09A => some (.hfma2 f)
  | 0x09B => some (.hmin2 (sub == 1) f)
  | 0x09C => some (.hmax2 (sub == 1) f)
  | 0x09D => some (.fdot2 f)
  | 0x09E => some (.fdot4 (sub == 1) f)
  | _ => none

/-- Conversion and microscaling, OPC 0x0E0-0x0E6 (R346). -/
def instrCvt (opc sub : Nat) (f : CvtF) : Option Instr :=
  match opc with
  | 0x0E0 => some (.cvt f)
  | 0x0E1 => some (.cvtp (BitVec.ofNat 2 sub) f)
  | 0x0E2 => some (.cvtx f)
  | 0x0E3 => some (.mxamax f)
  | 0x0E4 => some (.mxscale f)
  | 0x0E5 => some (.mxq f)
  | 0x0E6 => some (.mxdq f)
  | _ => none

/-- Cross-lane operations, OPC 0x100-0x108 (R353). -/
def instrLane (opc sub : Nat) (f : ArithF) : Option Instr :=
  match opc with
  | 0x100 => (shflOf sub).map (fun m => .shfl m f)
  | 0x101 => if sub = 3 then some (.voteBits f) else (voteOf sub).map (fun o => .vote o f)
  | 0x102 => some (.matchLanes f)
  | 0x103 => (reduxOf sub).map (fun o => .redux o f)
  | 0x104 => (scanOf sub).map (fun o => .scan o f)
  | 0x105 => some (.elect f)
  | 0x106 => some (.lget f)
  | 0x107 => some (.lput f)
  | 0x108 => (lmaskOf sub).map (fun o => .lmask o f)
  | _ => none

/-- Control operations, OPC 0x140-0x14C but 0x14B (R360). -/
def instrCtl (opc sub : Nat) (f : CtlF) : Option Instr :=
  match opc with
  | 0x140 => if sub = 0 then some (.bra f) else some (.braAbs f)
  | 0x141 => some (.brx f)
  | 0x142 => if sub = 0 then some (.call f) else some (.callAbs f)
  | 0x143 => some (.callx f)
  | 0x144 => some (.ret f)
  | 0x145 => some (.wsync f)
  | 0x147 => some (.yld f)
  | 0x148 => some (.exit f)
  | 0x149 => some (.trap f)
  | 0x14A => some (.brkpt f)
  | 0x14C => some (.beat f)
  | _ => none

/-- Memory, atomic and synchronisation operations, OPC 0x180-0x20D (R370, R375, R377, R381, R385, R389, R391,
R394). -/
def instrMem (opc sub : Nat) (f : MemF) : Option Instr :=
  match opc with
  | 0x180 => some (.ld (sub == 1) f)
  | 0x181 => some (.st f)
  | 0x182 => some (.lds (sub == 1) f)
  | 0x183 => some (.sts f)
  | 0x184 => some (.ldc (sub == 1) f)
  | 0x186 => (prefOf sub).map (fun l => .pref l f)
  | 0x188 => some (.stm f)
  | 0x189 => some (.sete f)
  | 0x18A => some (.setf f)
  | 0x18B => some (.ldfe f)
  | 0x1C0 => (atomOf sub).map (fun o => .atom o f)
  | 0x1C1 => some (.acas f)
  | 0x1C2 => (atomOf sub).map (fun o => .red o f)
  | 0x1C3 => (atomOf sub).map (fun o => .atoms o f)
  | 0x1C4 => some (.acass f)
  | 0x1C5 => (atomOf sub).map (fun o => .reds o f)
  | 0x200 => some (.fence f)
  | 0x202 => some (.sinv f)
  | 0x203 => some (.drainInsn f)
  | 0x204 => some (.racq f)
  | 0x205 => some (.rrel f)
  | 0x206 => some (.rtst f)
  | 0x207 => some (.mon f)
  | 0x208 => some (.mwait f)
  | 0x209 => some (.bar f)
  | 0x20A => some (.gbar f)
  | 0x20B => some (.tbinit f)
  | 0x20C => if sub = 0 then some (.tbarr f) else some (.tbarrRem f)
  | 0x20D => some (.tbwait f)
  | _ => none

/-- Task, engine and system operations, OPC 0x240-0x2C9 (R397, R403, R412, R429). -/
def instrGen (opc sub : Nat) (f : GenF) : Option Instr :=
  match opc with
  | 0x240 => some (.spawn f)
  | 0x241 => some (.qrsv f)
  | 0x242 => some (.qpub f)
  | 0x243 => if sub = 0 then some (.qpop f) else some (.qpopTry f)
  | 0x244 => some (.qsteal f)
  | 0x245 => if sub = 0 then some (.qinfo f) else some (.qinfoBase f)
  | 0x246 => some (.cont f)
  | 0x247 => if sub = 0 then some (.mig f) else some (.migTry f)
  | 0x249 => some (.dsig f)
  | 0x280 => some (.mmx f)
  | 0x281 => some (.mmz f)
  | 0x282 => some (.mepi f)
  | 0x283 => if sub = 0 then some (.mldA2s f) else some (.mldS2a f)
  | 0x284 => if sub = 0 then some (.cpyLd f) else some (.cpySt f)
  | 0x285 => some (.cpym f)
  | 0x286 => if sub = 0 then some (.bcpy f) else some (.bcpyReg f)
  | 0x287 => some (.wmv f)
  | 0x288 => some (.wld f)
  | 0x289 => some (.ewait f)
  | 0x28A => some (.evpop f)
  | 0x2C0 => some (.capr f)
  | 0x2C1 => some (.ctlr f)
  | 0x2C2 => some (.ctlw f)
  | 0x2C3 => match sub with
    | 0 => some (.tretRe f)
    | 1 => some (.tretSkipf f)
    | _ => some (.tretSkip f)
  | 0x2C4 => if sub = 0 then some (.atinv f) else some (.atinvForce f)
  | 0x2C5 => some (.lsave f)
  | 0x2C6 => some (.lrest f)
  | 0x2C7 => if sub = 0 then some (.whalt f) else some (.whaltGroup f)
  | 0x2C8 => some (.csleep f)
  | 0x2C9 => some (.keydrop f)
  | _ => none

/-- The instruction whose fields a word holds; none where a field holds a reserved code. -/
def instrOf (r : Raw) : Option Instr :=
  let o := r.opc.toNat
  let s := rawSub r
  if o < 0x080 then (arithOf r).bind (instrInt o s)
  else if o < 0x0E0 then (arithOf r).bind (instrFloat o s)
  else if o < 0x100 then (cvtOf r).bind (instrCvt o s)
  else if o < 0x140 then (arithOf r).bind (instrLane o s)
  else if o = 0x14B then some (.pfx ((rawBits r).extractLsb' 32 64))
  else if o < 0x180 then (ctlOf r).bind (instrCtl o s)
  else if o < 0x240 then (memOf r).bind (instrMem o s)
  else (genOf r).bind (instrGen o s)

/-! ## Back to the fields -/

def rawHead (h : Head) (opc : BitVec 10) (sub : BitVec 6) (m : BitVec 26) : Raw :=
  { opc := opc, sub := sub, dst := opndCode h.dst, sa := opndCode h.sa, sb := opndCode h.sb, sc := opndCode h.sc,
    pred := h.g.pred, neg := boolCode h.g.neg, hnt := 0#2 ++ h.hnt, mod := m }

def rawArith (opc : BitVec 10) (sub : BitVec 6) (f : ArithF) : Raw :=
  rawHead f.h opc sub (f.hi ++ 0#1 ++ (boolCode f.ftz : BitVec 1) ++ (boolCode f.sat : BitVec 1) ++ rndCode f.rnd ++
    tyCode f.ty)

def rawCvt (opc : BitVec 10) (sub : BitVec 6) (f : CvtF) : Raw :=
  rawHead f.h opc sub (0#9 ++ f.esel ++ tyCode f.sty ++ 0#1 ++ (boolCode f.ftz : BitVec 1) ++
    (boolCode f.sat : BitVec 1) ++ rndCode f.rnd ++ tyCode f.dty)

def rawCtl (opc : BitVec 10) (sub : BitVec 6) (f : CtlF) : Raw := rawHead f.h opc sub f.imm

def rawMem (opc : BitVec 10) (sub : BitVec 5) (f : MemF) : Raw :=
  let x := scopeCode f.scope
  rawHead f.h opc (x.extractLsb' 2 1 ++ sub)
    (f.off ++ keepCode f.cache ++ f.rset ++ x.extractLsb' 0 2 ++ ordCode f.ord ++ spaceCode f.space ++ sizeCode f.size)

def rawGen (opc : BitVec 10) (sub : BitVec 6) (f : GenF) : Raw :=
  rawHead f.h opc sub (f.imm12 ++ f.rset ++ 0#2 ++ f.flags)

/-- The fields of an instruction; none for an event. -/
def rawOf : Instr → Option Raw
  | .nop f => some (rawArith 0x000 0 f)
  | .mov f => some (rawArith 0x001 0 f)
  | .sel f => some (rawArith 0x002 0 f)
  | .lea k f => some (rawArith 0x003 (0#3 ++ k) f)
  | .iadd f => some (rawArith 0x004 0 f)
  | .isub f => some (rawArith 0x005 0 f)
  | .iadd3 f => some (rawArith 0x006 0 f)
  | .iaddx f => some (rawArith 0x007 0 f)
  | .iaddxCo f => some (rawArith 0x007 1 f)
  | .imul f => some (rawArith 0x008 0 f)
  | .imulh f => some (rawArith 0x009 0 f)
  | .imad f => some (rawArith 0x00A 0 f)
  | .imadw f => some (rawArith 0x00B 0 f)
  | .idiv f => some (rawArith 0x00C 0 f)
  | .irem f => some (rawArith 0x00D 0 f)
  | .imin f => some (rawArith 0x00E 0 f)
  | .imax f => some (rawArith 0x00F 0 f)
  | .iabs f => some (rawArith 0x010 0 f)
  | .ineg f => some (rawArith 0x011 0 f)
  | .isad f => some (rawArith 0x012 0 f)
  | .idp4 x y f => some (rawArith 0x013 (0#4 ++ (boolCode y : BitVec 1) ++ (boolCode x : BitVec 1)) f)
  | .idp2 x y f => some (rawArith 0x014 (0#4 ++ (boolCode y : BitVec 1) ++ (boolCode x : BitVec 1)) f)
  | .icmp c f => some (rawArith 0x015 (icondCode c) f)
  | .iclamp f => some (rawArith 0x016 0 f)
  | .and f => some (rawArith 0x020 0 f)
  | .or f => some (rawArith 0x021 0 f)
  | .xor f => some (rawArith 0x022 0 f)
  | .not f => some (rawArith 0x023 0 f)
  | .andn f => some (rawArith 0x024 0 f)
  | .bfn3 f => some (rawArith 0x025 0 f)
  | .shl f => some (rawArith 0x026 0 f)
  | .shr f => some (rawArith 0x027 0 f)
  | .sra f => some (rawArith 0x028 0 f)
  | .rot x f => some (rawArith 0x029 (boolCode x) f)
  | .shf x f => some (rawArith 0x02A (boolCode x) f)
  | .bfx f => some (rawArith 0x02B 0 f)
  | .bfi f => some (rawArith 0x02C 0 f)
  | .popc f => some (rawArith 0x02D 0 f)
  | .clz f => some (rawArith 0x02E 0 f)
  | .ctz f => some (rawArith 0x02F 0 f)
  | .brev f => some (rawArith 0x030 0 f)
  | .bperm f => some (rawArith 0x031 0 f)
  | .pand o f => some (rawArith 0x032 (pandCode o) f)
  | .pmov f => some (rawArith 0x033 0 f)
  | .pmovMask f => some (rawArith 0x033 1 f)
  | .pmovBit f => some (rawArith 0x033 2 f)
  | .pmovNz f => some (rawArith 0x033 3 f)
  | .fadd f => some (rawArith 0x080 0 f)
  | .fsub f => some (rawArith 0x081 0 f)
  | .fmul f => some (rawArith 0x082 0 f)
  | .ffma f => some (rawArith 0x083 0 f)
  | .fmin x f => some (rawArith 0x084 (boolCode x) f)
  | .fmax x f => some (rawArith 0x085 (boolCode x) f)
  | .fcmp c f => some (rawArith 0x086 (fcondCode c) f)
  | .fclass f => some (rawArith 0x087 0 f)
  | .fscale f => some (rawArith 0x089 0 f)
  | .fexpo f => some (rawArith 0x08A 0 f)
  | .ffract f => some (rawArith 0x08B 0 f)
  | .fround f => some (rawArith 0x08C 0 f)
  | .fdiv f => some (rawArith 0x08D 0 f)
  | .fsqrt f => some (rawArith 0x08E 0 f)
  | .frcp f => some (rawArith 0x090 0 f)
  | .frsq f => some (rawArith 0x091 0 f)
  | .fex2 f => some (rawArith 0x092 0 f)
  | .flg2 f => some (rawArith 0x093 0 f)
  | .fsin f => some (rawArith 0x094 0 f)
  | .fcos f => some (rawArith 0x095 0 f)
  | .ftanh f => some (rawArith 0x096 0 f)
  | .hadd2 f => some (rawArith 0x098 0 f)
  | .hmul2 f => some (rawArith 0x099 0 f)
  | .hfma2 f => some (rawArith 0x09A 0 f)
  | .hmin2 x f => some (rawArith 0x09B (boolCode x) f)
  | .hmax2 x f => some (rawArith 0x09C (boolCode x) f)
  | .fdot2 f => some (rawArith 0x09D 0 f)
  | .fdot4 x f => some (rawArith 0x09E (boolCode x) f)
  | .cvt f => some (rawCvt 0x0E0 0 f)
  | .cvtp k f => some (rawCvt 0x0E1 (0#4 ++ k) f)
  | .cvtx f => some (rawCvt 0x0E2 0 f)
  | .mxamax f => some (rawCvt 0x0E3 0 f)
  | .mxscale f => some (rawCvt 0x0E4 0 f)
  | .mxq f => some (rawCvt 0x0E5 0 f)
  | .mxdq f => some (rawCvt 0x0E6 0 f)
  | .shfl m f => some (rawArith 0x100 (shflCode m) f)
  | .vote o f => some (rawArith 0x101 (voteCode o) f)
  | .voteBits f => some (rawArith 0x101 3 f)
  | .matchLanes f => some (rawArith 0x102 0 f)
  | .redux o f => some (rawArith 0x103 (reduxCode o) f)
  | .scan o f => some (rawArith 0x104 (scanCode o) f)
  | .elect f => some (rawArith 0x105 0 f)
  | .lget f => some (rawArith 0x106 0 f)
  | .lput f => some (rawArith 0x107 0 f)
  | .lmask o f => some (rawArith 0x108 (lmaskCode o) f)
  | .bra f => some (rawCtl 0x140 0 f)
  | .braAbs f => some (rawCtl 0x140 1 f)
  | .brx f => some (rawCtl 0x141 0 f)
  | .call f => some (rawCtl 0x142 0 f)
  | .callAbs f => some (rawCtl 0x142 1 f)
  | .callx f => some (rawCtl 0x143 0 f)
  | .ret f => some (rawCtl 0x144 0 f)
  | .wsync f => some (rawCtl 0x145 0 f)
  | .yld f => some (rawCtl 0x147 0 f)
  | .exit f => some (rawCtl 0x148 0 f)
  | .trap f => some (rawCtl 0x149 0 f)
  | .brkpt f => some (rawCtl 0x14A 0 f)
  | .pfx imm => some (rawOfBits (imm ++ 0#22 ++ 0x14B#10))
  | .beat f => some (rawCtl 0x14C 0 f)
  | .ld x f => some (rawMem 0x180 (boolCode x) f)
  | .st f => some (rawMem 0x181 0 f)
  | .lds x f => some (rawMem 0x182 (boolCode x) f)
  | .sts f => some (rawMem 0x183 0 f)
  | .ldc x f => some (rawMem 0x184 (boolCode x) f)
  | .pref l f => some (rawMem 0x186 (prefCode l) f)
  | .stm f => some (rawMem 0x188 0 f)
  | .sete f => some (rawMem 0x189 0 f)
  | .setf f => some (rawMem 0x18A 0 f)
  | .ldfe f => some (rawMem 0x18B 0 f)
  | .atom o f => some (rawMem 0x1C0 (atomCode o) f)
  | .acas f => some (rawMem 0x1C1 0 f)
  | .red o f => some (rawMem 0x1C2 (atomCode o) f)
  | .atoms o f => some (rawMem 0x1C3 (atomCode o) f)
  | .acass f => some (rawMem 0x1C4 0 f)
  | .reds o f => some (rawMem 0x1C5 (atomCode o) f)
  | .fence f => some (rawMem 0x200 0 f)
  | .sinv f => some (rawMem 0x202 0 f)
  | .drainInsn f => some (rawMem 0x203 0 f)
  | .racq f => some (rawMem 0x204 0 f)
  | .rrel f => some (rawMem 0x205 0 f)
  | .rtst f => some (rawMem 0x206 0 f)
  | .mon f => some (rawMem 0x207 0 f)
  | .mwait f => some (rawMem 0x208 0 f)
  | .bar f => some (rawMem 0x209 0 f)
  | .gbar f => some (rawMem 0x20A 0 f)
  | .tbinit f => some (rawMem 0x20B 0 f)
  | .tbarr f => some (rawMem 0x20C 0 f)
  | .tbarrRem f => some (rawMem 0x20C 1 f)
  | .tbwait f => some (rawMem 0x20D 0 f)
  | .spawn f => some (rawGen 0x240 0 f)
  | .qrsv f => some (rawGen 0x241 0 f)
  | .qpub f => some (rawGen 0x242 0 f)
  | .qpop f => some (rawGen 0x243 0 f)
  | .qpopTry f => some (rawGen 0x243 1 f)
  | .qsteal f => some (rawGen 0x244 0 f)
  | .qinfo f => some (rawGen 0x245 0 f)
  | .qinfoBase f => some (rawGen 0x245 1 f)
  | .cont f => some (rawGen 0x246 0 f)
  | .mig f => some (rawGen 0x247 0 f)
  | .migTry f => some (rawGen 0x247 1 f)
  | .dsig f => some (rawGen 0x249 0 f)
  | .mmx f => some (rawGen 0x280 0 f)
  | .mmz f => some (rawGen 0x281 0 f)
  | .mepi f => some (rawGen 0x282 0 f)
  | .mldA2s f => some (rawGen 0x283 0 f)
  | .mldS2a f => some (rawGen 0x283 1 f)
  | .cpyLd f => some (rawGen 0x284 0 f)
  | .cpySt f => some (rawGen 0x284 1 f)
  | .cpym f => some (rawGen 0x285 0 f)
  | .bcpy f => some (rawGen 0x286 0 f)
  | .bcpyReg f => some (rawGen 0x286 1 f)
  | .wmv f => some (rawGen 0x287 0 f)
  | .wld f => some (rawGen 0x288 0 f)
  | .ewait f => some (rawGen 0x289 0 f)
  | .evpop f => some (rawGen 0x28A 0 f)
  | .capr f => some (rawGen 0x2C0 0 f)
  | .ctlr f => some (rawGen 0x2C1 0 f)
  | .ctlw f => some (rawGen 0x2C2 0 f)
  | .tretRe f => some (rawGen 0x2C3 0 f)
  | .tretSkipf f => some (rawGen 0x2C3 1 f)
  | .tretSkip f => some (rawGen 0x2C3 2 f)
  | .atinv f => some (rawGen 0x2C4 0 f)
  | .atinvForce f => some (rawGen 0x2C4 1 f)
  | .lsave f => some (rawGen 0x2C5 0 f)
  | .lrest f => some (rawGen 0x2C6 0 f)
  | .whalt f => some (rawGen 0x2C7 0 f)
  | .whaltGroup f => some (rawGen 0x2C7 1 f)
  | .csleep f => some (rawGen 0x2C8 0 f)
  | .keydrop f => some (rawGen 0x2C9 0 f)
  | .deferredTrapTaken _ | .groupHaltArrival _ _ | .pathPromotion _ | .joinTimeout _ _ | .emptyLineFilled _ _
  | .mwaitWake _ _ _ | .qpopWake _ _ | .csleepWake _ _ _ | .gbarArrival _ | .gbarDeparture _
  | .tbarrRemoteArrival _ | .tbwaitReturn _ _ | .migArrival _ | .migLandingSlotFree _ _ | .engineCmdStart _ _
  | .engineCmdComplete _ _ | .cpymReceiverWrite _ | .wdieOperationServe _ _ | .rd _ | .data _ | .regReq _
  | .regAck _ | .wb _ | .fwd _ | .gone _ | .recallWord _ | .dmark _ | .dmarkAck _ | .relinq _ | .rel _ | .acq _
  | .acqRsp _ | .drain _ | .armed _ | .tokAcq _ | .tokRel _ | .tokGrant _ | .replWr _ | .regSet _ | .held _
  | .heldResend _ | .responseTimeout _ | .regionMergeCheck _ | .wtLineTimeout _ _ | .flowMessageArrival _ _
  | .flowPathFail _ | .hubForward _ _ | .go _ | .moveMark _ | .markAck _ | .handoffEnd _ | .commit _
  | .redirect _ | .flowReset _ | .debugHold _ | .debugHoldClear _ | .ptimeStamp _ _ | .ptimeStampMissed _
  | .ptimeSourceTakeover | .leaseRequest _ | .leaseGrant _ | .leaseFaultAnswer _ | .leaseWaitGranted _ _
  | .leaseRenewDue _ _ | .renew _ | .renewed _ | .leaseLostAnswer _ | .leaseHolderExpiry _ _
  | .leaseGrantorExpiry _ _ | .faultRecordPost | .resolved _ | .denied _ | .enqueueWindowWrite _ _ _
  | .configRequestRetry _ | .ctxCreate _ _ | .ctxDestroy _ _ | .keyDestruction _ | .attReport _ _
  | .attCert _ _ | .imgStage _ | .imgLifecycle _ | .imgRecover _ | .advanceCommit | .hctlValWrite _ _
  | .hctlValRead _ | .queueCreate _ _ | .queueDestroy _ _ | .flush _ | .quarantineEnd _ _ | .tokenCreate _ _
  | .tokenDestroy _ _ | .ctxLeaseWrite _ _ _ | .ctxTtypeWrite _ _ | .schedStop _ | .schedRun _ | .schedReset _
  | .dbgHalt _ | .dbgResume _ | .dieHalt _ | .dieResume _ | .clusterWrite _ | .clusterMoveComplete | .isolate _
  | .next _ | .readmit _ | .abort _ | .svcDrainComplete | .wipeComplete | .selfTestDone _ | .dieTaskUnitReady
  | .unplannedDieReset _ | .freqWrite _ _ | .relockEnd _ | .pwrCapWrite _ | .powerCapWindow _
  | .thermalCeilingStep _ _ | .thermalTrip _ _ | .supplyLow _ | .supplyLimitClear | .supplyDip
  | .supplyFaultLow | .supplyHigh _ | .supplyFaultHigh | .supplyOvervoltage | .supplyRestored | .moduleReset
  | .linkTrainingComplete _ _ | .moduleWipeComplete _ | .modReadySet | .ucieModuleFail _ _
  | .tributaryLinkFail _ | .taskDispatch _ | .stealCountExchange | .steal _ _ | .gangLaunch _
  | .pendingLift _ _ | .taskEnd _ | .workgroupPark _ | .parkedWorkgroupReady _ | .continuationResume _ _
  | .watchdogFirstExpiry _ | .watchdogSecondExpiry _ | .preemptSave _ | .preemptForce _ | .coreRetentionEntry _
  | .coreWake _ | .eccCorrectable _ | .eccUncorrectable _ _ _ _ | .patrolScrub _ | .wdieRowScrub _ _
  | .registerWrite _ _ _ | .registerReadClear _ _ | .handoffState _ | .linkLevelRetry _ _ | .linkRetrain _ _ _
  | .uncorrectableFecCodeword _ => none

end Sys2Proof.Machine
end

