-- ==== Sys2Proof/Config.lean ====
section
/-! DEFINITION. What one part fixes, and the free values: constants without a body, so that no proof sees what they
are. -/

namespace Sys2Proof.Config

/-- FREE VALUE. Byte `i` that a read of a memory line under another key than the one it was written with returns:
"indeterminate bytes" (R139, R140). Arguments: counter, physical address. Assumption log 7. -/
opaque wrongKeyByte : Nat → Nat → BitVec 8

/-- FREE VALUE. Whether a byte that a failed or aborted engine command was to write holds its new value (R185, R228,
R410): "its old or its new value". Arguments: counter, byte number. Assumption log 12. -/
opaque tornByte : Nat → Nat → Bool

/-- FREE VALUE. Byte `i` of the signature of an attestation report (R148): the attestation key is drawn at random
and no port reads it. Arguments: counter, byte number. Assumption log 9. -/
opaque attSignature : Nat → Nat → BitVec 8

/-- FREE VALUE. Byte `i` of the certificate of the attestation key, and its length (R127). Assumption log 9. -/
opaque attCertificate : Nat → BitVec 8
opaque attCertificateLength : BitVec 16

/-- FREE VALUE. Word `i` that `qinfo` writes beside a code that is not OK: the queue has no state to report (R401).
Arguments: counter, word. Assumption log 13. -/
opaque absentQueueWord : Nat → Nat → BitVec 32

/-- FREE VALUE. Capability 0x0001: stepping and serial number of the part (R129). Assumption log 9. -/
opaque stepping : BitVec 8
opaque serial : BitVec 40

/-- FREE VALUE. The VER field of a capability, by ID (R128). Assumption log 20. -/
opaque capVersion : Nat → BitVec 4

/-- FREE VALUE. Module number and link index at the far end of a trained Tributary link: the chassis fixes them (R44). Assumption
log 84. -/
opaque tribPeer : Nat → BitVec 6
opaque tribPeerLink : Nat → BitVec 4

/-- FREE VALUE. Whether hub 1's port leads to another host than hub 0's (R123). Assumption log 85. -/
opaque failoverHost : Bool

end Sys2Proof.Config
end

