-- ==== Sys2Proof/Machine/Tab.lean ====
section
/-! DEFINITION. Sparse tables: a list of (key, value) pairs with strictly rising keys and no entry equal to the
default value, so that equal tables are equal data. Also byte and list helpers that every file below shares. -/

namespace Sys2Proof.Machine

/-- A table with natural-number keys. What an unlisted key holds is given by the reader and the writer. -/
abbrev Tab (α : Type) := List (Nat × α)

def Tab.find {α : Type} : Tab α → Nat → Option α
  | [], _ => none
  | (k, v) :: t, n => if k = n then some v else Tab.find t n

/-- The value at a key; `d` is what an unlisted key holds. -/
def Tab.get {α : Type} (d : α) (t : Tab α) (n : Nat) : α := (Tab.find t n).getD d

/-- The table without a key. -/
def Tab.erase {α : Type} : Tab α → Nat → Tab α
  | [], _ => []
  | (k, v) :: t, n => if k = n then Tab.erase t n else (k, v) :: Tab.erase t n

/-- The table with an entry listed, whatever its value. -/
def Tab.put {α : Type} : Tab α → Nat → α → Tab α
  | [], n, x => [(n, x)]
  | (k, v) :: t, n, x =>
    if k = n then (n, x) :: t else if n < k then (n, x) :: (k, v) :: t else (k, v) :: Tab.put t n x

/-- Writing the default value removes the entry. -/
def Tab.set {α : Type} [DecidableEq α] (d : α) (t : Tab α) (n : Nat) (x : α) : Tab α :=
  if x = d then Tab.erase t n else Tab.put t n x

def Tab.modify {α : Type} [DecidableEq α] (d : α) (t : Tab α) (n : Nat) (f : α → α) : Tab α :=
  Tab.set d t n (f (Tab.get d t n))

/-- The keys rise strictly, starting above `lo` when it is given. -/
def Tab.rising {α : Type} : Tab α → Option Nat → Bool
  | [], _ => true
  | (k, _) :: t, none => Tab.rising t (some k)
  | (k, _) :: t, some lo => decide (lo < k) && Tab.rising t (some k)

/-- The canonical form of a table. -/
def Tab.wf {α : Type} [DecidableEq α] (d : α) (t : Tab α) : Bool :=
  Tab.rising t none && t.all (fun e => decide (e.2 ≠ d))

/-- Every listed value changed by `f` (the keys stay). -/
def Tab.mapVals {α : Type} (f : Nat → α → α) (t : Tab α) : Tab α := t.map (fun e => (e.1, f e.1 e.2))

def Tab.filterVals {α : Type} (p : Nat → α → Bool) (t : Tab α) : Tab α := t.filter (fun e => p e.1 e.2)

/-! ## Lists -/

/-- The list with entry `n` replaced; unchanged when there is none. -/
def listSet {α : Type} : List α → Nat → α → List α
  | [], _, _ => []
  | _ :: t, 0, x => x :: t
  | a :: t, n + 1, x => a :: listSet t n x

def listErase {α : Type} : List α → Nat → List α
  | [], _ => []
  | _ :: t, 0 => t
  | a :: t, n + 1 => a :: listErase t n

def listModify {α : Type} (l : List α) (n : Nat) (f : α → α) : List α :=
  match l[n]? with
  | some a => listSet l n (f a)
  | none => l

/-- The first `some` that `f` gives along the list. -/
def firstSome {α β : Type} (f : α → Option β) : List α → Option β
  | [] => none
  | a :: t => match f a with
    | some b => some b
    | none => firstSome f t

/-- The position of the first entry with the property. -/
def indexWhere {α : Type} (p : α → Bool) : List α → Option Nat
  | [] => none
  | a :: t => if p a then some 0 else (indexWhere p t).map (· + 1)

/-- The smallest entry by a measure; the first of equals. -/
def minBy {α : Type} (m : α → Nat) : List α → Option α
  | [] => none
  | a :: t => match minBy m t with
    | none => some a
    | some b => if m b < m a then some b else some a

/-- The largest entry by a measure; the first of equals. -/
def maxBy {α : Type} (m : α → Nat) : List α → Option α
  | [] => none
  | a :: t => match maxBy m t with
    | none => some a
    | some b => if m a < m b then some b else some a

def sumNat (l : List Nat) : Nat := l.foldl (· + ·) 0

/-- Lanes in ascending order. -/
def lanes32 : List Nat := List.range 32

/-- The lanes of a mask in ascending order (R6). -/
def maskLanes (m : Mask) : List Nat := lanes32.filter (fun l => m.getLsbD l)

/-- The lowest lane of a mask. -/
def lowestLane (m : Mask) : Option Nat := (maskLanes m).head?

def laneBit (l : Nat) : Mask := (1#32) <<< l

/-- The mask of the lanes with a property. -/
def maskOf (p : Nat → Bool) : Mask :=
  lanes32.foldl (fun m l => if p l then m ||| laneBit l else m) 0

/-! ## Bytes -/

/-- `n` bytes of a number, lowest first (little-endian, R297). -/
def bytesOfNat : Nat → Nat → List Byte
  | 0, _ => []
  | n + 1, x => BitVec.ofNat 8 x :: bytesOfNat n (x / 256)

/-- The number that bytes hold, lowest first. -/
def natOfBytes : List Byte → Nat
  | [] => 0
  | b :: t => b.toNat + 256 * natOfBytes t

/-- Byte `i` of a byte list, 0 beyond its end. -/
def byteAt (l : List Byte) (i : Nat) : Byte := l.getD i 0

/-- The little-endian number of `n` bytes at offset `o` of a block. -/
def fieldAt (l : List Byte) (o n : Nat) : Nat := natOfBytes ((l.drop o).take n)

/-- Bits [lo + w - 1 : lo] of a number. -/
def bitsOf (x lo w : Nat) : Nat := x / 2 ^ lo % 2 ^ w

def bitOf (x lo : Nat) : Bool := x / 2 ^ lo % 2 == 1

/-- The two's-complement value of the low `w` bits of a number. -/
def signedOf (x w : Nat) : Int :=
  let y := x % 2 ^ w
  if 2 * y < 2 ^ w then (y : Int) else (y : Int) - (2 ^ w : Nat)

/-- The low `w` bits of an integer in two's complement. -/
def natOfInt (x : Int) (w : Nat) : Nat := (x % ((2 ^ w : Nat) : Int)).toNat

/-- A bit vector cut into bytes, lowest first. -/
def bytesOf {w : Nat} (n : Nat) (x : BitVec w) : List Byte := bytesOfNat n x.toNat

def b2n (b : Bool) : Nat := if b then 1 else 0

/-- A 32-bit counter that stays at its largest value (saturates). -/
def satInc (w x n : Nat) : Nat := min (x + n) (2 ^ w - 1)

end Sys2Proof.Machine
end

