-- ==== Sys2Proof/Machine/TyWave.lean ====
section
/-! DEFINITION. The state of waves, general-core threads, workgroups and cores (chapters 7, 9, 13, 14). -/

namespace Sys2Proof.Machine

/-- A register with its shape: uniform, affine (base, stride) or general (32 words) (R191). -/
inductive Reg where
  | u (w : Word)
  | a (b : Word) (s : Word)
  | g (l : List Word)
  deriving DecidableEq, Repr

/-- An error that completes an access beyond the core: the trap cause and SUB (R251, R380). -/
structure AccErr where
  cause : Nat
  sub : Nat
  deriving DecidableEq, Repr

/-- What a blocked path waits for (R198, R386, R390, R400, R405, R427, R438). A deadline is package time in ns. The
blocked instruction is kept, to be finished at the wake-up; a `racq` keeps its request number, and the error with which
it was answered; an `ewait` keeps the tags it awaits, and whether they have completed. -/
inductive Block where
  | mwait (f : MemF) (deadline : Option Nat)
  | qpop (f : GenF) (handle : Word)
  | ewait (tags : List Word) (done : Bool)
  | mig (f : GenF)
  | racq (id : Nat) (err : Option AccErr)
  | csleep (f : GenF) (deadline : Option Nat)
  deriving DecidableEq, Repr

/-- State of a path in a slot (R206, R210, R211, R265). `join n`: n fetch turns waited. -/
inductive PathSt where
  | live
  | join (turns : Nat)
  | wsync (m : Mask)
  | blocked (b : Block)
  deriving DecidableEq, Repr

/-- A live path (R206). `fed` is the immediate of a pfx just executed (R308), whose PC is 12 below `pc`.
`cut` is the entry mask that a return from a trap gives the next instruction (R261). `held` is the fetch turn of the
wave in which the path took its slot (R209). -/
structure Path where
  pc : DWord
  mask : Mask
  st : PathSt := .live
  fed : Option DWord := none
  cut : Option Mask := none
  held : Nat := 0
  deriving DecidableEq, Repr

/-- A queued path (R206). `join` counts the fetch turns of a path that entered the queue at a join (R210). -/
structure QPath where
  pc : DWord
  mask : Mask
  wait : Nat := 0
  sync : Option Mask := none
  fed : Option DWord := none
  join : Option Nat := none
  deriving DecidableEq, Repr

/-- A pending deferred trap (R201, R253, R265). -/
structure DefTrap where
  cause : Nat
  sub : Nat
  lane : Nat
  addr : DWord
  /-- the access was made in handler mode (R262) -/
  hnd : Bool := false
  deriving DecidableEq, Repr

/-- A trap being handled (R252-R254, R259, R261). `emask` is the entry mask of the trapped instruction, `slot` its
path slot, `atomDone` says that R380 covers it. -/
structure TrapInfo where
  cause : Nat
  sub : Nat
  pc : DWord
  fmask : Mask
  pmask : Mask
  addr : DWord
  deferred : Bool := false
  lost : Nat := 0
  emask : Mask := 0
  slot : Nat := 0
  fed : Bool := false
  atomDone : Bool := false
  scr : Bool := false
  xkind : Nat := 0
  accloc : Nat := 0
  /-- on a general core: lrest replaced the interrupted state (R433) -/
  restored : Bool := false
  /-- package time at the trap, on the die of the wave (R254) -/
  time : Nat := 0
  /-- its record has been posted, with origin 6 (R275) -/
  posted : Bool := false
  deriving DecidableEq, Repr

/-- A monitor (R248, R249): a scratchpad one by offset in the allocation. `fired` is the code with which it has fired. -/
structure Monitor where
  scr : Bool
  addr : DWord
  size : Nat
  fired : Option Nat := none
  deriving DecidableEq, Repr

/-- What an entry of a store queue does as it drains: bytes of global memory, plain or ordered at a scope, to every copy with
`multi` (R232, R373); bytes of the scratchpad; full/empty marks, whose byte counts stand for the bytes (R376). -/
inductive SqK where
  | glb (sc : Option Scope) (multi : Bool)
  | scr
  | mark (full : Bool)
  deriving DecidableEq, Repr

/-- A retired store that has not drained: the lanes left, in ascending order, with their addresses and bytes; a scratchpad
address is an offset in the allocation (R186, R203). -/
structure SqEnt where
  k : SqK
  /-- the store was made in handler mode (R262) -/
  hnd : Bool := false
  lanes : List (Nat × DWord × List Byte)
  deriving DecidableEq, Repr

/-- Handler mode (R258). `regs` and `preds` are the bank; `restored` says that lrest replaced the interrupted
state (R433). -/
structure Handler where
  path : Path
  regs : Tab Word := []
  preds : Tab Mask := []
  fpctl : Word := 0
  trap : TrapInfo
  restored : Bool := false
  /-- the monitor armed before entry, which is lost (R262) -/
  mon0 : Option Monitor := none
  deriving DecidableEq, Repr

/-- Where a wave stands between its boundaries: running; halting after a group halt arrived, with the time of the
arrival and the instructions retired since (R264); stopped at its boundary; held by whalt alone in a run of pool slots (R437). -/
inductive RunSt where
  | run
  | halting (since : Nat) (skid : Nat)
  | stopped (skid : Nat)
  | held (slot : Nat) (n : Nat)
  deriving DecidableEq, Repr

/-- A copy of a 128-byte line: which bytes are present, which are newer than the home's, the data (R75, R77). -/
structure Line where
  valid : BitVec 128 := 0
  dirty : BitVec 128 := 0
  data : BitVec 1024 := 0
  deriving DecidableEq, Repr

/-- One registration or release of a wave that is not acknowledged (R75, R79). `die` says that its die LLC has not
acknowledged it either. -/
structure PendReg where
  id : Nat
  die : Bool
  /-- the lane whose store it was, and the address of its access (R253) -/
  lane : Nat := 0
  addr : DWord := 0
  /-- the store was made in handler mode (R262) -/
  hnd : Bool := false
  /-- the line and its words, and whether the access is ordered (R232) -/
  line : Nat := 0
  words : Mask := 0
  ord : Bool := false
  deriving DecidableEq, Repr

/-- A releaser entry: agent, release scope, die flag (R79). -/
structure RelEnt where
  agent : Nat
  scope : Scope
  die : Bool
  deriving DecidableEq, Repr

/-- A `gbar` answer that has reached its wave: 0 departs, with the releasers of the phase; 1 refused; 2 its instance is
lost (R393); 3 its module cannot be reached (R43). -/
structure GDep where
  code : Nat
  ents : List RelEnt := []
  deriving DecidableEq, Repr

/-- Arrivals at a transaction barrier: widest scope and releasers of the open phase and of the last completed one
(R245). -/
structure TbInfo where
  scope : Scope := .wg
  ents : List RelEnt := []
  lastScope : Scope := .wg
  lastEnts : List RelEnt := []
  deriving DecidableEq, Repr

/-- Progress of the instruction that waits at the head of the wave (R232, R369): the request number, the lines
asked for, the lines answered, the lanes of an atomic already performed with their old values, errors by lane,
values of an acquire, the steps done. -/
structure OpSt where
  id : Nat := 0
  phase : Nat := 0
  sent : List Nat := []
  resp : Tab Line := []
  vals : Tab Nat := []
  errs : Tab AccErr := []
  due : Nat := 0
  drains : Nat := 0
  relEnts : List RelEnt := []
  /-- the region sets of the context as the instruction issued, while it waits (R84) -/
  rset : Option (Tab DWord) := none
  deriving DecidableEq, Repr

/-- A wave, or a general-core thread (R191-R213, R223). -/
structure Wave where
  asid : Nat
  wg : Option Nat := none
  num : Nat := 0
  role : Nat := 0
  idx : Nat := 0
  task : Word := 0
  taskId : Option Nat := none
  tile : Word × Word × Word := (0, 0, 0)
  wgid : Word × Word × Word := (0, 0, 0)
  arg : DWord := 0
  ttype : Nat := 0
  entry : DWord := 0
  /-- where it runs -/
  node : Nat
  unit : Nat
  part : Nat := 0
  /-- the slot it left, while detached (R215, R218) -/
  home : Option (Nat × Nat × Nat) := none
  /-- package time that the landing die must exceed first (R215) -/
  ship : Nat := 0
  /-- region set and releasers of an arrival still to be made (R216) -/
  arrive : Option (Nat × List RelEnt) := none
  general : Bool := false
  /-- a wave that runs a resumed continuation (R178) -/
  resumed : Bool := false
  regw : Nat := 0
  regs : Tab Reg := []
  preds : Tab Mask := []
  fpctl : Word := 0
  rseed : Word := 0
  slot0 : Option Path := none
  slot1 : Option Path := none
  queue : List QPath := []
  /-- the slot of the current or last turn: 0, 1 -/
  cur : Nat := 0
  turns : Nat := 0
  handler : Option Handler := none
  /-- general core: supervisor mode, and the trap it entered with (R278) -/
  sup : Bool := false
  trapped : Option TrapInfo := none
  deferred : List DefTrap := []
  defLost : Nat := 0
  mon : Option Monitor := none
  retired : Nat := 0
  run : RunSt := .run
  op : OpSt := {}
  /-- the store queue, oldest first (R203) -/
  sq : List SqEnt := []
  pend : List PendReg := []
  /-- relaxed loads since the last fence: releaser entries kept, and the tags whose ARMED the next acquire fence awaits -/
  kept : List RelEnt := []
  keptTag : List Nat := []
  /-- scope of the release fence in force (R234) -/
  relFence : Option Scope := none
  /-- since when every live path is blocked, package time (R175) -/
  blockedAt : Option Nat := none
  badRegs : List Nat := []
  /-- general core: translation fault that stalls it, SEQ of the record, answer (R118) -/
  stall : Option (Nat × Option Bool) := none
  /-- general core thread's engine completions (R411) -/
  comps : List (Word × Nat × Nat × DWord) := []
  compLost : Nat := 0
  /-- general core thread's own command count (R406) -/
  tagCount : Word := 0
  /-- answer of a barrier network that the wave has not yet taken -/
  gdep : Option GDep := none
  /-- core cycle of the last spurious wake-up (R249) -/
  spur : Option Nat := none
  deriving DecidableEq, Repr

/-- One hardware barrier of a workgroup (R392): open phase, count (0 = all), arrived waves. -/
structure HwBar where
  count : Nat := 0
  isOpen : Bool := false
  arrived : Mask := 0
  /-- waves whose phase completed and that have not departed -/
  leaving : Mask := 0
  deriving DecidableEq, Repr

/-- An entry of a completion list (R411). -/
structure Comp where
  tag : Word
  status : Nat
  engine : Nat
  wave : Nat
  addr : DWord
  deriving DecidableEq, Repr

/-- Where a workgroup stands. -/
inductive WgSt where
  | resident
  /-- parked (R175): ready or not -/
  | parked (ready : Bool)
  /-- saved by a pre-emption (R183) -/
  | saved
  /-- group stop under way (R264): cause and SUB, and whether it ends as held -/
  | halting (cause : Nat) (sub : Nat) (hold : Bool)
  /-- held for the debugger (R274): first pool slot and slots of the run -/
  | held (slot : Nat) (n : Nat)
  deriving DecidableEq, Repr

/-- A workgroup (R220, R263, R266). `scr`, `fe`, `acc` hold the image of a parked or saved workgroup. -/
structure Workgroup where
  asid : Nat
  task : Option Nat
  node : Nat
  unit : Nat
  off : Nat := 0
  scratch : Nat := 0
  swz : Nat := 0
  gstop : Bool := false
  waves : List Nat := []
  /-- waves that the workgroup was launched with, by `wave` -/
  total : Nat := 0
  bars : Tab HwBar := []
  /-- arrivals at transaction barriers, by allocation offset -/
  tbs : Tab TbInfo := []
  comps : List Comp := []
  compLost : Nat := 0
  st : WgSt := .resident
  /-- the wave and the trap that stopped it (R263, R274) -/
  stop : Option (Nat × TrapInfo) := none
  img : List Byte := []
  imgFe : List Nat := []
  imgAcc : List Byte := []
  /-- where a parking image stands: in the quad's L2, or in firmware memory of the die under this key slot (R175) -/
  parkKey : Option Nat := none
  prio : Nat := 0
  /-- the cluster on whose dies a saved workgroup resumes: 1 for the token cluster (R183) -/
  cluster : Nat := 0
  deriving DecidableEq, Repr

/-- A byte range [lo, hi). -/
structure Range where
  lo : Nat
  hi : Nat
  deriving DecidableEq, Repr

/-- Engine commands (R413-R426, R171). -/
inductive CmdK where
  | mmx (block : List Byte)
  | mmz (a n : Nat)
  | mepi (block : List Byte) (rseed : Word)
  | mldA2s (s a n : Nat)
  | mldS2a (s a n : Nat)
  | cpyLd (desc : List Byte) (c0 c1 c2 c3 : Int) (s : Nat) (tb : Option Nat)
  | cpySt (desc : List Byte) (c0 c1 c2 c3 : Int) (s : Nat)
  | cpym (desc : List Byte) (c0 c1 c2 c3 : Int) (s : Nat) (tb : Option Nat)
  | bcpy (x y n : Nat) (agent : Option Nat)
  | wmv (block : List Byte)
  | wld (block : List Byte)
  /-- the pre-copy of a task (R171) -/
  | pre (va s n : Nat)
  deriving DecidableEq, Repr

/-- What a command has read: scratchpad and accumulator bytes of its core, global lines, and the
conditions it met, with their addresses (R219, R410). -/
structure CmdIn where
  scr : Tab Byte := []
  acc : Tab Byte := []
  glb : Tab Line := []
  /-- code, SUB of the record, address -/
  codes : List (Nat × Nat × DWord) := []
  deriving DecidableEq, Repr

/-- A command from its retirement to its completion (R219, R406, R409). -/
structure Cmd where
  tag : Word
  /-- what completion lists and `ewait` know it by -/
  wave : Option Nat
  num : Nat
  wg : Option Nat
  taskId : Option Nat
  asid : Nat
  agent : Nat
  off : Nat
  k : CmdK
  scrR : List Range := []
  scrW : List Range := []
  accR : List Range := []
  accW : List Range := []
  /-- issued by a general-core thread, in supervisor mode -/
  general : Bool := false
  sup : Bool := false
  /-- accumulator offset that its fault record carries (R418) -/
  accloc : Nat := 0
  started : Bool := false
  /-- what it has read, once it has finished reading -/
  inp : Option CmdIn := none
  /-- the operation has reached and left its W-die (R424): status, and for each element of Y its chunk partials -/
  served : Option (Nat × List (List Word)) := none
  /-- registrations still to be acknowledged (R93), or receivers still to write (R246) -/
  regs : List Nat := []
  /-- the highest status so far, and the first byte concerned (R410) -/
  status : Nat := 0
  addr : DWord := 0
  /-- the SUB of its fault record -/
  sub : Nat := 0
  /-- effects made, acknowledgements awaited -/
  written : Bool := false
  deriving DecidableEq, Repr

/-- One entry of the range-lock table (R229). -/
structure Lock where
  tag : Word
  owner : Nat
  lo : Nat
  hi : Nat
  write : Bool
  deriving DecidableEq, Repr

/-- Misses of a core held in a region set until drains are armed (R81). -/
structure ArmWait where
  tag : Nat
  asid : Nat
  ranges : Option (List Range)
  need : Nat
  got : Nat
  /-- the answer that gives `need` has arrived -/
  known : Bool
  deriving DecidableEq, Repr

/-- A compute core or the caches and engines side of a hub thread (R186). -/
structure Core where
  scr : Tab Byte := []
  /-- empty lines, with the commands that marked them; 0 stands for sete (R228) -/
  empty : Tab (List Nat) := []
  acc : Tab Byte := []
  score : List Cmd := []
  locks : List Lock := []
  tagCount : Word := 0
  /-- latched B of the matrix engine: BOFF, BSTR, BSOFF, BFMT, K, N, and the bytes it came from (R414) -/
  latch : Option (List Nat × List Range) := none
  carried : List RelEnt := []
  /-- tags whose ARMED the core's next release awaits (R82) -/
  carryTag : List Nat := []
  arms : List ArmWait := []
  /-- landing slots in use, by partition (R186) -/
  landing : List Nat := []
  retention : Bool := false
  idleSince : Nat := 0
  sweepEnd : Nat := 0
  badScr : List Nat := []
  badAcc : List Nat := []
  deriving DecidableEq, Repr

end Sys2Proof.Machine
end

