-- ==== Sys2Proof/Machine/TyMem.lean ====
section
/-! DEFINITION. The state of homes, messages, translation and leases (chapters 2 to 4). -/

namespace Sys2Proof.Machine

/-! ## Homes (R67-R73, R80, R89, R248) -/

/-- State of a word at its home (R67). -/
inductive WordSt where
  | i | v | g | z
  deriving DecidableEq, Repr

inductive RegionSt where
  | owned | draining | wt
  deriving DecidableEq, Repr

/-- An entry of a home's region table (R69). `base` counts 128-byte lines. -/
structure Region where
  node : Nat
  asid : Nat
  base : Nat
  level : Nat
  owner : Nat
  st : RegionSt
  /-- package time of the last conflict, ns; none when there has been none -/
  quiet : Option Nat
  lru : Nat
  deriving DecidableEq, Repr

/-- Release record of one sync word at a point of record (R80). Newest entry last. -/
structure RelRec where
  ents : List RelEnt := []
  /-- removed releasers whose ARMED has not returned, with the tag of their drain -/
  pending : List (RelEnt × Nat) := []
  deriving DecidableEq, Repr

/-- A region in token mode (R89). -/
structure Token where
  node : Nat
  asid : Nat
  /-- byte address of the region -/
  base : Nat
  size : Nat
  holder : Option Nat
  /-- agent, wave, request of each waiter, oldest first -/
  waiters : List (Nat × Nat × Nat) := []
  /-- a hand-over under way: recipient named, drain tag -/
  moving : Option (Option Nat × Nat) := none
  /-- CREATE waits for the drains under its tag; DESTROY under way -/
  creating : Option Nat := none
  dying : Bool := false
  /-- the context that gave the command under way -/
  cmdBy : Nat := 0
  /-- the releasers of the last `rrel`: its core, and those that the core carried (R82, R90) -/
  ents : List RelEnt := []
  deriving DecidableEq, Repr

/-- A watch of a home on a word of a wave's monitor (R248). -/
structure Watch where
  node : Nat
  asid : Nat
  addr : Nat
  size : Nat
  wave : Nat
  deriving DecidableEq, Repr

/-- A drain under way at a releaser (R81): agent, die flag, ranges (none: every address), who is to be armed, with
which tag, the regions marked, DMARK_ACKs due. -/
structure DrainSt where
  agent : Nat
  die : Bool
  asid : Nat
  ranges : Option (List Range)
  /-- agent to arm, or the point of record that keeps a pending list -/
  acquirer : Nat
  tag : Nat
  regions : List (Nat × Nat × Nat)
  due : Nat
  deriving DecidableEq, Repr

/-! ## Messages (R47, R74) -/

/-- Message classes (R47). -/
inductive Cls where
  | ctl | req | rsp | reg | syn | bulk
  deriving DecidableEq, Repr

/-- Who asks: agent id, wave, request number, grant number with its grantor (R114), supervisor mode. -/
structure Req where
  agent : Nat
  wave : Nat
  id : Nat
  grant : Option (Nat × Nat) := none
  sup : Bool := false
  deriving DecidableEq, Repr

/-- Payloads. `asid` and `line` name a 128-byte line; `grp` is the number of words that one access reads together (R241). -/
inductive Msg where
  | rd (r : Req) (asid line : Nat) (words : Mask) (plain : Bool) (own : Line) (grp : Nat)
  | data (r : Req) (asid line : Nat) (words : Mask) (lc : Line) (err : Option AccErr) (ents : List RelEnt)
  | regReq (r : Req) (asid line : Nat) (words : Mask) (bytes : Line) (plain : Bool) (thru : Bool)
  | regAck (r : Req) (asid line : Nat) (reg wt : Mask) (race : Option Nat) (err : Option AccErr)
  | wb (agent : Nat) (asid line : Nat) (words : Mask) (bytes : Line) (keep : Bool)
  | fwd (r : Req) (asid line : Nat) (words : Mask) (base : Line) (owner : Nat) (home : Nat) (ents : List RelEnt)
      (grp : Nat)
  | gone (r : Req) (asid line : Nat) (words : Mask) (owner : Nat)
  | recall (asid line : Nat) (word : Nat) (owner : Nat)
  | dmark (agent asid base level tag : Nat)
  | dmarkAck (agent tag : Nat)
  | relinq (agent asid base level : Nat) (part : Option (List Range))
  | rel (r : Req) (asid line : Nat) (bytes : Line) (ents : List RelEnt)
  | acq (r : Req) (asid line : Nat) (words : Mask) (scope : Scope) (ranges : Option (List Range)) (tag : Nat)
      (own : Line)
  | acqRsp (r : Req) (asid line : Nat) (lc : Line) (n : Nat) (drained : List RelEnt) (err : Option AccErr)
  | drain (agent : Nat) (die : Bool) (asid : Nat) (ranges : Option (List Range)) (acquirer : Nat) (tag : Nat)
  | armed (agent : Nat) (tag : Nat) (from_ : Nat) (full : Bool)
  | tokAcq (r : Req) (asid addr : Nat)
  | tokRel (agent asid addr : Nat) (dest : Option Nat) (ents : List RelEnt)
  | tokGrant (r : Req) (asid addr : Nat) (err : Option AccErr)
  | replWr (asid line : Nat) (bytes : Line) (die : Nat) (r : Req)
  | regSet (r : Req) (asid line : Nat) (words : Mask) (agent : Nat) (keepV : Bool)
  | held (id : Nat)
  | gbarArr (asid i n : Nat) (scope : Scope) (wave agent id : Nat) (ents : List RelEnt)
  | gbarDep (wave id : Nat) (d : GDep)
  | tbArr (node unit : Nat) (asid : Nat) (addr : Nat) (t : Word) (scope : Scope) (ents : List RelEnt)
  | mcast (unit : Nat) (asid : Nat) (s : Nat) (bytes : List (Option Byte)) (tb : Option Nat) (id : Nat)
  | leaseReq (holder asid lo hi kind : Nat) (part : Nat) (ent : BitVec 128) (req : Nat)
  | grant (holder part num : Nat) (e req : Nat)
  | leaseFault (holder part : Nat) (xkind : Nat) (addr req : Nat)
  | renew (node req : Nat) (h : Nat)
  | renewed (node req : Nat) (e : Nat)
  | leaseLost (node req : Nat)
  /-- a fault routed to the fault processor of another module, and its answer (R117) -/
  | fault (hub origin sub xkind asid : Nat) (addr : DWord) (agent : Nat) (task : Word) (seq : Nat)
  | faultAns (seq : Nat) (ok : Bool)
  | moveMark (id : Nat)
  | markAck (id : Nat)
  | handoffEnd (id g : Nat)
  | commit
  | redirect (m : Msg) (cls : Cls) (seq : Nat)
  | flowReset (node : Nat)
  | hold (reason : Nat)
  | holdClear
  | flush (node index : Nat)
  | flushAck (node index : Nat)
  | handoff (id g : Nat)
  | handoffData (id g : Nat)
  | handoffAck (id g : Nat)
  | keyDestroy (slot : Nat) (gen : Nat) (agent : Nat)
  | spawn (agent : Nat) (asid : Nat) (slot : Nat) (handle : Word) (rec_ : List Byte) (ents : List RelEnt)
      (wave lane : Nat) (mod : Nat)
  | spawnRsp (wave lane : Nat) (code : Nat)
  /-- a message of another module, passing through to a third: words as they came -/
  | pass (words : List DWord)
  deriving DecidableEq, Repr

/-- A message from node to node (R46-R49). `fl` names the flow by its nodes, class and flow id; in the unordered classes, where
the sender is free to choose a flow id, none. `mod` and `smod` are the modules that it is for and comes from, where that is
another one. -/
structure Pkt where
  src : Nat
  dst : Nat
  mod : Option Nat := none
  smod : Option Nat := none
  cls : Cls
  fl : Option (Nat × Nat × Nat) := none
  seq : Nat := 0
  /-- set when the receiver keeps the message back without holding up its flow -/
  taken : Bool := false
  /-- a multicast's copy has reached its receiver, whose lines it has marked empty (R246) -/
  arrived : Bool := false
  /-- hops made between modules (R43) -/
  hops : Nat := 0
  /-- when it was sent, and when HELD last answered it (R53) -/
  since : Nat := 0
  msg : Msg
  deriving DecidableEq, Repr

/-- Sender side and receiver side of one ordered flow (R48, R49). -/
structure Flow where
  key : Nat × Nat × Nat
  /-- the nodes that its messages pass, until that path fails (R52) -/
  path : List Nat := []
  next : Nat := 0
  unacked : List Pkt := []
  /-- kept back because 64 messages are unacknowledged -/
  backlog : List Pkt := []
  expect : Nat := 0
  reorder : List Pkt := []
  deriving DecidableEq, Repr

/-- A request outstanding at a requester, with its response timer (R53). `held` is how often HELD has answered. -/
structure Outst where
  pkt : Pkt
  id : Nat
  since : Nat
  resends : Nat := 0
  held : Bool := false
  /-- its fabric-timeout error has been raised -/
  timedOut : Bool := false
  deriving DecidableEq, Repr

structure Net where
  /-- sent in an ordered class, not arrived -/
  wire : List Pkt := []
  /-- arrived, not served -/
  inbox : List Pkt := []
  flows : List Flow := []
  outst : List Outst := []
  deriving DecidableEq, Repr

/-! ## Translation and leases (R106, R109-R116) -/

/-- A cached translation (R106): leaf entry, page base and size, and the node's translation unit that holds it. -/
structure TlbEnt where
  node : Nat
  unit : Nat := 0
  asid : Nat
  base : Nat
  size : Nat
  pte : DWord
  deriving DecidableEq, Repr

/-- Kinds of leases: READ, WRITE, EXEC (R109). -/
inductive LKind where
  | read | write | exec
  deriving DecidableEq, Repr

/-- Who holds a lease: a task, or a standing entry of a context (R110, R112). -/
inductive LHolder where
  | task (id : Nat)
  | standing (asid k : Nat)
  deriving DecidableEq, Repr

/-- A part of a lease at its holder (R109, R111, R115). Of a striped range it is the granules of `range` that the home-map
entry `ent` homes at the grantor; 0 stands for all bytes. `req` is the request that asked for it, by which the model tells the
leases of a grantor apart (assumption log 82). -/
structure LeasePart where
  range : Range
  ent : BitVec 128 := 0
  req : Nat := 0
  kind : LKind
  grantor : Nat
  num : Nat
  e : Nat
  lost : Bool := false
  /-- not yet answered -/
  pending : Bool := false
  renewing : Bool := false
  deriving DecidableEq, Repr

/-- A grantor's entry or waiting request (R110, R111, R115), with the node that asked. -/
structure Grant where
  node : Nat
  num : Nat
  req : Nat := 0
  src : Nat := 0
  asid : Nat
  range : Range
  ent : BitVec 128 := 0
  kind : LKind
  holder : LHolder
  part : Nat
  e : Nat
  live : Bool
  deriving DecidableEq, Repr

/-- Who issued an atinv: a wave, or hub firmware for a context that has ended (R119, R137). -/
inductive AtinvBy where
  | wave (w : Nat)
  | firmware
  deriving DecidableEq, Repr

/-- An atinv under way (R119). `lost`: its standing leases, and in force mode its task leases, are marked lost; `tag`: of
the drains, once they have been sent. -/
structure Atinv where
  who : AtinvBy
  asid : Nat
  range : Range
  force : Bool
  tag : Option Nat := none
  deriving DecidableEq, Repr

/-- One entry of the address-range ownership table is kept as its 128 bits (R117). -/
abbrev ArotEnt := BitVec 128

end Sys2Proof.Machine
end

