-- ==== Sys2Proof/Machine/TyTask.lean ====
section
/-! DEFINITION. The state of queues, reservations, tasks, continuations, schedule variants, pre-emptions and network
barriers (chapters 6 and 13). -/

namespace Sys2Proof.Machine

/-- State of a ring slot that is not FREE (R159). -/
inductive SlotSt where
  | reserved | published | visible | taken
  deriving DecidableEq, Repr

/-- A ring slot (R159, R163, R464): `void` is the home's own mark, `deps` the count still due (R168). -/
structure Slot where
  st : SlotSt
  sender : Word := 0
  visAt : Nat := 0
  void : Bool := false
  deriving DecidableEq, Repr

/-- A live queue (R152). `slots` and `rels` are keyed by ring position. -/
structure Queue where
  handle : Word
  asid : Nat
  soft : Bool
  log2n : Nat
  base : Nat
  head : Nat := 0
  pub : Nat := 0
  rsv : Nat := 0
  slots : Tab Slot := []
  rels : Tab RelRec := []
  deriving DecidableEq, Repr

/-- Quarantine of an index: nodes whose FLUSH answer is due; whether the home die was lost (R155). -/
structure Quar where
  due : List Nat
  lost : Bool := false
  deriving DecidableEq, Repr

/-- A queue index of a die (R154). -/
structure QIdx where
  gen : Option Nat := none
  q : Option Queue := none
  quar : Option Quar := none
  /-- the context whose queue it held last, for window writes (R131); none once that context has ended -/
  owner : Option Nat := none
  deriving DecidableEq, Repr

/-- A reservation entry of a home (R159, R160): sequence numbers [lo, lo + n). -/
structure Resv where
  handle : Word
  wave : Nat
  lo : Nat
  n : Nat
  deriving DecidableEq, Repr

/-- An entry of a die's pending table (R167). -/
structure PendTask where
  handle : Word
  seq : Nat
  asid : Nat
  rec_ : List Byte
  sender : Word
  count : Nat
  visAt : Nat
  rels : List RelEnt
  /-- the record of a task that waited to start when it was reset (R185) -/
  back : Bool := false
  deriving DecidableEq, Repr

/-- Where a task taken from a queue stands (R171, R173, R183). -/
inductive TaskSt where
  /-- stage 2: leases requested -/
  | leasing
  /-- a lease walk faulted: record SEQ awaiting its answer, SUB, kind and address of the fault (R111) -/
  | faulted (seq : Nat) (sub xkind : Nat) (addr : DWord)
  /-- its gang has launched -/
  | running
  /-- saved by a pre-emption: leases to be requested again -/
  | saved
  deriving DecidableEq, Repr

/-- A task taken and not ended (R169-R173, R180). `cycles` is the watchdog count. -/
structure Task where
  id : Nat
  asid : Nat
  die : Nat
  handle : Word
  seq : Nat
  rec_ : List Byte
  entry : List Byte
  sender : Word
  visAt : Nat
  variant : Nat := 0
  /-- the phase of its pair that it is in, with the model's number of the pair's selection state (R179) -/
  phase : Option (Nat × Nat) := none
  st : TaskSt := .leasing
  parts : List LeasePart := []
  rels : List RelEnt := []
  wg : Option Nat := none
  cycles : Nat := 0
  /-- the next expiry is a second one -/
  expired : Bool := false
  deriving DecidableEq, Repr

/-- A continuation record in its pool (R177, R178). `cmd` is the awaited command: owner wave and number. -/
structure Cont where
  asid : Nat
  slot : Nat
  die : Nat
  cluster : Nat
  tag : Word
  owner : Nat
  agent : Nat
  ready : Option Nat := none
  rels : List RelEnt := []
  deriving DecidableEq, Repr

/-- A phase of a (context, type) pair that is not yet measured (R179). -/
structure Phase where
  j : Nat
  variant : Nat
  start : Nat
  running : Nat := 0
  ended : Nat := 0
  closed : Bool := false
  deriving DecidableEq, Repr

/-- Selection state of a (context, type) pair (R179); the list of pairs is kept most recently used first. `last`:
variant to (number of its last measurement in their order, time). -/
structure VarSel where
  asid : Nat
  ttype : Nat
  /-- the model's own number: a pair that is replaced and comes again has another -/
  gen : Nat := 0
  next : Nat := 0
  open_ : Option Nat := none
  phases : List Phase := []
  last : Tab (Nat × Nat) := []
  deriving DecidableEq, Repr

/-- What a pre-emption removes work from (R182, R274): a die that enters ISOLATE, a context that receives STOP, a
context that the debugger halts. -/
inductive PreTarget where
  | die (d : Nat)
  | ctx (asid : Nat)
  | halt (asid : Nat)
  deriving DecidableEq, Repr

/-- A pre-emption under way: ns counted since the request, and whether its Save stage is done (R182). -/
structure Preempt where
  target : PreTarget
  count : Nat := 0
  saved : Bool := false
  deriving DecidableEq, Repr

/-- An entry of a `gbar` network (R393). `key` names the network: level 1 quad, 2 die, 3 module, 4 pod, with its node
and quad. -/
structure GBar where
  level : Nat
  node : Nat
  quad : Nat
  asid : Nat
  i : Nat
  n : Nat
  /-- participants: module, wave, agent, request -/
  arrived : List (Nat × Nat × Nat × Nat)
  ents : List RelEnt := []
  deriving DecidableEq, Repr

end Sys2Proof.Machine
end

