-- ==== Sys2Proof/Machine/TyPkg.lean ====
section
/-! DEFINITION. The state of dies, hubs, W-dies, contexts, functions, key slots, life cycle, faults and the module
(chapters 1, 2, 4, 5, 9, 14). -/

namespace Sys2Proof.Machine

/-- Service states (R32, R33). -/
inductive Svc where
  | active | drain | rehome | wipe | isolated | load | readmit
  deriving DecidableEq, Repr

/-- A UCIe module as a C-die reports it (R41). -/
structure LinkSt where
  up : Bool := false
  dis : Bool := false
  repl : Nat := 0
  retrain : Nat := 0
  retry : Nat := 0
  deriving DecidableEq, Repr

/-- A Tributary link (R44). -/
structure TribSt where
  up : Bool := false
  dis : Bool := false
  peer : Nat := 0
  peerLink : Nat := 0
  uncor : Nat := 0
  deriving DecidableEq, Repr

/-- Errors that a hub's fault processor logs and for which the spec gives no record (assumption log 83): a message of a reserved
class (R47), a request for a module that cannot be reached (R43), a request that nothing answered for 1 ms (R53). -/
inductive NetErr where
  | badClass (mod node : Nat)
  | unreachable (mod : Nat)
  | timeout (src dst : Nat)
  deriving DecidableEq, Repr

/-- A C-die, W-die or hub (nodes 0-49). -/
structure NodeSt where
  svc : Svc := .active
  /-- failed training or self-test at bring-up (R36) -/
  absent : Bool := false
  -- clock (R21, R22, R31)
  freq : Nat := 0x28
  cur : Nat := 0x28
  next : Nat := 0x28
  busy : Bool := false
  pend : Bool := false
  badf : Bool := false
  /-- package time at which the relock ends, and its target -/
  relockEnd : Nat := 0
  target : Nat := 0x28
  ceilP : Nat := 0x32
  ceilT : Nat := 0x32
  /-- package time of the last step of the thermal ceiling -/
  thermAt : Nat := 0
  -- time (R23-R27)
  ptime : Nat := 0
  slew : Int := 0
  /-- ns since the last correction -/
  slewAt : Nat := 0
  ccyc : Nat := 0
  /-- fortieths of a core cycle -/
  ccycFrac : Nat := 0
  out : Bool := false
  lost : Bool := false
  miss : Nat := 0
  missRun : Nat := 0
  offset : Int := 0
  /-- package time of the last stamp received -/
  stampAt : Nat := 0
  -- errors and debug (R272, R276, R59)
  ue : Nat := 0
  lastu : Nat := 0
  ce : Nat := 0
  halt : Bool := false
  /-- a halt that waits for the end of a relock (R277) -/
  haltPend : Bool := false
  rej : Bool := false
  dbgHold : Bool := false
  -- links
  links : Tab LinkSt := []
  tribs : Tab TribSt := []
  routes : Tab Nat := []
  /-- errors logged, oldest first -/
  netLog : List NetErr := []
  -- hub registers (R255, R278)
  fltBase : DWord := 0
  fltHead : Word := 0
  fltTail : Word := 0
  fltLost : Nat := 0
  trapVec : DWord := 0
  -- die task unit (R169, R170)
  rr : Nat := 0
  steal : Nat := 0
  /-- counts of admissible records that the peers last told, by die -/
  counts : Tab Nat := []
  /-- package time of the last exchange of counts and of the last merge check (R72, R170) -/
  countAt : Nat := 0
  mergeAt : Nat := 0
  /-- the regions of the proxy table, as ASID * 2^38 + granule, most recently used first (R68) -/
  proxyLru : List Nat := []
  deriving DecidableEq, Repr

/-- State of a weight slot (R424). -/
inductive WSlotSt where
  | absent | empty | loading | valid | bad
  deriving DecidableEq, Repr

/-- A weight slot (R424): weights and scales as bytes, in the order that `wld` gave them. -/
structure WSlot where
  st : WSlotSt := .empty
  key : Nat := 0
  keyGen : Nat := 0
  fmt : Nat := 0
  k : Nat := 0
  n : Nat := 0
  weights : Tab Byte := []
  scales : Tab Byte := []
  /-- columns not yet loaded -/
  badRows : List Nat := []
  deriving DecidableEq, Repr

/-- A W-die: slots, and the operations waiting in arrival order, by core and command tag (R424). -/
structure WDie where
  slots : Tab WSlot := []
  ops : List (Nat × Word) := []
  deriving DecidableEq, Repr

/-- CTX_SCHED.STATE (R184). -/
inductive SchedSt where
  | run | stopping | stopped | halted
  deriving DecidableEq, Repr

/-- A standing lease (R112): its register with STAT, and its parts. -/
structure Standing where
  reg : DWord := 0
  parts : List LeasePart := []
  fault : Option Nat := none
  deriving DecidableEq, Repr

/-- A context (R62, R86, R134, R163, R164, R177, R184, R257, R273). -/
structure Ctx where
  live : Bool := false
  func : Nat := 0
  slot : Nat := 0
  awaitsAtinv : Bool := false
  home : Tab (BitVec 128) := []
  ptbase : DWord := 0
  dlq : DWord := 0
  dlqHead : Word := 0
  dlqLost : Nat := 0
  raceBase : DWord := 0
  raceCtl : Word := 0
  raceHead : Word := 0
  ttype : DWord := 0
  cont : DWord := 0
  contUsed : List Nat := []
  sched : SchedSt := .run
  wdx : Bool := false
  prex : Bool := false
  trapPc : DWord := 0
  trapEn : Word := 0
  holdf : Bool := false
  brkd : Bool := false
  dbgSt : Nat := 0
  dbgPool : DWord := 0
  poolUsed : List Nat := []
  tokBusy : Bool := false
  tokErr : Nat := 0
  qHandle : Word := 0
  qErr : Nat := 0
  /-- queue command in progress (R153) -/
  qCmd : Option DWord := none
  leases : Tab Standing := []
  repl : Tab Word := []
  podPeer : Tab DWord := []
  rset : Tab DWord := []
  /-- task-type entries that die task units hold: key die * 4096 + type (R164) -/
  ttCache : Tab (List Byte) := []
  deriving DecidableEq, Repr

/-- A key slot (R138, R140). `destroying`: nodes whose acknowledgement is due. `gen` advances at each allocation. -/
structure KeySlot where
  alloc : Bool := false
  gen : Nat := 0
  destroying : Option (List Nat) := none
  /-- nodes whose memory controllers have cleared the keys -/
  cleared : List Nat := []
  deriving DecidableEq, Repr

/-- The registers of one host function (R127, R134, R153). -/
structure Func where
  ctxDesc : DWord := 0
  ctxJoin : Word := 0
  ctxBusy : Bool := false
  ctxErr : Nat := 0
  ctxSlot : Nat := 0
  /-- context whose DESTROY is in progress -/
  ctxAsid : Nat := 0
  qAsid : Word := 0
  qErr : Option Nat := none
  hctlAsid : Nat := 0
  hctlErr : Bool := false
  hctlNum : Nat := 0
  attNonce : BitVec 512 := 0
  attAddr : DWord := 0
  attErr : Nat := 0
  attLen : Nat := 0
  imgAddr : DWord := 0
  imgLen : Word := 0
  imgErr : Nat := 0
  /-- attestation and image command in progress (R127) -/
  attCmd : Option Nat := none
  imgCmd : Option Nat := none
  deriving DecidableEq, Repr

/-- Life-cycle states, coded 0-4 (R141). -/
inductive LC where
  | manufacture | provisioned | deployed | fieldDebug | retired
  deriving DecidableEq, Repr

/-- A firmware image as the security processor keeps it: SHA-512 of the image, security version, ADVANCE, the package time
since which it runs, and the digest of the key that signed it (R145, R147, R148). -/
structure Img where
  digest : BitVec 512 := 0
  version : Nat := 0
  advance : Bool := false
  startAt : Nat := 0
  signer : Option (BitVec 512) := none
  deriving DecidableEq, Repr

/-- Fuses, images and life cycle (R141-R148). -/
structure Secure where
  /-- stepping and serial number of the part (R129) -/
  stepping : BitVec 8 := Config.stepping
  serial : BitVec 40 := Config.serial
  lc : LC := .deployed
  pendErr : Nat := 0
  owner : BitVec 512 := 0
  /-- firmware roots primary and replacement, manufacturing key, debug key -/
  roots : Tab (BitVec 512) := []
  revoked : List Nat := []
  counter : Nat := 0
  transitions : Nat := 0
  attKey : Bool := true
  /-- running and staged images by type 1-3 -/
  running : Tab Img := []
  staged : Tab Img := []
  /-- why hub 0 found no valid image at reset: the cause of the Recovery capability (R147) -/
  recovery : Option Nat := none
  deriving DecidableEq, Repr

/-- Who waits for an answer through HUB_FLT_ANS (R117). -/
inductive AnsFor where
  | task (id : Nat)
  | standing (asid k : Nat)
  | thread (w : Nat)
  /-- another module, whose number for it is `seq` -/
  | remote (mod seq : Nat)
  deriving DecidableEq, Repr

/-- A fault record (R254): its 256 bytes, its number, whether it must be answered. -/
structure FltRec where
  seq : Nat
  answer : Bool
  bytes : List Byte
  /-- the fault processor it was routed to (R117) -/
  hub : Nat := 48
  deriving DecidableEq, Repr

/-- The fault processors (R254-R256). -/
structure FltSt where
  nextSeq : Nat := 0
  buffer : List FltRec := []
  awaiting : List (Nat × AnsFor) := []
  deriving DecidableEq, Repr

/-- A home-map rewrite under way (R54-R57). Phases 1 MARK, 2 HANDOFF, 3 COMMIT. -/
structure Rehome where
  /-- the model's own number, by which its messages are told from an earlier rewrite's -/
  id : Nat := 0
  asid : Nat
  index : Nat
  old : BitVec 128
  new : BitVec 128
  phase : Nat := 1
  marked : List Nat := []
  acks : List Nat := []
  /-- old homes that stopped homing, and HANDOFF_ENDs still due, as new home and granule -/
  stopped : List Nat := []
  ends : List (Nat × Nat) := []
  committed : List Nat := []
  /-- requests held at their source, and messages redirected to it, in order -/
  held : List Pkt := []
  redirected : List Pkt := []
  /-- flows whose first message for a granule has been answered with REDIRECT (R57) -/
  answered : List ((Nat × Nat × Nat) × Nat) := []
  deriving DecidableEq, Repr

/-- A cluster move under way (R14). -/
structure Move where
  die : Nat
  value : Bool
  deriving DecidableEq, Repr

/-- Steps of bring-up done (R36). -/
inductive Boot where
  | rom | firmware | linksTrained | timeStarted | nearWiped | farWiped | ready
  deriving DecidableEq, Repr

/-- Module-wide registers and controllers. -/
structure ModSt where
  boot : Boot := .rom
  /-- link groups trained so far: 0 hubs, 1 mesh, 2 W-dies, 3 Tributary -/
  trained : List Nat := []
  ready : Bool := false
  werr : Nat := 0
  podId : Nat := 0
  -- supply (R28, R29)
  fault : Bool := false
  low : Bool := false
  high : Bool := false
  limit : Bool := false
  dip : Nat := 0
  volt : Nat := 216
  disconnected : Bool := false
  /-- package time at which V was last seen below 50 V, and at which it was seen above 58 V -/
  goodSince : Nat := 0
  /-- the last time at which V was known to be outside 50 to 58 V -/
  badSince : Nat := 0
  /-- since when V is between 58 and 60 V, as far as the events tell -/
  highSince : Option Nat := none
  -- power (R30, R31)
  avg : Nat := 0
  cap : Nat := 1000
  /-- package time at which the last 1 ms window of the power controller ended -/
  capAt : Nat := 0
  -- clusters (R12-R14)
  tokmov : BitVec 24 := 0
  move : Option Move := none
  moveRej : Bool := false
  moveDie : Nat := 0
  -- service (R32)
  svcReason : Nat := 0
  svcFail : Bool := false
  svcNode : Nat := 0
  /-- node in service, none when no die is out of ACTIVE by a command or a reset -/
  svcOn : Option Nat := none
  -- package-time source (R24, R27)
  source : Nat := 0
  -- rewrite (R54)
  rehomeEnt : BitVec 128 := 0
  rehomeErr : Nat := 0
  -- debug-hold (R59, R60)
  dbgPend : List Nat := []
  dbgFirst : Nat := 0
  -- pre-emption deadlines (R182)
  d2 : Nat := 1000
  d1 : Nat := 100
  -- the model's own: commands stay in progress until their event; the host does not answer (log 66)
  slow : Bool := false
  hostFails : Bool := false
  deriving DecidableEq, Repr

end Sys2Proof.Machine
end

