-- ==== Sys2Proof/Machine/State.lean ====
section
/-! DEFINITION. The whole state of the XE-32 module, as plain data, and the state right after reset. -/

namespace Sys2Proof.Machine

/-- One thing that happens next: the turn of a wave, an event of the table, or one of the moves that the spec leaves
to the caches and to the world outside (R67, R18). -/
inductive Act where
  | wave (w : Nat)
  | event (e : Instr)
  /-- the n-th delivered message is served -/
  | serve (n : Nat)
  /-- a line leaves a core's L1, a quad's L2, a die's LLC (R67, R75), an instruction cache (R205) -/
  | evictL1 (core : Nat) (line : Nat)
  | evictL2 (quad : Nat) (line : Nat)
  | evictLlc (node : Nat) (line : Nat)
  | evictIc (core : Nat) (line : Nat)
  /-- a translation or a permission leaves its buffer (R106, R118) -/
  | evictTlb (n : Nat)
  | evictWalk (n : Nat)
  | evictPerm (n : Nat)
  /-- hub firmware goes on with the contexts and key slots that are ending (R137, R140) -/
  | firmware
  /-- an engine command finishes reading (R219) -/
  | engineRead (core : Nat) (tag : Nat)
  /-- the host, or another module of the pod, writes its own memory -/
  | outsideWrite (addr : Nat) (bytes : List Byte)
  /-- a register, scratchpad or accumulator word is found in parity error (R269) -/
  | parityReg (w : Nat) (r : Nat)
  | parityScr (core : Nat) (addr : Nat)
  | parityAcc (core : Nat) (addr : Nat)
  /-- the oldest queued stores of a wave drain, this many lanes (R203) -/
  | drainStores (w : Nat) (n : Nat)
  /-- a younger load of a wave executes ahead of older entries: its line comes into the L1 (R199) -/
  | loadAhead (w : Nat) (va : DWord)
  /-- from now on commands of units stay in progress until their event, or end in the step that gives them (R127, R153) -/
  | slowUnits (b : Bool)
  /-- from now on the host answers the reads and takes the writes of the module, or fails them (R127, R136) -/
  | hostAnswers (b : Bool)
  deriving DecidableEq, Repr

/-- An entry of the agenda: the ns of package time that pass, and what happens then. -/
structure Turn where
  dt : Nat
  act : Act
  deriving DecidableEq, Repr

/-- The machine. Tables list what differs from the default of their entries. -/
structure State where
  -- the model's own fields
  /-- what happens next, first entry first; the free schedule of all agents -/
  agenda : List Turn := []
  /-- the wave whose turn comes next, or which runs now -/
  cur : Nat := 0
  /-- counter to which the free values are applied -/
  free : Nat := 0
  nextWave : Nat := 128
  nextWg : Nat := 0
  nextTask : Nat := 0
  nextReq : Nat := 1
  -- time and module
  time : Nat := 0
  mods : ModSt := {}
  nodes : Tab NodeSt := []
  wdies : Tab WDie := []
  secure : Secure := {}
  funcs : Tab Func := []
  /-- WERR by function and window (R133) -/
  winErr : Tab Nat := []
  ctxs : Tab Ctx := []
  keys : Tab KeySlot := []
  /-- MSI-X signals raised and not collected: function, vector -/
  msix : List (Nat × Nat) := []
  /-- the model's own: what the last read by a host function returned -/
  hostData : Nat := 0
  /-- configuration requests answered with Retry Status before MOD_READY (R36), by hub -/
  crs : Tab Nat := []
  -- memory: (physical address, byte), strictly rising, no zero byte listed
  mem : List Host.Cell := []
  /-- key slot and generation under which a 128-byte memory line was last written (R139) -/
  memKey : Tab (Nat × Nat) := []
  -- caches, by line key
  /-- word states of homed lines, 2 bits a word (R67) -/
  words : Tab DWord := []
  /-- words that an uncorrectable error set to Z, not yet accessed: SUB by line and word (R268) -/
  eccFound : Tab Nat := []
  llc : Tab Line := []
  l2 : Tab Line := []
  l1 : Tab Line := []
  icache : Tab (BitVec 1024) := []
  -- homes
  regions : List Region := []
  /-- owning core of each foreign word that a die owns (R68) -/
  proxies : Tab Nat := []
  /-- release records by point of record and word (R80) -/
  rels : Tab RelRec := []
  tokens : List Token := []
  watches : List Watch := []
  drains : List DrainSt := []
  -- messages
  net : Net := {}
  rehome : Option Rehome := none
  -- translation and leases
  tlb : List TlbEnt := []
  walks : List TlbEnt := []
  perms : List TlbEnt := []
  grants : List Grant := []
  grantWaits : List Grant := []
  atinvs : List Atinv := []
  arot : Tab ArotEnt := []
  -- waves and cores
  waves : Tab Wave := []
  wgs : Tab Workgroup := []
  cores : Tab Core := []
  -- task units
  queues : Tab QIdx := []
  resvs : List Resv := []
  pending : List PendTask := []
  tasks : Tab Task := []
  conts : List Cont := []
  varsels : List VarSel := []
  preempts : List Preempt := []
  gbars : List GBar := []
  -- faults
  flt : FltSt := {}
  deriving DecidableEq, Repr

/-- Faults of the model. -/
inductive Fault where
  /-- Raised by no step: the spec gives every stop of a wave, a die or the module as a state. SAFE. -/
  | outsideTheSpec
  deriving DecidableEq, Repr

/-- Refusals of the model. -/
inductive Refusal where
  /-- Raised by an arm of `exec` that has no meaning yet. SAFE: nothing runs. -/
  | notModelled (mnemonic : String)
  deriving DecidableEq, Repr

/-- The machine right after a module reset: bring-up has not begun (R36). Every register holds the Reset value of its
table; key slot 0 alone is allocated (R138, R144). Registers without one: assumption log 4, 5, 6, 8 to 11. -/
def State.reset : State := { keys := [(0, { alloc := true })] }

end Sys2Proof.Machine
end

