-- ==== Sys2Proof/Machine/Acc.lean ====
section
/-! DEFINITION. Access to the entries of State: nodes, contexts, waves, cores, agents and line keys (R8, R66, R98). -/

namespace Sys2Proof.Machine

/-- What a meaning answers. -/
abbrev Out := Host.Outcome State Fault Refusal

/-! ## Tables of State -/

def getNode (s : State) (n : Nat) : NodeSt := Tab.get {} s.nodes n
def setNode (s : State) (n : Nat) (x : NodeSt) : State := { s with nodes := Tab.set {} s.nodes n x }
def modNode (s : State) (n : Nat) (f : NodeSt → NodeSt) : State := setNode s n (f (getNode s n))

def getCtx (s : State) (a : Nat) : Ctx := Tab.get {} s.ctxs a
def setCtx (s : State) (a : Nat) (x : Ctx) : State := { s with ctxs := Tab.set {} s.ctxs a x }
def modCtx (s : State) (a : Nat) (f : Ctx → Ctx) : State := setCtx s a (f (getCtx s a))

def getKey (s : State) (k : Nat) : KeySlot := Tab.get {} s.keys k
def modKey (s : State) (k : Nat) (f : KeySlot → KeySlot) : State :=
  { s with keys := Tab.set {} s.keys k (f (getKey s k)) }

def getFunc (s : State) (k : Nat) : Func := Tab.get {} s.funcs k
def modFunc (s : State) (k : Nat) (f : Func → Func) : State :=
  { s with funcs := Tab.set {} s.funcs k (f (getFunc s k)) }

def getWdie (s : State) (k : Nat) : WDie := Tab.get {} s.wdies k
def modWdie (s : State) (k : Nat) (f : WDie → WDie) : State :=
  { s with wdies := Tab.set {} s.wdies k (f (getWdie s k)) }

def getQidx (s : State) (k : Nat) : QIdx := Tab.get {} s.queues k
def modQidx (s : State) (k : Nat) (f : QIdx → QIdx) : State :=
  { s with queues := Tab.set {} s.queues k (f (getQidx s k)) }

def getCore (s : State) (k : Nat) : Core := Tab.get {} s.cores k
def setCore (s : State) (k : Nat) (x : Core) : State := { s with cores := Tab.set {} s.cores k x }
def modCore (s : State) (k : Nat) (f : Core → Core) : State := setCore s k (f (getCore s k))

/-- The wave that an unlisted number stands for: numbers 0 to 127 are the general-core threads (hub * 64 + thread),
in supervisor mode at PC 0 of ASID 0 (assumption log 11); any other is a wave that has ended. -/
def defaultWave (w : Nat) : Wave :=
  if w < 128 then
    { asid := 0, node := 48 + w / 64, unit := w % 64, general := true, sup := true,
      slot0 := some { pc := 0, mask := 1 } }
  else { asid := 0, node := 0, unit := 0 }

def getWave (s : State) (w : Nat) : Wave := (Tab.find s.waves w).getD (defaultWave w)
def setWave (s : State) (w : Nat) (x : Wave) : State := { s with waves := Tab.put s.waves w x }
def modWave (s : State) (w : Nat) (f : Wave → Wave) : State := setWave s w (f (getWave s w))

/-- Every path of a wave changed: both slots and the handler's. -/
def mapPaths (f : Path → Path) (w : Wave) : Wave :=
  { w with slot0 := w.slot0.map f, slot1 := w.slot1.map f,
           handler := w.handler.map (fun h => { h with path := f h.path }) }

def getWg (s : State) (k : Nat) : Option Workgroup := Tab.find s.wgs k
def setWg (s : State) (k : Nat) (x : Workgroup) : State := { s with wgs := Tab.put s.wgs k x }
def modWg (s : State) (k : Nat) (f : Workgroup → Workgroup) : State :=
  match getWg s k with
  | some g => setWg s k (f g)
  | none => s

def getTask (s : State) (k : Nat) : Option Task := Tab.find s.tasks k
def setTask (s : State) (k : Nat) (x : Task) : State := { s with tasks := Tab.put s.tasks k x }
def modTask (s : State) (k : Nat) (f : Task → Task) : State :=
  match getTask s k with
  | some t => setTask s k (f t)
  | none => s

def modMods (s : State) (f : ModSt → ModSt) : State := { s with mods := f s.mods }

/-- A wave number that names a wave or a thread. -/
def waveExists (s : State) (w : Nat) : Bool := decide (w < 128) || (Tab.find s.waves w).isSome

/-- The next fresh request number. -/
def freshReq (s : State) : State × Nat := ({ s with nextReq := s.nextReq + 1 }, s.nextReq)

/-! ## Nodes -/

def isCdie (n : Nat) : Bool := decide (n < 32)
def isWdie (n : Nat) : Bool := decide (32 ≤ n) && decide (n < 48)
def isHub (n : Nat) : Bool := n == 48 || n == 49
def cdies : List Nat := List.range 32
/-- C-dies and hubs: the nodes with an LLC, translation units and a home map. -/
def homeNodes : List Nat := List.range 32 ++ [48, 49]
def allNodes : List Nat := List.range 50

def nodeActive (s : State) (n : Nat) : Bool := (getNode s n).svc == .active && !(getNode s n).absent

/-- A die that is lost: it has reset, or entered WIPE, and is not yet readmitted (R33, R58, R97). -/
def nodeLost (s : State) (n : Nat) : Bool :=
  (getNode s n).absent || (match (getNode s n).svc with
    | .wipe | .isolated | .load => true
    | _ => false)

/-- The number of no die: where a saved workgroup stands. -/
def noDie : Nat := 64

/-- The hub that serves the roles of hub 0 (R35, R117, R123, R149). -/
def roleHub (s : State) : Nat := if nodeActive s 48 then 48 else 49

/-- The cluster of a C-die: true for the token cluster (R12). -/
def inToken (s : State) (d : Nat) : Bool := decide (24 ≤ d) || s.mods.tokmov.getLsbD d

/-- The token die that a W-die serves (R10). -/
def tokenDieOf (w : Nat) : Nat := 24 + w / 2

/-- Column and row of a C-die in the mesh (R9). -/
def dieCol (d : Nat) : Nat := if d < 24 then d % 6 + 1 else if d < 28 then 0 else 7
def dieRow (d : Nat) : Nat := if d < 24 then d / 6 else (d - 24) % 4
/-- The C-die at a row and column (R9). -/
def dieAt (row col : Nat) : Nat :=
  if col = 0 then 24 + row else if col = 7 then 28 + row else 6 * row + (col - 1)

/-! ## Agents (R66) -/

def agentId (s : State) (node unit : Nat) : Nat := s.mods.podId * 8192 + node * 128 + unit
def agentNode (a : Nat) : Nat := a / 128 % 64
def agentUnit (a : Nat) : Nat := a % 128
def agentMod (a : Nat) : Nat := a / 8192
/-- The whole-die agent of the die of an agent. -/
def dieAgent (a : Nat) : Nat := a / 128 * 128 + 127
def isDieAgent (a : Nat) : Bool := a % 128 == 127

/-- An agent id that names an agent (R66). -/
def agentValid (a : Nat) : Bool :=
  let n := agentNode a
  let u := agentUnit a
  decide (a < 2 ^ 19) &&
    ((isCdie n && (decide (u < 48) || u == 127)) || (isHub n && (decide (u < 64) || u == 127)))

def waveAgent (s : State) (w : Wave) : Nat := agentId s w.node w.unit

/-- The key of a core or of a general-core thread in `State.cores`. -/
def coreKey (node unit : Nat) : Nat := node * 128 + unit
def waveCore (w : Wave) : Nat := coreKey w.node w.unit
/-- The key of an L1 and of an L2: a quad has four cores; a general core has two threads (R8, R75). -/
def l1Of (node unit : Nat) : Nat := node * 64 + (if node < 32 then unit else unit / 2)
def l2Of (node unit : Nat) : Nat := node * 64 + (if node < 32 then unit / 4 else unit / 2)
def quadOf (w : Wave) : Nat := if w.node < 32 then w.unit / 4 else 0

/-- Whether an agent lies within a scope of another (R2, R3). `wg` is judged by the callers. -/
def inScope (sc : Scope) (a b : Nat) : Bool :=
  match sc with
  | .wg => a == b
  | .quad => a / 128 == b / 128 &&
      (if isHub (agentNode a) then a == b else l2Of (agentNode a) (agentUnit a) == l2Of (agentNode b) (agentUnit b))
  | .die => a / 128 == b / 128
  | .pkg => agentMod a == agentMod b
  | .sys => true

def scopeRank : Scope → Nat
  | .wg => 0 | .quad => 1 | .die => 2 | .pkg => 3 | .sys => 4

def scopeMax (a b : Scope) : Scope := if scopeRank a < scopeRank b then b else a

/-! ## Addresses (R98) -/

/-- The ASID under which an address is translated and cached. -/
def asidOf (asid : Nat) (va : DWord) : Nat := if va.getLsbD 53 then 0 else asid

/-- The significant 54 bits of an address. -/
def va54 (va : DWord) : Nat := va.toNat % 2 ^ 54

/-- A 54-bit address sign-extended to 64 bits. -/
def vaFull (v : Nat) : DWord := (BitVec.ofNat 54 v).signExtend 64

/-- The key of a 128-byte line of a context: ASID and VA[53:7]. -/
def lineKey (asid line : Nat) : Nat := asid * 2 ^ 47 + line
def lineAsid (k : Nat) : Nat := k / 2 ^ 47
def lineNo (k : Nat) : Nat := k % 2 ^ 47
/-- The key of a line in the cache number `c`. -/
def cacheKey (c k : Nat) : Nat := c * 2 ^ 61 + k
/-- The key of word `w` of a line at node `n`. -/
def wordKey (n k w : Nat) : Nat := (n * 2 ^ 61 + k) * 32 + w

/-! ## Lines -/

def lineByte (l : Line) (i : Nat) : Byte := BitVec.ofNat 8 (l.data.toNat / 2 ^ (8 * i))

def lineHas (l : Line) (i : Nat) : Bool := l.valid.getLsbD i

def putByte (d : BitVec 1024) (i : Nat) (b : Byte) : BitVec 1024 :=
  (d &&& ~~~((255#1024) <<< (8 * i))) ||| ((b.setWidth 1024) <<< (8 * i))

/-- A byte set, valid; `dirty` marks it newer than the home's. -/
def linePut (l : Line) (i : Nat) (b : Byte) (dirty : Bool) : Line :=
  { valid := l.valid ||| ((1#128) <<< i), dirty := if dirty then l.dirty ||| ((1#128) <<< i) else l.dirty,
    data := putByte l.data i b }

/-- The 128-bit byte mask of a word mask. -/
def byteMask (m : Mask) : BitVec 128 :=
  (maskLanes m).foldl (fun a w => a ||| ((15#128) <<< (4 * w))) 0

/-- The word mask of the words that a byte mask touches. -/
def wordMask (m : BitVec 128) : Mask := maskOf (fun w => m.extractLsb' (4 * w) 4 != 0)

/-- The words of aligned groups of `grp` words that a mask meets. -/
def groupSpan (grp : Nat) (m : Mask) : Mask :=
  if grp ≤ 1 then m
  else maskOf (fun i => (List.range grp).any (fun j => m.getLsbD (i / grp * grp + j)))

/-- The region of the proxy table that a line lies in (R68): a granule of its context. -/
def proxyRegion (k : Nat) : Nat := lineAsid k * 2 ^ 38 + lineNo k / 512

/-- The 1024-bit mask of a byte mask. -/
def dataMask (m : BitVec 128) : BitVec 1024 :=
  (List.range 128).foldl (fun a i => if m.getLsbD i then a ||| ((255#1024) <<< (8 * i)) else a) 0

/-- Clears the bytes of a mask from a line. -/
def lineDrop (l : Line) (m : BitVec 128) : Line :=
  { valid := l.valid &&& ~~~m, dirty := l.dirty &&& ~~~m, data := l.data &&& ~~~(dataMask m) }

/-- The bytes of `src` named by a mask laid over `dst`. -/
def lineOver (dst src : Line) (m : BitVec 128) (dirty : Bool) : Line :=
  let k := dataMask m
  { valid := dst.valid ||| m, dirty := if dirty then dst.dirty ||| m else dst.dirty &&& ~~~m,
    data := (dst.data &&& ~~~k) ||| (src.data &&& k) }

/-- Only the bytes of a mask. -/
def lineOnly (l : Line) (m : BitVec 128) : Line :=
  { valid := l.valid &&& m, dirty := l.dirty &&& m, data := l.data &&& dataMask (l.valid &&& m) }

/-- A line from `n` bytes at offset `o`, valid and dirty there. -/
def lineOfBytes (o : Nat) (l : List Byte) : Line :=
  ((List.range l.length).foldl (fun x i => if o + i < 128 then linePut x (o + i) (byteAt l i) true else x) {})

def getLine (t : Tab Line) (c k : Nat) : Line := Tab.get {} t (cacheKey c k)
def setLine (t : Tab Line) (c k : Nat) (l : Line) : Tab Line := Tab.set {} t (cacheKey c k) l

/-! ## Time -/

/-- Package time as a node holds it (R24). -/
def nodeTime (s : State) (n : Nat) : Nat := (getNode s n).ptime

/-- The module number and hub checks of R43: some hub has a link up toward module `m`. -/
def hubReaches (s : State) (hub m : Nat) : Bool :=
  let n := getNode s hub
  (List.range 16).any (fun k =>
    bitOf (Tab.get 0 n.routes m) k && (k / 8 == hub - 48) && (Tab.get {} n.tribs k).up)

def moduleReachable (s : State) (m : Nat) : Bool := hubReaches s 48 m || hubReaches s 49 m

/-! ## Region sets (R84) -/

/-- The byte range of one CTX_RSET entry, in 54-bit addresses. -/
def rsetRange (x : DWord) : Option Range :=
  if x.getLsbD 63 then
    let n := bitsOf x.toNat 56 6
    let base := bitsOf x.toNat 7 47 * 128
    let lo := base / 2 ^ n * 2 ^ n
    some { lo := lo, hi := lo + 2 ^ n }
  else none

/-- The ranges of a region set by a context's registers; none stands for every address (rset0). -/
def rsetOf (t : Tab DWord) (set : Nat) : Option (List Range) :=
  if set = 0 then none
  else some ((List.range 8).filterMap (fun k => rsetRange (Tab.get 0 t (set * 8 + k))))

def rsetRanges (s : State) (asid set : Nat) : Option (List Range) := rsetOf (getCtx s asid).rset set

/-- The ranges of a region set for the instruction of a wave: as they stood when it issued (R84). -/
def waveRanges (s : State) (w : Wave) (set : Nat) : Option (List Range) := rsetOf (w.op.rset.getD (getCtx s w.asid).rset) set

def rangesHit (r : Option (List Range)) (lo hi : Nat) : Bool :=
  match r with
  | none => true
  | some l => l.any (fun x => decide (x.lo < hi) && decide (lo < x.hi))

/-- Whether line `n` lies in the ranges. -/
def rangesLine (r : Option (List Range)) (n : Nat) : Bool := rangesHit r (n * 128) (n * 128 + 128)

/-- Whether word `w` of line `n` lies in the ranges. -/
def rangesWord (r : Option (List Range)) (n w : Nat) : Bool :=
  rangesHit r (n * 128 + 4 * w) (n * 128 + 4 * w + 4)

end Sys2Proof.Machine
end

