-- ==== Sys2Proof/Machine/Float.lean ====
section
/-! DEFINITION. The floating-point formats, exact values and RoundTo (R279-R292). An exact value is a dyadic number
m * 2^e with a sign; a value that is not dyadic is given by a lower bound of many bits and a sticky mark. -/

namespace Sys2Proof.Machine

/-! ## Exceptions (R290) -/

structure Exc where
  iv : Bool := false
  dz : Bool := false
  ov : Bool := false
  uf : Bool := false
  ix : Bool := false
  deriving DecidableEq, Repr

def excOr (a b : Exc) : Exc :=
  { iv := a.iv || b.iv, dz := a.dz || b.dz, ov := a.ov || b.ov, uf := a.uf || b.uf, ix := a.ix || b.ix }

def excNone : Exc := {}
def excIv (b : Bool) : Exc := { iv := b }

/-! ## Formats (R279) -/

inductive Fmt where
  | fp32 | fp16 | bf16 | e4m3 | e5m2 | e2m1
  deriving DecidableEq, Repr

/-- Fraction bits. -/
def fmtFrac : Fmt → Nat
  | .fp32 => 23 | .fp16 => 10 | .bf16 => 7 | .e4m3 => 3 | .e5m2 => 2 | .e2m1 => 1

def fmtExp : Fmt → Nat
  | .fp32 => 8 | .fp16 => 5 | .bf16 => 8 | .e4m3 => 4 | .e5m2 => 5 | .e2m1 => 2

def fmtBias : Fmt → Nat
  | .fp32 => 127 | .fp16 => 15 | .bf16 => 127 | .e4m3 => 7 | .e5m2 => 15 | .e2m1 => 1

def fmtWidth (f : Fmt) : Nat := 1 + fmtExp f + fmtFrac f

/-- The code of the largest finite magnitude. -/
def fmtMax : Fmt → Nat
  | .fp32 => 0x7F7FFFFF | .fp16 => 0x7BFF | .bf16 => 0x7F7F | .e4m3 => 0x7E | .e5m2 => 0x7B | .e2m1 => 0x7

/-- Formats with infinities. -/
def fmtInf : Fmt → Bool
  | .e4m3 | .e2m1 => false
  | _ => true

/-- Formats on which FTZ acts (R287). -/
def fmtFtz : Fmt → Bool
  | .fp32 | .fp16 | .bf16 => true
  | _ => false

/-- The canonical NaN (R280); E2M1 has none and its conversions give +0 (R286). -/
def fmtNan : Fmt → Nat
  | .fp32 => 0x7FC00000 | .fp16 => 0x7E00 | .bf16 => 0x7FC0 | .e4m3 => 0x7F | .e5m2 => 0x7E | .e2m1 => 0

/-- The code of +infinity. -/
def fmtInfCode (f : Fmt) : Nat := (2 ^ fmtExp f - 1) * 2 ^ fmtFrac f

def signCode (f : Fmt) (neg : Bool) : Nat := if neg then 2 ^ (fmtWidth f - 1) else 0

/-- An exact value: NaN (signalling or not), infinity, or (-1)^neg * m * 2^e. Zero keeps its sign. -/
inductive Val where
  | nan (sig : Bool)
  | inf (neg : Bool)
  | num (neg : Bool) (m : Nat) (e : Int)
  deriving DecidableEq, Repr

/-- Exponent of the last place of subnormals. -/
def fmtQmin (f : Fmt) : Int := 1 - (fmtBias f : Int) - (fmtFrac f : Int)

/-- The value of a code (R279, R280). -/
def valOf (f : Fmt) (code : Nat) : Val :=
  let neg := bitOf code (fmtWidth f - 1)
  let ex := bitsOf code (fmtFrac f) (fmtExp f)
  let fr := code % 2 ^ fmtFrac f
  let top := 2 ^ fmtExp f - 1
  let special := match f with
    | .e2m1 => false
    | .e4m3 => ex == top && fr == 7
    | _ => ex == top
  if special then
    match f with
    | .e4m3 => .nan false
    | .e5m2 => if fr = 0 then .inf neg else .nan false
    | _ => if fr = 0 then .inf neg else .nan (!bitOf fr (fmtFrac f - 1))
  else if ex = 0 then .num neg fr (fmtQmin f)
  else .num neg (2 ^ fmtFrac f + fr) (fmtQmin f + (ex : Int) - 1)

def isSubnormal (f : Fmt) (code : Nat) : Bool :=
  bitsOf code (fmtFrac f) (fmtExp f) == 0 && code % 2 ^ fmtFrac f != 0

/-- FTZ on a source: a subnormal reads as zero of its sign (R287). -/
def flushIn (f : Fmt) (ftz : Bool) (code : Nat) : Nat :=
  if ftz && fmtFtz f && isSubnormal f code then signCode f (bitOf code (fmtWidth f - 1)) else code

def valZero (neg : Bool) : Val := .num neg 0 0

def valNeg : Val → Val
  | .nan s => .nan s
  | .inf n => .inf (!n)
  | .num n m e => .num (!n) m e

def valAbs : Val → Val
  | .nan s => .nan s
  | .inf _ => .inf false
  | .num _ m e => .num false m e

def valIsNan : Val → Bool
  | .nan _ => true
  | _ => false

def valSig : Val → Bool
  | .nan s => s
  | _ => false

def valIsZero : Val → Bool
  | .num _ 0 _ => true
  | _ => false

def valSign : Val → Bool
  | .nan _ => false
  | .inf n => n
  | .num n _ _ => n

/-! ## Rounding (R285-R288) -/

/-- Rounding mode, SAT, FTZ, and the 16-bit value that RS adds (R288). -/
structure RMode where
  rnd : Rnd := .rne
  sat : Bool := false
  ftz : Bool := false
  hash : Nat := 0
  deriving DecidableEq, Repr

def rneMode : RMode := {}

/-- SRHash (R288). -/
def srHash (seed : Word) (e : Nat) : Nat :=
  let h := seed ^^^ (BitVec.ofNat 32 e * 0x9E3779B9#32)
  let h := h ^^^ (h >>> 16)
  let h := h * 0x85EBCA6B#32
  let h := h ^^^ (h >>> 13)
  let h := h * 0xC2B2AE35#32
  let h := h ^^^ (h >>> 16)
  h.toNat % 65536

/-- A nonnegative value m * 2^e rounded to a whole number of units 2^q: the count of units, and whether it differs
from the value. `sticky` says that the value lies strictly between m and m + 1 units of 2^e. -/
def roundUnits (mode : RMode) (neg : Bool) (m : Nat) (e : Int) (sticky : Bool) (q : Int) : Nat × Bool :=
  if q ≤ e ∧ !sticky then (m * 2 ^ (e - q).toNat, false)
  else
    -- bits dropped; a longer drop than the length of m gives the same rounding
    let s0 := (q - e).toNat
    let s := min s0 (m.log2 + 40)
    let n := m / 2 ^ s
    let r := m % 2 ^ s
    let inexact := r != 0 || sticky
    let twice := 2 * r
    let unit := 2 ^ s
    let up := match mode.rnd with
      | .rne => decide (unit < twice) || (twice == unit && (sticky || n % 2 == 1))
      | .rna => decide (unit ≤ twice)
      | .rtz => false
      | .rdn => neg && inexact
      | .rup => !neg && inexact
      | .rs => decide (65536 ≤ r * 65536 / unit + mode.hash)
    (if up then n + 1 else n, inexact)

/-- The result at overflow (R286). -/
def overflowCode (f : Fmt) (mode : RMode) (neg : Bool) : Nat :=
  let toMax := !fmtInf f || mode.sat || (match mode.rnd with
    | .rtz => true
    | .rdn => !neg
    | .rup => neg
    | _ => false)
  signCode f neg + (if toMax then fmtMax f else fmtInfCode f)

/-- RoundTo of a nonzero magnitude (R286, R287): its code and exceptions. -/
def roundMag (f : Fmt) (mode : RMode) (neg : Bool) (m : Nat) (e : Int) (sticky : Bool) : Nat × Exc :=
  let top := e + (m.log2 : Int)
  let qn := top - (fmtFrac f : Int)
  let q := max qn (fmtQmin f)
  let r := roundUnits mode neg m e sticky q
  let code := (((r.1 : Int) + (q - fmtQmin f) * (2 ^ fmtFrac f : Nat))).toNat
  -- tininess after rounding with an unbounded exponent
  let t := roundUnits mode neg m e sticky qn
  let tiny := if qn + (fmtFrac f : Int) < 1 - (fmtBias f : Int) then
      !(t.1 == 2 ^ (fmtFrac f + 1) && qn + (fmtFrac f : Int) + 1 == 1 - (fmtBias f : Int))
    else false
  if fmtMax f < code then (overflowCode f mode neg, { ov := fmtInf f, ix := true })
  else if mode.ftz && fmtFtz f && code != 0 && decide (code < 2 ^ fmtFrac f) then
    (signCode f neg, { uf := true, ix := true })
  else (signCode f neg + code, { uf := tiny && r.2, ix := r.2 })

/-- RoundTo of an exact value, with SAT and FTZ (R286). A signalling NaN raises invalid (R280). -/
def roundVal (f : Fmt) (mode : RMode) (v : Val) : Nat × Exc :=
  match v with
  | .nan sig =>
    if f = .e2m1 then (0, excIv true)
    else (if mode.sat then 0 else fmtNan f, excIv sig)
  | .inf neg =>
    match f with
    | .e2m1 => (signCode f neg + fmtMax f, excIv true)
    | .e4m3 => if mode.sat then (signCode f neg + fmtMax f, { ix := true }) else (fmtNan f, excIv true)
    | _ =>
      if mode.sat then (signCode f neg + fmtMax f, { ix := true }) else (signCode f neg + fmtInfCode f, excNone)
  | .num neg m e => if m = 0 then (signCode f neg, excNone) else roundMag f mode neg m e false

/-- RoundInt: the integer and whether it differs from the value (R286). -/
def roundInt (mode : RMode) (neg : Bool) (m : Nat) (e : Int) : Int × Bool :=
  let r := roundUnits mode neg m e false 0
  (if neg then -(r.1 : Int) else (r.1 : Int), r.2)

/-! ## Exact arithmetic (R290, R291, R293) -/

/-- A product, and whether it is an invalid operation. -/
def mulVal (a b : Val) : Val × Bool :=
  match a, b with
  | .nan s, x => (.nan false, s || valSig x)
  | x, .nan s => (.nan false, s || valSig x)
  | .inf n, .inf k => (.inf (n != k), false)
  | .inf n, .num k m _ => if m = 0 then (.nan false, true) else (.inf (n != k), false)
  | .num k m _, .inf n => if m = 0 then (.nan false, true) else (.inf (n != k), false)
  | .num n m e, .num k m' e' => (.num (n != k) (m * m') (e + e'), false)

def intOfSign (neg : Bool) (m : Nat) : Int := if neg then -(m : Int) else (m : Int)

/-- The smallest exponent of the finite terms. -/
def minExp : List Val → Option Int
  | [] => none
  | .num _ m e :: t =>
    if m = 0 then minExp t else match minExp t with
      | none => some e
      | some x => some (min e x)
  | _ :: t => minExp t

def scaledSum (q : Int) : List Val → Int
  | [] => 0
  | .num n m e :: t => intOfSign n (if m = 0 then 0 else m * 2 ^ (e - q).toNat) + scaledSum q t
  | _ :: t => scaledSum q t

/-- The exact sum of terms and whether it is an invalid operation (R291). -/
def sumVal (rnd : Rnd) (ts : List Val) : Val × Bool :=
  let nan := ts.any valIsNan
  let sig := ts.any valSig
  let pinf := ts.any (fun v => v == .inf false)
  let ninf := ts.any (fun v => v == .inf true)
  let invalid := sig || (pinf && ninf)
  if nan || (pinf && ninf) then (.nan false, invalid)
  else if pinf then (.inf false, false)
  else if ninf then (.inf true, false)
  else
    let q := (minExp ts).getD 0
    let x := scaledSum q ts
    if x = 0 then
      let neg := if ts.all (fun v => valIsZero v && !valSign v) then false
        else if ts.all (fun v => valIsZero v && valSign v) then true
        else rnd == .rdn
      (valZero neg, false)
    else (.num (decide (x < 0)) x.natAbs q, false)

/-- Round of an exact value that an operation formed, with the invalid mark of the operation. -/
def roundOp (f : Fmt) (mode : RMode) (p : Val × Bool) : Nat × Exc :=
  let r := roundVal f mode p.1
  (r.1, excOr r.2 (excIv p.2))

/-- a * b + c with no rounding of the product (R339). -/
def fmaVal (rnd : Rnd) (a b c : Val) : Val × Bool :=
  let p := mulVal a b
  let s := sumVal rnd [p.1, c]
  (s.1, s.2 || p.2)

/-- The exact sum of products and further terms (R293). -/
def dotVal (rnd : Rnd) (ps : List (Val × Val)) (ts : List Val) : Val × Bool :=
  let prods := ps.map (fun p => mulVal p.1 p.2)
  let s := sumVal rnd (prods.map Prod.fst ++ ts)
  (s.1, s.2 || prods.any Prod.snd)

/-- Scaling by a power of two. -/
def scaleVal (v : Val) (n : Int) : Val :=
  match v with
  | .num s m e => .num s m (e + n)
  | x => x

/-- a / b: code and exceptions (R290, R339). -/
def divRound (f : Fmt) (mode : RMode) (a b : Val) : Nat × Exc :=
  let neg := valSign a != valSign b
  match a, b with
  | .nan s, x => roundOp f mode (.nan false, s || valSig x)
  | x, .nan s => roundOp f mode (.nan false, s || valSig x)
  | .inf _, .inf _ => roundOp f mode (.nan false, true)
  | .inf _, .num .. => roundOp f mode (.inf neg, false)
  | .num .., .inf _ => roundOp f mode (valZero neg, false)
  | .num _ m e, .num _ m' e' =>
    if m' = 0 then
      if m = 0 then roundOp f mode (.nan false, true)
      else
        let r := roundVal f mode (.inf neg)
        (r.1, excOr r.2 { dz := true })
    else if m = 0 then roundOp f mode (valZero neg, false)
    else
      let k := 80 + m'.log2
      let x := m * 2 ^ k
      roundMag f mode neg (x / m') (e - e' - (k : Int)) (x % m' != 0)

/-- Bits of the integer square root, highest first: `r` is the root so far. -/
def isqrtStep : Nat → Nat → Nat → Nat
  | 0, _, r => r
  | k + 1, x, r =>
    let c := r + 2 ^ k
    isqrtStep k x (if c * c ≤ x then c else r)

/-- The integer square root. -/
def isqrt (x : Nat) : Nat := isqrtStep (x.log2 / 2 + 1) x 0

/-- Square root (R340). -/
def sqrtRound (f : Fmt) (mode : RMode) (a : Val) : Nat × Exc :=
  match a with
  | .nan s => roundOp f mode (.nan false, s)
  | .inf neg => if neg then roundOp f mode (.nan false, true) else roundOp f mode (.inf false, false)
  | .num neg m e =>
    if m = 0 then roundOp f mode (valZero neg, false)
    else if neg then roundOp f mode (.nan false, true)
    else
      -- an even exponent, and 200 extra bits
      let odd := e % 2 == 1
      let x := (if odd then 2 * m else m) * 2 ^ 200
      let e' := ((if odd then e - 1 else e) - 200) / 2
      let r := isqrt x
      roundMag f mode false r e' (r * r != x)

/-- Reciprocal square root (R340). -/
def rsqrtRound (f : Fmt) (mode : RMode) (a : Val) : Nat × Exc :=
  match a with
  | .nan s => roundOp f mode (.nan false, s)
  | .inf neg => if neg then roundOp f mode (.nan false, true) else roundOp f mode (valZero false, false)
  | .num neg m e =>
    if m = 0 then
      let r := roundVal f mode (.inf neg)
      (r.1, excOr r.2 { dz := true })
    else if neg then roundOp f mode (.nan false, true)
    else
      let odd := e % 2 == 1
      let m' := if odd then 2 * m else m
      let e' := if odd then e - 1 else e
      let r := isqrt (2 ^ 240 / m')
      roundMag f mode false r (-120 - e' / 2) (r * r * m' != 2 ^ 240)

/-! ## Order (R341, R342) -/

/-- A key that orders the codes of one format; -0 lies just below +0. -/
def orderKey (f : Fmt) (code : Nat) : Int :=
  let mag := code % 2 ^ (fmtWidth f - 1)
  if bitOf code (fmtWidth f - 1) then -(mag : Int) - 1 else (mag : Int)

/-- The same with -0 equal to +0. -/
def compareKey (f : Fmt) (code : Nat) : Int :=
  let mag := code % 2 ^ (fmtWidth f - 1)
  if bitOf code (fmtWidth f - 1) then -(mag : Int) else (mag : Int)

/-- fmin and fmax on codes (R341). -/
def minMaxCode (f : Fmt) (max nan : Bool) (a b : Nat) : Nat × Exc :=
  let va := valOf f a
  let vb := valOf f b
  let exc := excIv (valSig va || valSig vb)
  let na := valIsNan va
  let nb := valIsNan vb
  if na && nb then (fmtNan f, exc)
  else if na || nb then (if nan then fmtNan f else if na then b else a, exc)
  else
    let lt := decide (orderKey f b < orderKey f a)
    (if lt != max then b else a, exc)

/-! ## Types -/

/-- The element format of a floating-point type (R281, R310). -/
def tyFmt : Ty → Fmt
  | .f16 | .f16x2 => .fp16
  | .bf16 | .bf16x2 => .bf16
  | .e4m3 => .e4m3
  | .e5m2 => .e5m2
  | .e2m1 => .e2m1
  | _ => .fp32

/-- Bits of one element. -/
def tyElemBits : Ty → Nat
  | .b64 | .s64 | .n64 => 64
  | .f16 | .bf16 | .f16x2 | .bf16x2 => 16
  | .e4m3 | .e5m2 | .mxi8 => 8
  | .e2m1 => 4
  | _ => 32

/-- Elements in a 32-bit word (R281). -/
def tyCount : Ty → Nat
  | .f16x2 | .bf16x2 => 2
  | .e4m3 | .e5m2 | .mxi8 => 4
  | .e2m1 => 8
  | _ => 1

/-- Width of an integer type. -/
def tyWidth : Ty → Nat
  | .b64 | .s64 | .n64 => 64
  | _ => 32

def tyWide (t : Ty) : Bool := tyWidth t == 64

def tySigned : Ty → Bool
  | .s32 | .s64 => true
  | _ => false

def tyIsInt : Ty → Bool
  | .b32 | .b64 | .s32 | .s64 | .n32 | .n64 => true
  | _ => false

/-- The value of an element; `.mxi8` is code / 64 (R282, R347). -/
def elemVal (t : Ty) (code : Nat) : Val :=
  match t with
  | .mxi8 =>
    let x := signedOf code 8
    .num (decide (x < 0)) x.natAbs (-6)
  | _ => valOf (tyFmt t) code

def elemOf (t : Ty) (w j : Nat) : Nat := bitsOf w (tyElemBits t * j) (tyElemBits t)

end Sys2Proof.Machine
end

