-- ==== Sys2Proof/Machine/Operands.lean ====
section
/-! DEFINITION. Registers with their shapes, special registers, constants, immediates, and the reading and writing of
every operand form (R191-R197, R258-R260, R301-R308). -/

namespace Sys2Proof.Machine

/-! ## The path that executes -/

/-- The handler path in handler mode (R258), else the path of the slot whose turn it is (R206). -/
def curPath (w : Wave) : Option Path :=
  match w.handler with
  | some h => some h.path
  | none => if w.cur = 0 then w.slot0 else w.slot1

def setSlot (w : Wave) (i : Nat) (p : Option Path) : Wave := if i = 0 then { w with slot0 := p } else { w with slot1 := p }
def getSlot (w : Wave) (i : Nat) : Option Path := if i = 0 then w.slot0 else w.slot1

def setCurPath (w : Wave) (p : Option Path) : Wave :=
  match w.handler with
  | some h => match p with
    | some q => { w with handler := some { h with path := q } }
    | none => w
  | none => setSlot w w.cur p

/-- The single lane of handler mode and of a general core (R223, R258). -/
def oneLane (w : Wave) : Bool := w.general || w.handler.isSome

def optMask (p : Option Path) : Mask := match p with
  | some q => q.mask
  | none => 0

/-- `mask.act`: the threads that have not ended (R195, R206). -/
def maskAct (w : Wave) : Mask :=
  w.queue.foldl (fun m q => m ||| q.mask) (optMask w.slot0 ||| optMask w.slot1)

/-! ## Registers -/

def regLane : Reg → Nat → Word
  | .u w, _ => w
  | .a b s, l => b + s * BitVec.ofNat 32 l
  | .g l, i => l.getD i 0

def regUniform : Reg → Bool
  | .u _ => true
  | _ => false

def regAffine : Reg → Bool
  | .a _ _ => true
  | _ => false

/-- A register as the executing path sees it: the bank in handler mode (R258). -/
def readReg (w : Wave) (n : Nat) : Reg :=
  match w.handler with
  | some h => if 248 ≤ n then .u (Tab.get 0 h.regs n) else Tab.get (.u 0) w.regs n
  | none => Tab.get (.u 0) w.regs n

def writeReg (w : Wave) (n : Nat) (r : Reg) : Wave :=
  match w.handler with
  | some h =>
    if 248 ≤ n then { w with handler := some { h with regs := Tab.set 0 h.regs n (regLane r 0) } }
    else { w with regs := Tab.set (.u 0) w.regs n r }
  | none => { w with regs := Tab.set (.u 0) w.regs n r }

/-- A predicate as a lane mask; p31 reads all ones (R301). -/
def readPred (w : Wave) (n : Nat) : Mask :=
  if n = 31 then BitVec.allOnes 32
  else match w.handler with
    | some h => if 28 ≤ n then Tab.get 0 h.preds n else Tab.get 0 w.preds n
    | none => Tab.get 0 w.preds n

def writePred (w : Wave) (n : Nat) (m : Mask) : Wave :=
  match w.handler with
  | some h =>
    if 28 ≤ n then { w with handler := some { h with preds := Tab.set 0 h.preds n m } }
    else { w with preds := Tab.set 0 w.preds n m }
  | none => { w with preds := Tab.set 0 w.preds n m }

/-- fpctl as the executing path reads it (R197, R258). -/
def readFpctl (w : Wave) : Word := match w.handler with
  | some h => h.fpctl
  | none => w.fpctl

/-- The writable bits of fpctl (R197). -/
def fpctlMask : Word := 0x001F1F00

def writeFpctl (w : Wave) (x : Word) : Wave :=
  match w.handler with
  | some h => { w with handler := some { h with fpctl := x &&& fpctlMask } }
  | none => { w with fpctl := x &&& fpctlMask }

/-! ## Entry masks (R188, R192, R299) -/

/-- Lanes whose guard is true. -/
def guardMask (w : Wave) (g : Guard) : Mask :=
  let m := readPred w g.pred.toNat
  if g.neg then ~~~m else m

/-- The unguarded form. -/
def unguarded (g : Guard) : Bool := !g.neg && g.pred == 31

/-- The guard ?!p31, which writes nothing (R192). -/
def guardNever (g : Guard) : Bool := g.neg && g.pred == 31

/-- The entry mask: the path mask ANDed with the guard (R188), or the mask that a return from a trap named (R261). -/
def entryMask (w : Wave) (p : Path) (g : Guard) : Mask :=
  match p.cut with
  | some m => m
  | none => p.mask &&& guardMask w g

/-- Whether a return from a trap excludes lanes that would enter (R261). -/
def overCuts (w : Wave) (p : Path) (g : Guard) : Bool :=
  match p.cut with
  | some m => m != (p.mask &&& guardMask w g)
  | none => false

/-! ## Special registers (R195, R223) -/

def sregVal (s : State) (w : Wave) (p : Path) (l : Nat) (r : SReg) : Nat :=
  match r with
  | .tid => if w.general then 0 else (w.num * 32 + l) % 2 ^ 32
  | .lane => if w.general then 0 else l
  | .wave => if w.general then 0 else w.num
  | .wgidX => w.wgid.1.toNat | .wgidY => w.wgid.2.1.toNat | .wgidZ => w.wgid.2.2.toNat
  | .tileX => w.tile.1.toNat | .tileY => w.tile.2.1.toNat | .tileZ => w.tile.2.2.toNat
  | .task => w.task.toNat
  | .ptime => nodeTime s w.node % 2 ^ 64
  | .ccyc => (getNode s w.node).ccyc % 2 ^ 64
  | .die => w.node
  | .quad => quadOf w
  | .core => if w.node < 32 then w.unit else w.unit / 2
  | .cluster => if w.node < 32 then b2n (inToken s w.node) else 2
  | .maskAct => (maskAct w).toNat
  | .maskPath => p.mask.toNat
  | .rseed => w.rseed.toNat
  | .fpctl => (readFpctl w).toNat

def sregAffine (w : Wave) (r : SReg) : Bool :=
  !oneLane w && (r == .tid || r == .lane)

/-! ## Inline constants (R304, R305) -/

/-- FP32 patterns of entries 24-63. -/
def constFp32 : List Nat := [
  0x3B800000, 0x3C000000, 0x3C800000, 0x3D000000, 0x3D800000, 0x3E000000, 0x3E800000, 0x3F000000,
  0x3F800000, 0x40000000, 0x40800000, 0x41000000, 0x41800000, 0x42000000, 0x42800000, 0x43000000,
  0xBF800000, 0xC0000000, 0xBF000000, 0xC0800000, 0x3E800000, 0xBE800000, 0x40400000, 0xC0400000,
  0x3EAAAAAB, 0x3E4CCCCD, 0x3E2AAAAB, 0x3E124925, 0x3DE38E39, 0x3DCCCCCD, 0x3F317218, 0x3FB8AA3B,
  0x40490FDB, 0x3FC90FDB, 0x3F490FDB, 0x3EA2F983, 0x3F22F983, 0x3FB504F3, 0x3F3504F3, 0x402DF854]

/-- The integer of entries 0-23. -/
def constInt (k : Nat) : Int := if k < 16 then (k : Int) else 15 - (k : Int)

/-- The exact value of an entry as a floating-point constant. -/
def constVal (k : Nat) : Val :=
  if k < 24 then .num (decide (constInt k < 0)) (constInt k).natAbs 0
  else valOf .fp32 (constFp32.getD (k - 24) 0)

/-- An element code repeated over a 32-bit word. -/
def splat (t : Ty) (c : Nat) : Nat :=
  (List.range (tyCount t)).foldl (fun a j => a + c * 2 ^ (tyElemBits t * j)) 0

/-- The element code of a constant in a type that is not an integer type. -/
def constElem (t : Ty) (k : Nat) : Nat :=
  match t with
  | .mxi8 => match constVal k with
    | .num n m e =>
      let x := roundInt rneMode n m (e + 6)
      natOfInt (satInt x.1 (-127) 127) 8
    | _ => 0
  | _ =>
    let f := tyFmt t
    let sat := !fmtFtz f
    (roundVal f { sat := sat } (constVal k)).1

/-- The value of constant `k` in an operation type. -/
def constOf (t : Ty) (k : Nat) : Nat :=
  if tyIsInt t then natOfInt (constInt k) (tyWidth t) else splat t (constElem t k)

/-! ## Immediates (R306, R307) -/

def immOf (t : Ty) (hi : BitVec 16) : Nat :=
  match t with
  | .s32 => natOfInt (signedOf hi.toNat 16) 32
  | .s64 => natOfInt (signedOf hi.toNat 16) 64
  | .f32 => hi.toNat * 65536
  | .f16x2 | .bf16x2 => splat t hi.toNat
  | .e4m3 | .e5m2 | .mxi8 => splat t (hi.toNat % 256)
  | .e2m1 => splat t (hi.toNat % 16)
  | _ => hi.toNat

/-- Bits that an operand of a type reads (R281, R307). -/
def tyBits : Ty → Nat
  | .b64 | .s64 | .n64 => 64
  | .f16 | .bf16 => 16
  | _ => 32

/-! ## Reading -/

/-- What an instruction reads its operands from: the machine, its wave and its path. -/
structure Rd where
  s : State
  w : Wave
  p : Path

/-- Word `i` of a register operand for a lane. -/
def regWord (x : Rd) (n i l : Nat) : Nat := (regLane (readReg x.w (n + i)) (if oneLane x.w then 0 else l)).toNat

/-- A source operand in an operation type for a lane (R301-R307). -/
def opnd (x : Rd) (t : Ty) (hi : BitVec 16) (o : Opnd) (l : Nat) : Nat :=
  match o with
  | .v n =>
    if tyBits t = 64 then regWord x n.toNat 0 l + regWord x n.toNat 1 l * 2 ^ 32
    else regWord x n.toNat 0 l % 2 ^ tyBits t
  | .p n => b2n ((readPred x.w n.toNat).getLsbD l)
  | .sreg r => sregVal x.s x.w x.p l r % 2 ^ tyBits t
  | .konst k => constOf t k.toNat
  | .imm => immOf t hi
  | .null => 0
  | .fed => (x.p.fed.getD 0).toNat % 2 ^ tyBits t

/-- A 32-bit integer source. -/
def opnd32 (x : Rd) (o : Opnd) (l : Nat) : Nat := opnd x .b32 0 o l
/-- A 64-bit integer source. -/
def opnd64 (x : Rd) (o : Opnd) (l : Nat) : Nat := opnd x .b64 0 o l

/-- `n` words of a register operand, least significant first, as one number; null and others read by width. -/
def opndWide (x : Rd) (n : Nat) (o : Opnd) (l : Nat) : Nat :=
  match o with
  | .v r => (List.range n).foldl (fun a i => a + regWord x r.toNat i l * 2 ^ (32 * i)) 0
  | .fed => (x.p.fed.getD 0).toNat % 2 ^ (32 * n)
  | .konst k => natOfInt (constInt k.toNat) (32 * n)
  | o => opnd32 x o l

/-- The mask of a predicate source: null reads all zero (R302). -/
def predMask (x : Rd) (o : Opnd) : Mask :=
  match o with
  | .p n => readPred x.w n.toNat
  | _ => 0

def predBit (x : Rd) (o : Opnd) (l : Nat) : Bool := (predMask x o).getLsbD l

/-! ## Shapes of sources (R192, R193) -/

/-- Whether every one of the `n` registers of a source is U. Constants, immediates and null are U. -/
def opndUniform (x : Rd) (n : Nat) (o : Opnd) : Bool :=
  match o with
  | .v r => oneLane x.w && x.w.general || (List.range n).all (fun i => regUniform (readReg x.w (r.toNat + i)))
  | .sreg r => !sregAffine x.w r
  | .p n => n == 31
  | _ => true

/-- U or A. -/
def opndAffine (x : Rd) (n : Nat) (o : Opnd) : Bool :=
  match o with
  | .v r => (List.range n).all (fun i =>
      regUniform (readReg x.w (r.toNat + i)) || regAffine (readReg x.w (r.toNat + i)))
  | .p n => n == 31
  | _ => true

/-- A predicate source that makes the result G (R192). -/
def predGeneral (o : Opnd) : Bool :=
  match o with
  | .p n => n != 31
  | _ => false

/-- Registers of a source in a type. -/
def tyWords (t : Ty) : Nat := if tyBits t = 64 then 2 else 1

/-- Shape classes of R192: whether the operation is affine-rule, always G, or a load that may be one access. -/
inductive ShapeRule where
  | plain
  /-- iadd, isub, lea of a 32-bit type -/
  | affAdd
  /-- imul of a 32-bit type -/
  | affMul
  /-- shl -/
  | affShl
  /-- mov -/
  | affMov
  /-- rows that always give G -/
  | general
  deriving DecidableEq, Repr

inductive Shape where
  | u | a | g
  deriving DecidableEq, Repr

/-- A source as the shape rules see it: its operand and its registers. -/
structure Src where
  o : Opnd
  n : Nat
  deriving DecidableEq, Repr

/-- The shape of a result (R192), rows in order. In handler mode and on general cores every result is U (R223,
R258). Under the guard ?!p31, whose entry mask is empty, nothing is written. -/
def resultShape (x : Rd) (g : Guard) (rule : ShapeRule) (preds : List Opnd) (srcs : List Src) : Shape :=
  if oneLane x.w then .u
  else if guardNever g && entryMask x.w x.p g == 0 then .u
  else if x.p.mask ≠ BitVec.allOnes 32 ∨ !unguarded g ∨ overCuts x.w x.p g then .g
  else if preds.any predGeneral then .g
  else if rule = .general then .g
  else if srcs.all (fun a => opndUniform x a.n a.o) then .u
  else
    let aff := srcs.all (fun a => opndAffine x a.n a.o)
    match rule with
    | .affAdd => if aff then .a else .g
    | .affMul => match srcs with
      | [a, b] => if aff && (opndUniform x 1 a.o || opndUniform x 1 b.o) then .a else .g
      | _ => .g
    | .affShl => match srcs with
      | [a, b] => if opndAffine x 1 a.o && opndUniform x 1 b.o then .a else .g
      | _ => .g
    | .affMov => if aff then .a else .g
    | _ => .g

/-! ## Writing -/

/-- A register from lane values (R191, R192): G keeps the lanes outside the entry mask. -/
def shapedReg (sh : Shape) (old : Reg) (e : Mask) (f : Nat → Nat) : Reg :=
  match sh with
  | .u => .u (BitVec.ofNat 32 (f 0))
  | .a =>
    let b := BitVec.ofNat 32 (f 0)
    let st := BitVec.ofNat 32 (f 1) - b
    if st = 0 then .u b else .a b st
  | .g => .g (lanes32.map (fun l => if e.getLsbD l then BitVec.ofNat 32 (f l) else regLane old l))

/-- `n` consecutive registers written from lane values of 32 * n bits. A register whose every word is written has no
parity error any more (R269); the handler bank is not the interrupted bank. -/
def writeRegs (w : Wave) (r n : Nat) (sh : Shape) (e : Mask) (f : Nat → Nat) : Wave :=
  let t := (List.range n).foldl (fun (t : Wave) i =>
    writeReg t (r + i) (shapedReg sh (readReg t (r + i)) e (fun l => f l / 2 ^ (32 * i)))) w
  if (sh ≠ .g ∨ e = BitVec.allOnes 32) ∧ t.badRegs ≠ [] then
    { t with badRegs := t.badRegs.filter (fun k =>
        !(decide (r ≤ k) && decide (k < r + n)) || (w.handler.isSome && decide (248 ≤ k))) }
  else t

/-- A destination register of `n` words; null discards (R302). With an empty entry mask no value is written (R325); the
destination of a general result takes shape G all the same, since the shape never depends on values (R192). -/
def writeDst (w : Wave) (d : Opnd) (n : Nat) (sh : Shape) (e : Mask) (f : Nat → Nat) : Wave :=
  if e = 0 ∧ sh ≠ .g then w
  else match d with
    | .v r => writeRegs w r.toNat n sh e f
    | _ => w

/-- A destination predicate: lanes outside the entry mask keep their bits. -/
def writePredDst (w : Wave) (d : Opnd) (e m : Mask) : Wave :=
  match d with
  | .p n => writePred w n.toNat ((readPred w n.toNat &&& ~~~e) ||| (m &&& e))
  | _ => w

/-- The lanes at which an instruction computes: the entry mask, or lane 0 for a uniform instruction. -/
def workMask (x : Rd) (g : Guard) : Mask :=
  let e := entryMask x.w x.p g
  if oneLane x.w then e &&& 1 else e

/-! ## Handler-mode checks (R258) -/

/-- A register source of shape A or G. -/
def opndHandlerBad (w : Wave) (n : Nat) (o : Opnd) : Bool :=
  match o with
  | .v r => (List.range n).any (fun i => !regUniform (readReg w (r.toNat + i)))
  | .p q => decide (q.toNat < 28)
  | _ => false

/-- The guard uses p0-p27. -/
def guardHandlerBad (g : Guard) : Bool := decide (g.pred.toNat < 28)

end Sys2Proof.Machine
end

