-- ==== Sys2Proof/Machine/Flags.lean ====
section
/-! DEFINITION. The flags and trap enables of fpctl (R197, R252). -/

namespace Sys2Proof.Machine

/-- The five exceptions in the order in which a trap reports them (R197). -/
inductive ExcK where
  | iv | dz | ov | uf | ix
  deriving DecidableEq, Repr

def excKinds : List ExcK := [.iv, .dz, .ov, .uf, .ix]

def excGet (e : Exc) : ExcK → Bool
  | .iv => e.iv | .dz => e.dz | .ov => e.ov | .uf => e.uf | .ix => e.ix

/-- Position among the flags and enables: invalid is bit 4 of each (R197). -/
def excBit : ExcK → Nat
  | .iv => 4 | .dz => 3 | .ov => 2 | .uf => 1 | .ix => 0

/-- Trap cause of an exception (R251). -/
def excCause : ExcK → Nat
  | .iv => 0x10 | .dz => 0x11 | .ov => 0x12 | .uf => 0x13 | .ix => 0x14

def flagPos (k : ExcK) : Nat := 16 + excBit k
def enablePos (k : ExcK) : Nat := 8 + excBit k

/-- Lanes that raised an exception. -/
def excLanes (f : Nat → Exc) (e : Mask) (k : ExcK) : Mask := maskOf (fun l => e.getLsbD l && excGet (f l) k)

/-- The first enabled exception that a lane raised, with its lanes (R197, R252). -/
def excTrap (fp : Word) (f : Nat → Exc) (e : Mask) : Option (Nat × Mask) :=
  firstSome (fun k =>
    let m := excLanes f e k
    if m ≠ 0 ∧ fp.getLsbD (enablePos k) then some (excCause k, m) else none) excKinds

/-- fpctl with the flag of each raised exception whose enable is 0 set (R197). -/
def excFlags (fp : Word) (f : Nat → Exc) (e : Mask) : Word :=
  excKinds.foldl (fun a k =>
    if excLanes f e k ≠ 0 ∧ !fp.getLsbD (enablePos k) then a ||| ((1#32) <<< flagPos k) else a) fp

end Sys2Proof.Machine
end

