-- ==== Sys2Proof/Machine/Paths.lean ====
section
/-! DEFINITION. Paths and reconvergence (R206-R213). -/

namespace Sys2Proof.Machine

/-- A path that a `pfx` feeds, that a return from a trap restricts, or that is blocked takes no part in a merge
(R208, R308). -/
def pathBlocked (p : Path) : Bool := match p.st with
  | .blocked _ => true
  | _ => false

def pathFree (p : Path) : Bool := p.fed.isNone && p.cut.isNone && !pathBlocked p

def toQueue (p : Path) : QPath :=
  { pc := p.pc, mask := p.mask, wait := 0, fed := p.fed, sync := match p.st with
      | .wsync m => some m
      | _ => none
    join := match p.st with
      | .join n => some n
      | _ => none }

def ofQueue (w : Wave) (q : QPath) : Path :=
  { pc := q.pc, mask := q.mask, fed := q.fed, held := w.turns, st := match q.sync with
      | some m => .wsync m
      | none => (match q.join with
        | some n => .join n
        | none => .live) }

/-- A queued path is eligible unless it waits at wsync (R209). -/
def eligible (q : QPath) : Bool := q.sync.isNone

/-- A queued path is due for promotion (R209). -/
def promotable (q : QPath) : Bool := eligible q && decide (256 ≤ q.wait)

/-- Position of the path that fills a slot: the first that is due for promotion, else the eligible one of lowest PC, the
earliest of equals (R209). -/
def bestQueued (l : List QPath) : Option Nat :=
  match indexWhere promotable l with
  | some k => some k
  | none => match minBy (fun x => x.2.pc.toNat) ((List.range l.length).zip l |>.filter (fun x => eligible x.2)) with
  | some x => some x.1
  | none => none

/-- An empty slot, or one held by a path that waits at wsync, takes a queued path (R209, R211). -/
def fillSlot (w : Wave) (i : Nat) : Wave :=
  let out : Option (List QPath) := match getSlot w i with
    | none => some []
    | some p => match p.st with
      | .wsync _ => some [toQueue p]
      | _ => none
  match out with
  | none => w
  | some l =>
    if w.general then w
    else match bestQueued w.queue with
      | none => w
      | some k => match w.queue[k]? with
        | none => w
        | some q => { setSlot w i (some (ofQueue w q)) with queue := listErase w.queue k ++ l }

def fillSlots (w : Wave) : Wave := fillSlot (fillSlot w 0) 1

/-- Two paths joined: the first keeps its place; a join wait goes on (R208, R210). -/
def joinPaths (a b : Path) : Path :=
  { a with mask := a.mask ||| b.mask, st := match a.st, b.st with
      | .join n, _ => .join n
      | _, .join n => .join n
      | _, _ => .live }

/-- The path in slot `i` has taken a new PC: it merges with the other slot and with queued paths at that PC (R208).
Two slots merge into slot 0. -/
def mergeAt (w : Wave) (i : Nat) : Wave :=
  match getSlot w i with
  | none => w
  | some p =>
    if !pathFree p then w
    else
      let w1 := match getSlot w (1 - i) with
        | some o =>
          if o.pc = p.pc ∧ pathFree o then
            { w with slot0 := some { joinPaths p o with held := if i = 0 then p.held else o.held }, slot1 := none }
          else w
        | none => w
      let j := if w1.slot1.isNone ∧ i = 1 then 0 else i
      match getSlot w1 j with
      | none => w1
      | some q =>
        let same := w1.queue.filter (fun x => x.pc == q.pc && x.fed.isNone)
        if same.isEmpty then w1
        else
          let r := same.foldl (fun a x => joinPaths a (ofQueue w1 x)) q
          { setSlot w1 j (some r) with queue := w1.queue.filter (fun x => !(x.pc == q.pc && x.fed.isNone)) }

/-- A queued path joined by another at its PC: the entry keeps its place, and a join wait goes on. -/
def joinQueued (q x : QPath) : QPath :=
  { x with mask := x.mask ||| q.mask, sync := none, join := x.join.orElse (fun _ => q.join) }

/-- A path enters the queue, merging with a slot or an earlier entry at its PC (R208). -/
def enqueuePath (w : Wave) (q : QPath) : Wave :=
  let hit := fun (i : Nat) => match getSlot w i with
    | some p => p.pc == q.pc && pathFree p && q.fed.isNone
    | none => false
  if hit 0 then setSlot w 0 ((getSlot w 0).map (fun p => joinPaths p (ofQueue w q)))
  else if hit 1 then setSlot w 1 ((getSlot w 1).map (fun p => joinPaths p (ofQueue w q)))
  else match indexWhere (fun x => x.pc == q.pc && x.fed.isNone && q.fed.isNone) w.queue with
    | some k => { w with queue := listModify w.queue k (joinQueued q) }
    | none => { w with queue := w.queue ++ [q] }

/-- A PC put into an ascending list, once. -/
def insertPc (a : DWord) : List DWord → List DWord
  | [] => [a]
  | b :: t => if a = b then b :: t else if a.toNat < b.toNat then a :: b :: t else b :: insertPc a t

/-- The next PCs of a branch with their masks, ascending, each once (R207). -/
def pathGroups (l : List (DWord × Mask)) : List (DWord × Mask) :=
  let l := l.filter (fun x => x.2 != 0)
  let pcs := l.foldl (fun t x => insertPc x.1 t) []
  pcs.map (fun pc => (pc, l.foldl (fun m x => if x.1 == pc then m ||| x.2 else m) 0))

/-- Paths that waited at wsync for threads that have ended proceed (R211). -/
def wsyncRelease (w : Wave) : Wave :=
  let act := maskAct w
  let done := fun (m mask : Mask) => (m &&& act) &&& ~~~mask == 0
  let fixSlot := fun (p : Option Path) => p.map (fun q => match q.st with
    | .wsync m => if done m q.mask then { q with st := .live } else q
    | _ => q)
  { w with slot0 := fixSlot w.slot0, slot1 := fixSlot w.slot1,
           queue := w.queue.map (fun q => match q.sync with
             | some m => if done m q.mask then { q with sync := none } else q
             | none => q) }

/-- The path of slot `i` has ended (R212): paths that waited at wsync for its threads proceed (R211), and its slot is
filled (R209). -/
def dropPath (w : Wave) (i : Nat) : Wave := fillSlots (wsyncRelease (setSlot w i none))

/-- The path of slot `i` is replaced by the paths of a branch (R207). With no group the path has ended. -/
def splitPath (w : Wave) (i : Nat) (l : List (DWord × Mask)) : Wave :=
  match pathGroups l with
  | [] => dropPath w i
  | g :: rest =>
    let held := match getSlot w i with
      | some p => p.held
      | none => w.turns
    let w1 := mergeAt (setSlot w i (some { pc := g.1, mask := g.2, held := held })) i
    let w2 := match rest with
      | [] => w1
      | h :: more =>
        let w2 := if (getSlot w (1 - i)).isNone ∧ (getSlot w1 (1 - i)).isNone then
            mergeAt (setSlot w1 (1 - i) (some { pc := h.1, mask := h.2, held := w.turns })) (1 - i)
          else enqueuePath w1 { pc := h.1, mask := h.2 }
        more.foldl (fun t x => enqueuePath t { pc := x.1, mask := x.2 }) w2
    fillSlots w2

/-- The executing path goes on at a PC, alone (R206). -/
def movePath (w : Wave) (pc : DWord) : Wave :=
  match w.handler with
  | some h => { w with handler := some { h with path := { h.path with pc := pc, fed := none, cut := none } } }
  | none =>
    match getSlot w w.cur with
    | none => w
    | some p =>
      fillSlots (mergeAt (setSlot w w.cur (some { p with pc := pc, fed := none, cut := none, st := .live })) w.cur)

/-- The executing path's own PC that a trap, save or rewind names: that of the `pfx` of a pair (R202). -/
def pathPc (p : Path) : DWord := if p.fed.isSome then p.pc - 12 else p.pc

/-- A path stopped between a `pfx` and the instruction it feeds goes back to the `pfx` (R308). -/
def rewindPath (p : Path) : Path := { p with pc := pathPc p, fed := none }

def rewindWave (w : Wave) : Wave :=
  { w with slot0 := w.slot0.map rewindPath, slot1 := w.slot1.map rewindPath,
           queue := w.queue.map (fun q => match q.fed with
             | some _ => { q with pc := q.pc - 12, fed := none }
             | none => q),
           handler := w.handler.map (fun h => { h with path := rewindPath h.path }),
           op := {} }

/-- Live paths of a wave (R198, R206). -/
def wavePaths (w : Wave) : List Path := w.slot0.toList ++ w.slot1.toList

/-- Every live path is blocked; a path that waits at `wsync` or in the queue is not (R198). -/
def waveBlocked (w : Wave) : Bool :=
  w.handler.isNone && !(wavePaths w).isEmpty && (wavePaths w).all pathBlocked && w.queue.isEmpty

/-- A wave with no path has ended (R212). -/
def waveEnded (w : Wave) : Bool := w.slot0.isNone && w.slot1.isNone && w.queue.isEmpty && w.arrive.isNone

/-- Whether a path may fetch (R198). A `racq` that was answered with an error ends in its trap,
and an `ewait` whose commands have completed returns. -/
def pathRuns (p : Path) : Bool :=
  match p.st with
  | .live | .join _ => true
  | .blocked (.racq _ (some _)) => true
  | .blocked (.ewait _ true) => true
  | _ => false

/-- Whether the path of slot `i` may fetch. -/
def slotRuns (w : Wave) (i : Nat) : Bool := (getSlot w i).any pathRuns

/-- Another live path of the wave has a lower PC (R210). -/
def lowerLive (w : Wave) (i : Nat) (pc : DWord) : Bool :=
  (match getSlot w (1 - i) with
    | some p => decide (p.pc.toNat < pc.toNat)
    | none => false) || w.queue.any (fun q => decide (q.pc.toNat < pc.toNat))

/-- The queue holds an eligible path of lower PC (R210). -/
def lowerQueued (w : Wave) (pc : DWord) : Bool := w.queue.any (fun q => eligible q && decide (q.pc.toNat < pc.toNat))

/-- The path of slot `i` waits in it at a join, and gives its fetch turns to the other slot (R210). -/
def joinHeld (w : Wave) (i : Nat) : Bool := match getSlot w i with
  | some p => (match p.st with
    | .join n => decide (n < 256) && lowerLive w i p.pc && !lowerQueued w p.pc
    | _ => false)
  | none => false

def slotReady (w : Wave) (i : Nat) : Bool := slotRuns w i && !joinHeld w i

/-- The slot whose turn it is: the slots alternate, and one that cannot fetch or waits at a join is skipped (R198, R210).
A turn that neither can use passes at the join. -/
def nextSlot (w : Wave) : Option Nat :=
  let o := 1 - w.cur
  if slotReady w o then some o else if slotReady w w.cur then some w.cur
  else if slotRuns w o then some o else if slotRuns w w.cur then some w.cur else none

/-- One fetch turn passes: waiting counts rise (R206, R210). -/
def countTurn (w : Wave) : Wave :=
  let j := fun (p : Option Path) => p.map (fun q => match q.st with
    | .join n => { q with st := .join (n + 1) }
    | _ => q)
  { w with turns := w.turns + 1, slot0 := j w.slot0, slot1 := j w.slot1,
           queue := w.queue.map (fun q => { q with wait := q.wait + 1, join := q.join.map (· + 1) }) }

/-- A path about to fetch an instruction with the join hint waits for paths of lower PC (R210). The result is none
when it fetches. -/
def joinWait (w : Wave) (i : Nat) : Option Wave :=
  match getSlot w i with
  | none => none
  | some p =>
    let n := match p.st with
      | .join n => n
      | _ => 0
    if !lowerLive w i p.pc ∨ 256 ≤ n then none
    else if lowerQueued w p.pc then
      let q : QPath := { pc := p.pc, mask := p.mask, fed := p.fed, join := some n }
      some (fillSlots { setSlot w i none with queue := w.queue ++ [q] })
    else some (setSlot w i (some { p with st := .join n }))

/-- A queued eligible path whose waiting count reaches 256 takes the slot held longest (R209). -/
def promotePath (w : Wave) : Wave :=
  match indexWhere promotable w.queue with
  | none => w
  | some k => match w.queue[k]? with
    | none => w
    | some q =>
      -- the slot whose path has held it longest; a blocked path keeps its slot
      let can := [0, 1].filter (fun i => match getSlot w i with
        | some p => !pathBlocked p && p.fed.isNone
        | none => true)
      match minBy (fun i => match getSlot w i with
        | some p => p.held
        | none => 0) can with
      | none => w
      | some i =>
        let rest := listErase w.queue k
        let out := match getSlot w i with
          | some p => [toQueue p]
          | none => []
        { setSlot w i (some (ofQueue w q)) with queue := rest ++ out }

def promotionDue (w : Wave) : Bool :=
  !w.general && w.queue.any promotable
    && [0, 1].any (fun i => match getSlot w i with
      | some p => !pathBlocked p && p.fed.isNone
      | none => true)

end Sys2Proof.Machine
end

