-- ==== Sys2Proof/Machine/Mem.lean ====
section
/-! DEFINITION. Physical memory: bytes, keys, and what a read under another key returns (R16-R18, R139, R144).
An address here is the 52-bit physical address, plus (m + 1) * 2^52 on another module m of the pod. -/

namespace Sys2Proof.Machine

/-- The canonical form of memory: addresses rise strictly and no listed byte is zero, which is what an unlisted byte
reads as (R144, assumption log 7). -/
def Memory.wf (m : List Host.Cell) : Bool := Tab.wf (0 : Byte) m

def Memory.read (m : List Host.Cell) (a : Nat) : Byte := Tab.get 0 m a

def Memory.write (m : List Host.Cell) (a : Nat) (b : Byte) : List Host.Cell := Tab.set 0 m a b

/-- Physical node of an address on its module. -/
def paNode (a : Nat) : Nat := a / 2 ^ 46 % 64
def paOffset (a : Nat) : Nat := a % 2 ^ 46
/-- The other module that an address lies on. -/
def paModule (a : Nat) : Option Nat := if a < 2 ^ 52 then none else some (a / 2 ^ 52 - 1)

/-- Near and far memory of C-dies is encrypted, host memory is not (R16, R17). -/
def paEncrypted (a : Nat) : Bool := decide (paNode a < 32)

/-- The ranges of R18 in which memory stands. -/
def paIsMemory (a : Nat) : Bool :=
  let o := paOffset a
  if paNode a < 32 then decide (o < 0xC00000000) || (decide (0x10000000000 ≤ o) && decide (o < 0x12000000000))
  else paNode a == 63

/-- The tag of the line of an address, and the tag of a slot (R139). -/
def memTag (s : State) (a : Nat) : Option (Nat × Nat) := Tab.find s.memKey (a / 128)
def slotTag (s : State) (slot : Nat) : Nat × Nat := (slot, (getKey s slot).gen)

/-- Whether a read of `a` under a slot uses the key with which the line was written. A line that nothing has written
since the wipe reads as zeros under every slot (R144, R239). -/
def keyMatches (s : State) (slot a : Nat) : Bool :=
  !paEncrypted a || (match memTag s a with
    | none => true
    | some t => t == slotTag s slot)

/-- Where the memory of the host at hub 1's port stands when that is another host: no module has this number. -/
def otherHost : Nat := 65 * 2 ^ 52

/-- The cell of an address: node 63 is the host at the port in service, which is hub 1's while hub 0 is out of ACTIVE (R18,
R123). -/
def paCell (s : State) (a : Nat) : Nat :=
  if a < 2 ^ 52 ∧ paNode a = 63 ∧ roleHub s = 49 ∧ Config.failoverHost then otherHost + a else a

/-- A byte of memory read under a slot (R139). -/
def paRead (s : State) (slot a : Nat) : Byte :=
  if keyMatches s slot a then Memory.read s.mem (paCell s a) else Config.wrongKeyByte s.free a

def paReadN (s : State) (slot a : Nat) : Nat → List Byte
  | 0 => []
  | n + 1 => paRead s slot a :: paReadN s slot (a + 1) n

/-- Before a write under another key, the other bytes of the line become what they decrypt to (R139). -/
def paRekey (s : State) (slot a : Nat) : State :=
  if !paEncrypted a then s
  else
    let s1 := if keyMatches s slot a then s
      else { s with mem := (List.range 128).foldl (fun m i =>
        Memory.write m (a / 128 * 128 + i) (Config.wrongKeyByte s.free (a / 128 * 128 + i))) s.mem }
    { s1 with memKey := Tab.put s1.memKey (a / 128) (slotTag s slot) }

/-- A byte of memory written under a slot. -/
def paWrite (s : State) (slot a : Nat) (b : Byte) : State :=
  let s1 := paRekey s slot a
  { s1 with mem := Memory.write s1.mem (paCell s1 a) b }

def paWriteN (s : State) (slot a : Nat) : List Byte → State
  | [] => s
  | b :: t => paWriteN (paWrite s slot a b) slot (a + 1) t

/-- An aligned 64-bit word of memory. -/
def paRead64 (s : State) (slot a : Nat) : Nat := natOfBytes (paReadN s slot a 8)

/-- Host memory through the PCIe port (node 63). -/
def hostAddr (a : Nat) : Nat := 63 * 2 ^ 46 + a % 2 ^ 46
def hostRead (s : State) (a n : Nat) : List Byte := paReadN s 0 (hostAddr a) n
def hostWrite (s : State) (a : Nat) (l : List Byte) : State := paWriteN s 0 (hostAddr a) l

end Sys2Proof.Machine
end

