-- ==== Sys2Proof/Machine/Xlate.lean ====
section
/-! DEFINITION. Home maps, page tables, translation units and permission buffers (R62-R65, R98-R108, R118). -/

namespace Sys2Proof.Machine

/-! ## Home maps (R62-R64) -/

/-- An entry of a home map: policy, dies, count, base. -/
structure HomeEnt where
  policy : Nat
  dies : Nat
  count : Nat
  base : Nat
  deriving DecidableEq, Repr

def homeEnt (x : BitVec 128) : HomeEnt :=
  { policy := bitsOf x.toNat 126 2, dies := bitsOf x.toNat 88 32, count := bitsOf x.toNat 38 38,
    base := bitsOf x.toNat 0 38 }

/-- A malformed entry; an all-zero entry is unused and well formed (R62). -/
def homeEntBad (x : BitVec 128) : Bool :=
  let e := homeEnt x
  if x = 0 then false
  else e.policy == 0 || e.count == 0 || decide (2 ^ 38 < e.base + e.count) || bitsOf x.toNat 120 6 != 0
    || bitsOf x.toNat 76 12 != 0
    || (e.policy == 1 && decide (31 < e.dies)) || (e.policy == 2 && e.dies == 0) || (e.policy == 3 && e.dies != 0)

def homeOverlap (x y : BitVec 128) : Bool :=
  let a := homeEnt x
  let b := homeEnt y
  x != 0 && y != 0 && decide (a.base < b.base + b.count) && decide (b.base < a.base + a.count)

/-- The C-dies of a stripe set in ascending order. -/
def stripeDies (m : Nat) : List Nat := cdies.filter (fun d => bitOf m d)

/-- The home of a granule in an entry; `host` is the hub that serves HOST ranges (R63). -/
def entHome (host : Nat) (e : HomeEnt) (g : Nat) : Option Nat :=
  if g < e.base ∨ e.base + e.count ≤ g then none
  else match e.policy with
    | 1 => some e.dies
    | 2 => (stripeDies e.dies)[(g - e.base) % (stripeDies e.dies).length]?
    | 3 => some host
    | _ => none

/-- The entries of a context's map as node `n` holds them: a rewrite replaces an entry when the node commits it, though
the new homes serve its granules from the end of the hand-off on (R56). -/
def homeMapAt (s : State) (n asid : Nat) : Tab (BitVec 128) :=
  let t := (getCtx s asid).home
  match s.rehome with
  | some r => if r.asid == asid && !r.committed.contains n then Tab.set 0 t r.index r.old else t
  | none => t

def homeInMap (host : Nat) (t : Tab (BitVec 128)) (v : Nat) : Option Nat :=
  firstSome (fun e => entHome host (homeEnt e.2) (v / 65536)) t

/-- The home of a 54-bit address, by the map that node `n` holds. The ASID is the one of R98. -/
def homeAt (s : State) (n asid v : Nat) : Option Nat := homeInMap (roleHub s) (homeMapAt s n asid) v

def homeOf (s : State) (asid v : Nat) : Option Nat := homeInMap (roleHub s) (getCtx s asid).home v

/-- Whether the policy that homes an address is HOST (R214). -/
def homeIsHost (s : State) (asid v : Nat) : Bool :=
  (getCtx s asid).home.any (fun e =>
    (homeEnt e.2).policy == 3 && (entHome 48 (homeEnt e.2) (v / 65536)).isSome)

/-! ## Page tables (R100-R107) -/

/-- The access that a walk is made for. -/
inductive Acc where
  | read | write | exec
  deriving DecidableEq, Repr

/-- A translation: extended physical address, key slot, attributes. -/
structure Phys where
  addr : Nat
  key : Nat
  uc : Bool
  kind : Nat
  /-- copies of a replicated page, as a set of C-dies; 0 when not replicated -/
  repl : Nat
  deriving DecidableEq, Repr

def pageSize (lvl : Nat) : Nat := if lvl = 0 then 2 ^ 42 else if lvl = 1 then 2 ^ 29 else 2 ^ 16

def ptIndex (v lvl : Nat) : Nat := if lvl = 0 then bitsOf v 42 12 else if lvl = 1 then bitsOf v 29 13 else bitsOf v 16 13

def pteV (e : Nat) : Bool := bitOf e 0
def pteLeaf (e : Nat) : Bool := bitOf e 1
def pteW (e : Nat) : Bool := bitOf e 2
def pteX (e : Nat) : Bool := bitOf e 3
def pteSup (e : Nat) : Bool := bitOf e 4
def pteUc (e : Nat) : Bool := bitOf e 5
def pteRepl (e : Nat) : Bool := bitOf e 6
def pteKind (e : Nat) : Nat := bitsOf e 7 2
def pteAux (e : Nat) : Nat := bitsOf e 9 6
def pteKey (e : Nat) : Nat := bitsOf e 15 10
def ptePfn (e : Nat) : Nat := bitsOf e 25 36

/-- The dies of a replicated page (R104). -/
def replDies (s : State) (asid e : Nat) : Nat := (Tab.get 0 (getCtx s asid).repl (pteAux e % 16)).toNat

def bitCount (x n : Nat) : Nat := ((List.range n).filter (fun i => bitOf x i)).length

/-- Malformed entries (R102, R103). AUX must be zero where nothing uses it. -/
def pteBad (s : State) (asid e lvl : Nat) : Bool :=
  bitsOf e 61 3 != 0 ||
  (if pteLeaf e then
    (lvl == 1 && ptePfn e % 2 ^ 13 != 0) || (lvl == 0 && ptePfn e % 2 ^ 26 != 0)
    || pteKind e == 3
    || (pteRepl e && (pteKind e != 0 || pteUc e))
    || (pteRepl e && (let d := replDies s asid e
        let n := bitCount d 32
        decide (n < 2) || decide (8 < n) || !bitOf d (ptePfn e / 2 ^ 30) || decide (32 ≤ ptePfn e / 2 ^ 30)))
    || (pteRepl e && pteAux e / 16 != 0)
    || (!pteRepl e && pteKind e != 1 && pteAux e != 0)
    || (pteKind e == 2 && (!pteUc e || !pteSup e))
  else lvl == 2 || bitsOf e 2 23 != 0)

/-- The physical address that a leaf maps `v` to, extended by its module (R45). -/
def ptePa (s : State) (e v lvl : Nat) : Nat :=
  let pa := ptePfn e * 65536 + v % pageSize lvl
  if pteKind e == 1 && pteAux e != s.mods.podId then (pteAux e + 1) * 2 ^ 52 + pa else pa

/-- The offsets of control space that are no holes (R126). -/
def ctrlMapped (pa : Nat) : Bool :=
  let o := paOffset pa
  if isWdie (paNode pa) then decide (o < 0x100000)
  else if isHub (paNode pa) then decide (0x100000 ≤ o) && decide (o < 0x3400000)
  else false

/-- A physical hole for a leaf (R18, R45, R126). -/
def isHole (pa kind : Nat) : Bool :=
  if kind = 2 then !ctrlMapped pa
  else if kind = 1 then
    !(paIsMemory pa) || (paNode pa == 63 && (paModule pa).isSome)
  else !(paIsMemory pa)

/-- Slot 0 and the context's own slot (R138). -/
def keySlotLive (s : State) (asid k : Nat) : Bool := k == 0 || (asid != 0 && k == (getCtx s asid).slot)

/-- The checks on a leaf, in the order of R107. -/
def leafCheck (s : State) (asid v : Nat) (acc : Acc) (sup : Bool) (e lvl : Nat) : Except Nat Phys :=
  if acc = .write ∧ !pteW e then .error 2
  else if acc = .exec ∧ !pteX e then .error 3
  else if pteSup e ∧ !sup then .error 4
  else if !keySlotLive s asid (pteKey e) then .error 8
  else
    let pa := ptePa s e v lvl
    if isHole pa (pteKind e) then .error 6
    else .ok { addr := pa, key := pteKey e, uc := pteUc e, kind := pteKind e,
               repl := if pteRepl e then replDies s asid e else 0 }

/-- The translation unit of a node that serves an address: one of the 8 of a C-die, or of the 2 of a hub (R106). -/
def xlateUnit (node v : Nat) : Nat := (bitsOf v 16 3 ^^^ bitsOf v 19 3) % (if isHub node then 2 else 8)

/-- A walk from level `lvl` with table address `t`; fuel counts the levels left. The result names the leaf's entry and
level; the table entries passed are listed with their levels. -/
def walkFrom (s : State) (node asid v key : Nat) : Nat → Nat → Nat → List (Nat × Nat) →
    Except Nat (Nat × Nat) × List (Nat × Nat)
  | 0, _, _, acc => (.error 5, acc)
  | fuel + 1, lvl, t, acc =>
    let base := v / pageSize lvl * pageSize lvl
    let cached := firstSome (fun x =>
      if x.node == node && x.unit == xlateUnit node v && x.asid == asid && x.size == pageSize lvl && x.base == base then some x.pte.toNat else none)
      s.walks
    let e := match cached with
      | some e => e
      | none => paRead64 s key (t + ptIndex v lvl * 8)
    if !pteV e then (.error 1, acc)
    else if pteBad s asid e lvl then (.error 5, acc)
    else if pteLeaf e then (.ok (e, lvl), acc)
    else walkFrom s node asid v key fuel (lvl + 1) (ptePfn e * 65536) ((lvl, e) :: acc)

/-- The walk of R107. -/
def walkPage (s : State) (node asid v : Nat) : Except Nat (Nat × Nat) × List (Nat × Nat) :=
  let r := (getCtx s asid).ptbase
  if !r.getLsbD 63 then (.error 1, [])
  else walkFrom s node asid v (bitsOf r.toNat 37 10) 3 0 (bitsOf r.toNat 0 37 * 2 ^ 15) []

def tlbHit (l : List TlbEnt) (node asid v : Nat) : Option TlbEnt :=
  l.find? (fun x => x.node == node && x.asid == asid && x.base == v / x.size * x.size)

/-- The entry of a TLB that covers an address: the one of its translation unit. -/
def tlbFind (s : State) (node asid v : Nat) : Option TlbEnt :=
  tlbHit (s.tlb.filter (fun x => x.unit == xlateUnit node v)) node asid v

/-- Whether an interval holds a byte of a part: of a striped one, a granule that its home-map entry homes at the node (R109). A
stripe repeats after at most 32 granules. -/
def partMeets (ent : BitVec 128) (node lo hi : Nat) : Bool :=
  decide (lo < hi) && (ent == 0 || (List.range (min ((hi + 65535) / 65536 - lo / 65536) 32)).any (fun i =>
    entHome 0 (homeEnt ent) (lo / 65536 + i) == some node))

/-- Whether a grant covers a byte of an interval. -/
def grantMeets (g : Grant) (lo hi : Nat) : Bool := partMeets g.ent g.node (max lo g.range.lo) (min hi g.range.hi)

/-- A translation that a live lease pins (R109). -/
def tlbPinned (s : State) (x : TlbEnt) : Bool :=
  s.grants.any (fun g => g.live && g.node == x.node && g.asid == x.asid && grantMeets g x.base (x.base + x.size))

/-- Entries of a unit's TLB and of its walk cache (R106). -/
def tlbEntries : Nat := 4096
def walkEntries : Nat := 512

/-- A list with the last entry that may go left out. -/
def dropLast (p : TlbEnt → Bool) (l : List TlbEnt) : List TlbEnt :=
  match l.reverse.find? p with
  | some x => l.erase x
  | none => l

/-- A translation enters its unit's TLB, the newest first; of a full TLB the oldest entry goes that no lease pins. -/
def tlbPut (s : State) (x : TlbEnt) : List TlbEnt :=
  let mine := fun (y : TlbEnt) => y.node == x.node && y.unit == x.unit
  x :: (if (s.tlb.filter mine).length < tlbEntries then s.tlb else dropLast (fun y => mine y && !tlbPinned s y) s.tlb)

/-- A table entry enters its unit's walk cache, the newest first. -/
def walkPut (l : List TlbEnt) (x : TlbEnt) : List TlbEnt :=
  let mine := fun (y : TlbEnt) => y.node == x.node && y.unit == x.unit
  if l.contains x then l
  else x :: (if (l.filter mine).length < walkEntries then l else dropLast mine l)

def levelOfSize (n : Nat) : Nat := if n = 2 ^ 42 then 0 else if n = 2 ^ 29 then 1 else 2

/-- Translation at a node: TLB, then walk; a completed walk is kept in the TLB and its tables in the walk cache. -/
def xlate (s : State) (node asid v : Nat) (acc : Acc) (sup : Bool) : State × Except Nat Phys :=
  match tlbFind s node asid v with
  | some x => (s, leafCheck s asid v acc sup x.pte.toNat (levelOfSize x.size))
  | none =>
    let r := walkPage s node asid v
    match r.1 with
    | .error k => (s, .error k)
    | .ok (e, lvl) =>
      let ent : TlbEnt :=
        { node := node, unit := xlateUnit node v, asid := asid, base := v / pageSize lvl * pageSize lvl, size := pageSize lvl,
          pte := BitVec.ofNat 64 e }
      let ws := r.2.map (fun x =>
        ({ node := node, unit := xlateUnit node v, asid := asid, base := v / pageSize x.1 * pageSize x.1, size := pageSize x.1,
           pte := BitVec.ofNat 64 x.2 } : TlbEnt))
      let res := leafCheck s asid v acc sup e lvl
      match res with
      | .ok _ => ({ s with tlb := tlbPut s ent, walks := ws.foldr (fun x l => walkPut l x) s.walks }, res)
      | .error _ => (s, res)

/-- A translation that changes nothing: what `xlate` answers. -/
def xlatePeek (s : State) (node asid v : Nat) (acc : Acc) (sup : Bool) : Except Nat Phys := (xlate s node asid v acc sup).2

/-- The number under which a general core's permission buffer stands in `State.perms`. -/
def permNode (node unit : Nat) : Nat := 1024 + (node - 48) * 32 + unit / 2

/-- The check of one general-core access of one page (R98, R118): the fault kind, if any. The buffer keeps 512
entries, the newest first. -/
def permCheck (s : State) (node unit asid0 : Nat) (va : DWord) (acc : Acc) (sup : Bool) : State × Option Nat :=
  if !canonical va then (s, some 9)
  else
    let asid := asidOf asid0 va
    let v := va54 va
    let pn := permNode node unit
    match tlbHit s.perms pn asid v with
    | some x =>
      match leafCheck s asid v acc sup x.pte.toNat (levelOfSize x.size) with
      | .ok _ => (s, none)
      | .error k => (s, some k)
    | none =>
      match homeAt s node asid v with
      | none => (s, some 7)
      | some h =>
        if nodeLost s h then (s, none)
        else
          let r := xlate s h asid v acc sup
          match r.2 with
          | .error k => (r.1, some k)
          | .ok _ =>
            match tlbFind r.1 h asid v with
            | none => (r.1, none)
            | some x =>
              let own := r.1.perms.filter (fun y => y.node == pn)
              let rest := r.1.perms.filter (fun y => y.node != pn)
              ({ r.1 with perms := ({ x with node := pn, unit := 0 } :: own).take 512 ++ rest }, none)

/-- The pages that a byte range touches, by their first byte in the range. -/
def pagesOf (v n : Nat) : List Nat :=
  if n = 0 then []
  else (List.range ((v + n - 1) / 65536 - v / 65536 + 1)).map (fun i => if i = 0 then v else (v / 65536 + i) * 65536)

/-- Range check of a general-core access: the first fault, with its address. -/
def permRange (s : State) (node unit asid : Nat) (acc : Acc) (sup : Bool) : List DWord → State × Option (Nat × DWord)
  | [] => (s, none)
  | va :: t =>
    let r := permCheck s node unit asid va acc sup
    match r.2 with
    | some k => (r.1, some (k, va))
    | none => permRange r.1 node unit asid acc sup t

end Sys2Proof.Machine
end

