-- ==== Sys2Proof/Machine/Faults.lean ====
section
/-! DEFINITION. Trap causes, fault records and the fault processors (R251-R256), and watches (R248). -/

namespace Sys2Proof.Machine

/-! ## Causes (R251) -/

def cIllegalInsn : Nat := 0x01
def cIllegalOpnd : Nat := 0x02
def cMisaligned : Nat := 0x03
def cLeaseViolation : Nat := 0x04
def cLeaseLost : Nat := 0x05
def cPoison : Nat := 0x06
def cRace : Nat := 0x07
def cRangeLock : Nat := 0x08
def cToken : Nat := 0x09
def cReplica : Nat := 0x0A
def cSoftTrap : Nat := 0x18
def cBreakpoint : Nat := 0x19
def cWatchdog : Nat := 0x1A
def cQueue : Nat := 0x1B
def cMigrate : Nat := 0x1C
def cEcc : Nat := 0x1D
def cDieLost : Nat := 0x1E

/-- The causes that R251 lists. -/
def causeListed (c : Nat) : Bool :=
  [1, 2, 3, 4, 5, 6, 7, 8, 9, 10, 0x10, 0x11, 0x12, 0x13, 0x14, 0x18, 0x19, 0x1A, 0x1B, 0x1C, 0x1D, 0x1E].contains c

/-! ## Records (R254) -/

/-- The fields of a fault record. -/
structure FaultInfo where
  cause : Nat
  sub : Nat
  origin : Nat
  deferred : Bool := false
  answer : Bool := false
  handler : Bool := false
  detached : Bool := false
  scr : Bool := false
  lost : Nat := 0
  pc : DWord := 0
  fmask : Mask := 0
  pmask : Mask := 0
  addr : DWord := 0
  agent : Nat := 0
  asid : Nat := 0
  wave : Nat := 0
  xkind : Nat := 0
  task : Word := 0
  ttype : Nat := 0
  skid : Nat := 0
  /-- package time at the trap; none: that of the posting -/
  ptime : Option Nat := none
  retired : Nat := 0
  save : Nat := 0
  accloc : Nat := 0
  snap : List Byte := []
  deriving DecidableEq, Repr

def padTo (n : Nat) (l : List Byte) : List Byte := l.take n ++ List.replicate (n - l.length) 0

/-- The 256 bytes of a record (R254). -/
def recordBytes (f : FaultInfo) (seq : Nat) : List Byte :=
  bytesOfNat 1 f.cause ++ bytesOfNat 1 f.sub
  ++ bytesOfNat 1 (f.origin + 8 * b2n f.deferred + 16 * b2n f.answer + 32 * b2n f.handler + 64 * b2n f.detached
      + 128 * b2n f.scr)
  ++ bytesOfNat 1 (min f.lost 255) ++ bytesOfNat 4 seq ++ bytesOf 8 f.pc ++ bytesOf 4 f.fmask ++ bytesOf 4 f.pmask
  ++ bytesOf 8 f.addr ++ bytesOfNat 4 f.agent ++ bytesOfNat 2 f.asid ++ bytesOfNat 1 f.wave ++ bytesOfNat 1 f.xkind
  ++ bytesOf 4 f.task ++ bytesOfNat 2 f.ttype ++ bytesOfNat 2 f.skid ++ bytesOfNat 8 (f.ptime.getD 0)
  ++ bytesOfNat 8 f.retired ++ bytesOfNat 8 f.save ++ bytesOfNat 4 f.accloc ++ List.replicate 52 0
  ++ padTo 128 f.snap

/-- MSI-X signalled to a function (R163, R255). -/
def signalMsix (s : State) (func vector : Nat) : State := { s with msix := s.msix ++ [(func, vector)] }

/-- The fault processor that has a record: the hub it was routed to, or the hub in the role while that one is out of
ACTIVE (R117, R255). -/
def procOf (s : State) (hub : Nat) : Nat := if nodeActive s hub then hub else roleHub s

/-- Records that the ring of a fault processor takes until it is full (R255, R256). -/
def ringRoom (s : State) (hub : Nat) : Nat :=
  let n := getNode s hub
  let size := bitsOf n.fltBase.toNat 0 5
  if 6 ≤ size ∧ size ≤ 16 then 2 ^ size - (n.fltHead - n.fltTail).toNat else 0

/-- A record reaches a fault processor (R255, R256): it waits there to be written. A record that needs no answer is
dropped when the ring is full and 256 records wait. The result names its SEQ. -/
def postFaultAt (s : State) (hub : Nat) (f : FaultInfo) (who : Option AnsFor) : State × Nat :=
  let hub := procOf s hub
  let f := { f with answer := who.isSome, ptime := some (f.ptime.getD (nodeTime s hub)) }
  if who.isNone ∧ ringRoom s hub + 256 ≤ (s.flt.buffer.filter (fun r => procOf s r.hub == hub)).length then
    (modNode s hub (fun n => { n with fltLost := satInc 32 n.fltLost 1 }), s.flt.nextSeq)
  else
    let q := s.flt.nextSeq
    let rec_ : FltRec := { seq := q, answer := who.isSome, bytes := recordBytes f q, hub := hub }
    ({ s with flt := { nextSeq := (q + 1) % 2 ^ 32, buffer := s.flt.buffer ++ [rec_],
                       awaiting := match who with
                         | some w => s.flt.awaiting ++ [(q, w)]
                         | none => s.flt.awaiting } }, q)

/-- A record that no table routes: to the fault processor of hub 0, or of hub 1 while hub 0 is out of ACTIVE (R255). -/
def postFault (s : State) (f : FaultInfo) (who : Option AnsFor) : State × Nat := postFaultAt s (roleHub s) f who

/-- An uncorrectable error is counted on its C-die (R272). -/
def countUe (s : State) (node sub : Nat) : State :=
  if isCdie node then modNode s node (fun n => { n with ue := satInc 16 n.ue 1, lastu := sub }) else s

/-! ## Watches (R248, R249) -/

/-- The monitor of a wave fires with a code, unless it has fired. -/
def fireMon (s : State) (w code : Nat) : State :=
  match Tab.find s.waves w with
  | none => if w < 128 then
      modWave s w (fun x => { x with mon := x.mon.map (fun m =>
        if m.fired.isNone then { m with fired := some code } else m) }) else s
  | some x => setWave s w { x with mon := x.mon.map (fun m =>
      if m.fired.isNone then { m with fired := some code } else m) }

/-- The watches of a home that meet bytes [a, a + n) of a context fire and go. -/
def fireWatches (s : State) (node asid a n code : Nat) : State :=
  let hit := s.watches.filter (fun x =>
    x.node == node && x.asid == asid && decide (x.addr < a + n) && decide (a < x.addr + x.size))
  let s1 := { s with watches := s.watches.filter (fun x => !hit.contains x) }
  hit.foldl (fun t x => fireMon t x.wave code) s1

/-! ## Words at their homes (R67) -/

/-- The state of a word. -/
def wordSt (s : State) (k w : Nat) : WordSt :=
  match (Tab.get 0 s.words k).toNat / 4 ^ w % 4 with
  | 0 => .i | 1 => .v | 2 => .g | _ => .z

def wordCode : WordSt → DWord
  | .i => 0 | .v => 1 | .g => 2 | .z => 3

def setWordSt (s : State) (k w : Nat) (x : WordSt) : State :=
  { s with words := Tab.modify 0 s.words k (fun d =>
      (d &&& ~~~((3#64) <<< (2 * w))) ||| ((wordCode x) <<< (2 * w))),
           eccFound := if x = .z then s.eccFound else Tab.erase s.eccFound (k * 32 + w) }

/-- Memory under a mapping changed without its home (a record in the ring, the host, another module): the home's valid
copies of those bytes go, and watches on them fire. -/
def physChanged (s : State) (a n : Nat) : State :=
  let hit := s.words.filter (fun e =>
    match homeOf s (lineAsid e.1) (lineNo e.1 * 128) with
    | none => false
    | some h => match xlatePeek s h (lineAsid e.1) (lineNo e.1 * 128) .read true with
      | .ok p => decide (p.addr < a + n) && decide (a < p.addr + 128)
      | .error _ => false)
  let s1 := hit.foldl (fun t e =>
    match homeOf s (lineAsid e.1) (lineNo e.1 * 128) with
    | none => t
    | some h =>
      let vs := (List.range 32).filter (fun w => wordSt t e.1 w == .v)
      let t1 := vs.foldl (fun t w => setWordSt t e.1 w .i) t
      let l := getLine t1.llc h e.1
      { t1 with llc := setLine t1.llc h e.1 (lineDrop l (byteMask (maskOf (fun w => vs.contains w)))) }) s
  let ws := s.watches.filter (fun x =>
    match xlatePeek s x.node x.asid x.addr .read true with
    | .ok p => decide (p.addr < a + n) && decide (a < p.addr + x.size)
    | .error _ => false)
  ws.foldl (fun t x => fireMon { t with watches := t.watches.filter (fun y => y != x) } x.wave 0) s1

/-- What a fault processor can do now (R255, R256): write its oldest record into its ring, under key slot 0, and signal
MSI-X vector 1 of the PF; with a SIZE that is not 6-16, drop its oldest record that needs no answer. None when there is
no such record or the ring is full. -/
def postOldestOf (s : State) (hub : Nat) : Option State :=
  let n := getNode s hub
  let size := bitsOf n.fltBase.toNat 0 5
  let mine (r : FltRec) : Bool := procOf s r.hub == hub
  if size < 6 ∨ 16 < size then
    (indexWhere (fun r => mine r && !r.answer) s.flt.buffer).map (fun i =>
      modNode { s with flt := { s.flt with buffer := listErase s.flt.buffer i } } hub
        (fun n => { n with fltLost := satInc 32 n.fltLost 1 }))
  else if (n.fltHead - n.fltTail).toNat = 2 ^ size then none
  else
    match indexWhere mine s.flt.buffer with
    | none => none
    | some i => (s.flt.buffer[i]?).map (fun r =>
      let pa := bitsOf n.fltBase.toNat 12 40 * 4096 + 256 * (n.fltHead.toNat % 2 ^ size)
      let s1 := if paIsMemory pa then physChanged (paWriteN s 0 pa r.bytes) pa 256 else s
      let s2 := modNode { s1 with flt := { s1.flt with buffer := listErase s1.flt.buffer i } } hub
        (fun n => { n with fltHead := n.fltHead + 1 })
      signalMsix s2 0 1)

/-- FAULT_RECORD_POST (R255, R256): a fault processor that can writes its oldest record. -/
def postOldest (s : State) : State :=
  match postOldestOf s 48 with
  | some t => t
  | none => (match postOldestOf s 49 with
    | some t => t
    | none => s)

end Sys2Proof.Machine
end

