-- ==== Sys2Proof/Machine/Home.lean ====
section
/-! DEFINITION. What a home does with its lines: word states, regions, races, owners' copies, recalls, reads and
writes at the home (R67-R73, R76, R77, R85-R88, R92-R96, R463). -/

namespace Sys2Proof.Machine

/-! ## Regions (R69) -/

/-- Lines in a region of a level. -/
def regionLines (level : Nat) : Nat := 2 ^ (9 - level)

def regionHas (r : Region) (line : Nat) : Bool :=
  decide (r.base ≤ line) && decide (line < r.base + regionLines r.level)

def findRegion (s : State) (node asid line : Nat) : Option Region :=
  s.regions.find? (fun r => r.node == node && r.asid == asid && regionHas r line)

/-- The owner of a word in state G (R69). -/
def wordOwner (s : State) (node asid line : Nat) : Option Nat := (findRegion s node asid line).map (·.owner)

def sameRegion (a b : Region) : Bool :=
  a.node == b.node && a.asid == b.asid && a.base == b.base && a.level == b.level

def setRegion (s : State) (r : Region) : State :=
  { s with regions := r :: s.regions.filter (fun x => !sameRegion x r) }

def dropRegion (s : State) (r : Region) : State := { s with regions := s.regions.filter (fun x => !sameRegion x r) }

/-- Whether a word of the lines [base, base + n) is in state G. -/
def anyG (s : State) (asid base n : Nat) : Bool :=
  s.words.any (fun e => lineAsid e.1 == asid && decide (base ≤ lineNo e.1) && decide (lineNo e.1 < base + n)
    && (List.range 32).any (fun w => wordSt s e.1 w == .g))

/-! ## Owners' copies (R68, R75, R78) -/

/-- What stands in a die's proxy table for a foreign word that the die owns and no core of it holds (R68). -/
def noCore : Nat := 127

/-- Whether die `d` owns a foreign word, as its own LLC knows it (R68, R75). -/
def dieOwns (s : State) (d k w : Nat) : Bool := (Tab.find s.proxies (wordKey d k w)).isSome

/-- The core that holds a foreign word which die `d` owns (R68). -/
def proxyCore (s : State) (d k w : Nat) : Option Nat :=
  (Tab.find s.proxies (wordKey d k w)).bind (fun u => if u = noCore then none else some u)

/-- The bytes of word `w` that an agent holds and that are newer than the home's, laid over `base`. A die's LLC holds
words that its cores have written back to it. -/
def ownerWord (s : State) (agent k w : Nat) (base : Line) : Line :=
  let d := agentNode agent
  let m := byteMask (laneBit w)
  if isDieAgent agent then
    let c := getLine s.llc d k
    let b1 := lineOver base c (c.dirty &&& m) true
    match proxyCore s d k w with
    | none => b1
    | some u =>
      let q := getLine s.l2 (l2Of d u) k
      lineOver b1 q (q.dirty &&& m) true
  else
    let q := getLine s.l2 (l2Of d (agentUnit agent)) k
    lineOver base q (q.dirty &&& m) true

/-- Messages that wait between a sender and their serving, in the order in which one flow delivers them, with those that a
source keeps for a moved granule (R49, R57). -/
def pktsUnderway (s : State) : List Pkt :=
  s.net.inbox ++ s.net.wire ++ s.net.flows.flatMap (fun x => x.reorder ++ x.backlog)
    ++ (match s.rehome with
      | some r => r.redirected ++ r.held
      | none => [])

/-- The bytes of word `w` that its owner has written back and that are on their way to the home, over `base` (R78). -/
def flyingWord (s : State) (agent k w : Nat) (base : Line) : Line :=
  (pktsUnderway s).foldl (fun l p => match p.msg with
    | .wb a asid line ws bytes _ =>
      if a == agent && lineKey asid line == k && ws.getLsbD w then
        lineOver l bytes (bytes.valid &&& byteMask (laneBit w)) true
      else l
    | _ => l) base

/-- The latest bytes of a word of an owner over the home's: what it has written back, then what it still holds. -/
def latestWord (s : State) (agent k w : Nat) (base : Line) : Line := ownerWord s agent k w (flyingWord s agent k w base)

/-- After WB DROP of words the agent's copies are no longer dirty, and its die forgets which core held them. -/
def ownerClean (s : State) (agent k : Nat) (m : Mask) : State :=
  let d := agentNode agent
  let bm := byteMask m
  let clean := fun (t : Tab Line) (c : Nat) =>
    let l := getLine t c k
    setLine t c k { l with dirty := l.dirty &&& ~~~bm }
  if isDieAgent agent then
    let us := (maskLanes m).filterMap (fun w => proxyCore s d k w)
    { s with l2 := us.foldl (fun t u => clean t (l2Of d u)) s.l2, llc := clean s.llc d,
             proxies := (maskLanes m).foldl (fun t w => Tab.erase t (wordKey d k w)) s.proxies }
  else { s with l2 := clean s.l2 (l2Of d (agentUnit agent)) }

/-- The whole words of a mask that an agent holds, over a base. -/
def ownerLine (s : State) (agent k : Nat) (m : Mask) (base : Line) : Line :=
  (maskLanes m).foldl (fun l w => ownerWord s agent k w l) base

/-- The latest bytes of the words of a mask over the home's. -/
def latestLine (s : State) (agent k : Nat) (m : Mask) (base : Line) : Line :=
  (maskLanes m).foldl (fun l w => latestWord s agent k w l) base

/-- An agent drops its clean copies of words: L1, L2 and, for a foreign line, its die's LLC. -/
def dropCopies (s : State) (agent k : Nat) (m : Mask) (home : Nat) : State :=
  let d := agentNode agent
  let bm := byteMask m
  let cut := fun (t : Tab Line) (c : Nat) =>
    let l := getLine t c k
    setLine t c k (lineDrop l (bm &&& ~~~l.dirty))
  let units := if isDieAgent agent then (if isHub d then List.range 64 else List.range 48) else [agentUnit agent]
  let s1 := { s with l1 := units.foldl (fun t u => cut t (l1Of d u)) s.l1,
                     l2 := units.foldl (fun t u => cut t (l2Of d u)) s.l2 }
  if d = home then s1 else { s1 with llc := cut s1.llc d }

/-! ## Access at the home -/

/-- Errors with which a home completes an access (R114, R140, R43, R97). -/
def eLeaseLost : AccErr := { cause := cLeaseLost, sub := 0 }
def ePoison : AccErr := { cause := cPoison, sub := 0 }
def eToken : AccErr := { cause := cToken, sub := 0 }
def eReplica : AccErr := { cause := cReplica, sub := 0 }
def eDieLost : AccErr := { cause := cDieLost, sub := 0 }
def eModule : AccErr := { cause := cDieLost, sub := 1 }
def eKeyGone : AccErr := { cause := cDieLost, sub := 2 }
def eRace : AccErr := { cause := cRace, sub := 0 }

/-- The error of an access that reads the Z words of a mask: the access that finds an uncorrectable error takes it,
later ones take poison (R96, R268). -/
def zError (s : State) (k : Nat) (m : Mask) : State × AccErr :=
  let zs := (maskLanes m).filter (fun w => wordSt s k w == .z)
  if zs.all (fun w => (Tab.find s.eccFound (k * 32 + w)).isSome) then
    ({ s with eccFound := zs.foldl (fun t w => Tab.erase t (k * 32 + w)) s.eccFound },
      { cause := cEcc, sub := Tab.get 0 s.eccFound (k * 32 + zs.headD 0) })
  else (s, ePoison)

/-- The region in token mode that meets bytes of a home (R89). -/
def findToken (s : State) (node asid lo n : Nat) : Option Token :=
  s.tokens.find? (fun t => t.node == node && t.asid == asid && decide (t.base < lo + n)
    && decide (lo < t.base + t.size))

/-- Messages anywhere between their sender and their serving. -/
def inFlight (s : State) (f : Msg → Bool) : Bool :=
  (s.net.inbox ++ s.net.wire ++ s.net.flows.flatMap (fun x => x.reorder ++ x.backlog)).any (fun p => f p.msg)

/-- The holder of a region has given its token up: its TOK_REL is on its way, or the hand-over is under way. Every access of
the core to the region then takes a token violation (R90, R91). -/
def tokenLeaving (s : State) (t : Token) : Bool :=
  t.moving.isSome || inFlight s (fun m => match m with
    | .tokRel a asid v _ _ => t.holder == some a && asid == t.asid && v == t.base
    | _ => false)

/-- Whether an agent may access bytes with respect to tokens (R90, R92): a die acts for its cores. -/
def tokenAllows (s : State) (node asid lo n agent : Nat) : Bool :=
  match findToken s node asid lo n with
  | none => true
  | some t => match t.holder with
    | none => false
    | some h => (h == agent || dieAgent h == agent) && !tokenLeaving s t

/-- Words of a line that lie in token regions whose tokens an agent does not hold: only the holder keeps copies, and the
home refuses the access (R92). -/
def tokenBars (s : State) (node k : Nat) (m : Mask) (agent : Nat) : Mask :=
  if s.tokens.isEmpty then 0
  else maskOf (fun i => m.getLsbD i && !tokenAllows s node (lineAsid k) (lineNo k * 128 + 4 * i) 4 agent)

/-- Whether the memory behind a translation can be reached (R43, R97, R140). -/
def physReach (s : State) (p : Phys) : Option AccErr :=
  match paModule p.addr with
  | some m => if moduleReachable s m then none else some eModule
  | none =>
    if paNode p.addr < 32 ∧ nodeLost s (paNode p.addr) then some eDieLost
    else if paEncrypted p.addr ∧ (getKey s p.key).cleared.contains (paNode p.addr) then some eKeyGone
    else none

/-- The line of memory behind a translation of a line's first byte. -/
def memLine (s : State) (p : Phys) : Line :=
  { valid := BitVec.allOnes 128, dirty := 0,
    data := BitVec.ofNat 1024 (natOfBytes (paReadN s p.key p.addr 128)) }

/-- The bytes of a mask written to memory. A write under a slot whose keys are gone is discarded (R140). -/
def memPut (s : State) (p : Phys) (l : Line) (m : BitVec 128) : State :=
  if (physReach s p).isSome then s
  else (List.range 128).foldl (fun t i => if m.getLsbD i then paWrite t p.key (p.addr + i) (lineByte l i) else t) s

/-- The physical address of the copy of a replicated page on a die (R104). -/
def replAt (p : Phys) (d : Nat) : Phys := { p with addr := d * 2 ^ 46 + p.addr % 2 ^ 46 }

/-- The copy of a replicated page that a home itself reads: its own, in no cache (R94, R95). -/
def homeCopy (p : Phys) (home : Nat) : Phys :=
  if p.repl = 0 then p else { (if bitOf p.repl home then replAt p home else p) with uc := true }

/-- The copy that a read of a die finds: its own, or the home's (R94). -/
def readCopy (p : Phys) (home die : Nat) : Phys :=
  if p.repl ≠ 0 ∧ bitOf p.repl die then { replAt p die with uc := true } else homeCopy p home

/-- The line as its home holds it: the LLC's bytes over memory's. -/
def homeData (s : State) (node k : Nat) (p : Phys) : Line :=
  let l := getLine s.llc node k
  lineOver (memLine s p) l l.valid false

/-- Words read at their home (R77): words in state I come from memory and become V, unless the page is uncached or
replicated. The result holds the home's data for the words. -/
def homeRead (s : State) (node k : Nat) (p : Phys) (m : Mask) : State × Line :=
  let l := homeData s node k p
  if p.uc then (s, lineOnly (memLine s p) (byteMask m))
  else
    let is := maskOf (fun w => m.getLsbD w && wordSt s k w == .i)
    let s1 := (maskLanes is).foldl (fun t w => setWordSt t k w .v) s
    let c := getLine s1.llc node k
    let s2 := { s1 with llc := setLine s1.llc node k (lineOver c l (byteMask is) false) }
    (s2, lineOnly { l with dirty := 0 } (byteMask m))

/-- Bytes written at the home (R70, R88, R96, R105): each touched word becomes V with the new value. A Z word is
cleared when all four of its bytes are written and stays Z otherwise. Watches on the bytes fire. -/
def homeWrite (s : State) (node k : Nat) (p : Phys) (bytes : Line) (m : BitVec 128) : State :=
  let asid := lineAsid k
  let base := lineNo k * 128
  let s0 := (maskLanes (wordMask m)).foldl (fun t w => fireWatches t node asid (base + 4 * w) 4 0) s
  if p.uc then memPut s0 p bytes m
  else
    let c := getLine s0.llc node k
    let mem := memLine s0 p
    -- the untouched bytes of a word taken from memory, so that whole words are present
    let fill := byteMask (wordMask m) &&& ~~~c.valid
    let c1 := lineOver c mem fill false
    let c2 := lineOver c1 bytes m true
    let s1 := { s0 with llc := setLine s0.llc node k c2 }
    (maskLanes (wordMask m)).foldl (fun t w =>
      match wordSt t k w with
      | .z => if m.extractLsb' (4 * w) 4 = 15#4 then setWordSt t k w .v else t
      | _ => setWordSt t k w .v) s1

/-- The owner of a G word writes it back with WB DROP, and the word becomes V; the region stays (R88). -/
def recallWord (s : State) (node k w : Nat) (p : Phys) : State :=
  if wordSt s k w = .g then
    match wordOwner s node (lineAsid k) (lineNo k) with
    | none => setWordSt s k w .v
    | some a =>
      let bm := byteMask (laneBit w)
      let base := lineOnly (homeData s node k p) bm
      let l := latestWord s a k w base
      let s1 := ownerClean s a k (laneBit w)
      let c := getLine s1.llc node k
      setWordSt { s1 with llc := setLine s1.llc node k (lineOver c l bm true) } k w .v
  else s

def recallWords (s : State) (node k : Nat) (p : Phys) (m : Mask) : State :=
  (maskLanes m).foldl (fun t w => recallWord t node k w p) s

/-! ## Writes on behalf of a context (R463) -/

/-- The cause, SUB and translation fault kind with which a write or read on behalf of a context fails (R254). -/
structure UnitErr where
  cause : Nat
  sub : Nat := 0
  xkind : Nat := 0
  addr : Nat := 0
  deriving DecidableEq, Repr

/-- Access of one line on behalf of a context: its home and translation, or the failure. -/
def unitAccess (s : State) (asid v : Nat) (acc : Acc) : State × Except UnitErr (Nat × Phys) :=
  match homeOf s asid v with
  | none => (s, .error { cause := cLeaseViolation, xkind := 7, addr := v })
  | some h =>
    if nodeLost s h then (s, .error { cause := cDieLost, addr := v })
    else
      let r := xlate s h asid (v / 128 * 128) acc false
      match r.2 with
      | .error k => (r.1, .error { cause := cLeaseViolation, sub := if acc = .write then 1 else 0, xkind := k, addr := v })
      | .ok p =>
        if (findToken r.1 h asid v 1).isSome ∧ acc = .write then (r.1, .error { cause := cToken, addr := v })
        else if p.repl ≠ 0 ∧ acc = .write then (r.1, .error { cause := cReplica, addr := v })
        else match physReach r.1 p with
          | some e => (r.1, .error { cause := e.cause, sub := e.sub, addr := v })
          | none => (r.1, .ok (h, p))

/-- The ASID and 54-bit address of an address of a context. -/
def ctxAddr (asid : Nat) (va : DWord) : Nat × Nat := (asidOf asid va, va54 va)

/-- One line's part of a write by R463. -/
def unitWriteLine (s : State) (asid v : Nat) (l : List Byte) : State × Option UnitErr :=
  let r := unitAccess s asid v .write
  match r.2 with
  | .error e => (r.1, some e)
  | .ok (h, p) =>
    let k := lineKey asid (v / 128)
    let bytes := lineOfBytes (v % 128) l
    let s1 := recallWords r.1 h k p (wordMask bytes.valid)
    (homeWrite s1 h k p bytes bytes.valid, none)

/-- Bytes cut at line boundaries: address and bytes of each part. Fuel bounds the number of parts. -/
def cutLines : Nat → Nat → List Byte → List (Nat × List Byte)
  | 0, _, _ => []
  | _ + 1, _, [] => []
  | fuel + 1, v, l =>
    let n := 128 - v % 128
    (v, l.take n) :: cutLines fuel (v + n) (l.drop n)

def cutAll (v : Nat) (l : List Byte) : List (Nat × List Byte) := cutLines (l.length / 128 + 2) v l

def unitWriteParts (s : State) (asid : Nat) : List (Nat × List Byte) → State × Option UnitErr
  | [] => (s, none)
  | (v, l) :: t =>
    let r := unitWriteLine s asid v l
    match r.2 with
    | some e => (r.1, some e)
    | none => unitWriteParts r.1 asid t

/-- A write by a home, task unit or fault processor on behalf of a context (R463): nothing is written when any part
fails. -/
def unitWrite (s : State) (asid0 : Nat) (va : DWord) (l : List Byte) : State × Option UnitErr :=
  let a := ctxAddr asid0 va
  let parts := cutAll a.2 l
  match firstSome (fun x => match (unitAccess s a.1 x.1 .write).2 with
      | .error e => some e
      | .ok _ => none) parts with
  | some e => (s, some e)
  | none => unitWriteParts s a.1 parts

/-- A read on behalf of a context at the home, as R463 makes its writes: G words are recalled first. A Z word fails. -/
def unitReadLine (s : State) (asid v n : Nat) : State × Except UnitErr (List Byte) :=
  let r := unitAccess s asid v .read
  match r.2 with
  | .error e => (r.1, .error e)
  | .ok (h, p) =>
    let k := lineKey asid (v / 128)
    let m := wordMask (lineOfBytes (v % 128) (List.replicate n 0)).valid
    if (maskLanes m).any (fun w => wordSt r.1 k w == .z) then
      (let e := zError r.1 k m
       (e.1, .error { cause := e.2.cause, sub := e.2.sub, addr := v }))
    else
      let s1 := recallWords r.1 h k p m
      let x := homeRead s1 h k (homeCopy p h) m
      (x.1, .ok ((List.range n).map (fun i => lineByte x.2 (v % 128 + i))))

def unitReadParts (s : State) (asid : Nat) : List (Nat × List Byte) → State × Except UnitErr (List Byte)
  | [] => (s, .ok [])
  | (v, l) :: t =>
    let r := unitReadLine s asid v l.length
    match r.2 with
    | .error e => (r.1, .error e)
    | .ok b =>
      let r2 := unitReadParts r.1 asid t
      match r2.2 with
      | .error e => (r2.1, .error e)
      | .ok c => (r2.1, .ok (b ++ c))

def unitRead (s : State) (asid0 : Nat) (va : DWord) (n : Nat) : State × Except UnitErr (List Byte) :=
  let a := ctxAddr asid0 va
  unitReadParts s a.1 (cutAll a.2 (List.replicate n 0))

/-! ## Races (R85, R86) -/

/-- A race report of the home, delivered to the accessor's context (R85, R86). `kind`: 0 load, 1 store registration, 2 copy
write. -/
def raceReport (s : State) (home asid v kind accessor owner : Nat) : State :=
  let c := getCtx s asid
  let size := bitsOf c.raceCtl.toNat 0 5
  if !c.raceCtl.getLsbD 31 ∨ size < 6 ∨ 20 < size then s
  else
    let at_ := bitsOf c.raceBase.toNat 12 42 * 4096 + 32 * (c.raceHead.toNat % 2 ^ size)
    let rec_ := bytesOf 8 (vaFull v) ++ bytesOfNat 4 (kind * 2 ^ 29 + accessor) ++ bytesOfNat 4 owner
      ++ bytesOfNat 8 (nodeTime s home) ++ bytesOfNat 8 asid
    let r := unitWrite s asid (vaFull at_) rec_
    match r.2 with
    | some _ => r.1
    | none => modCtx r.1 asid (fun c => { c with raceHead := c.raceHead + 1 })

/-- CTX_RACE_CTL.TRAP (R87). -/
def raceTraps (s : State) (asid : Nat) : Bool := (getCtx s asid).raceCtl.getLsbD 30

/-! ## Registration at the home (R70, R76) -/

def setWordsG (s : State) (k : Nat) (m : Mask) : State :=
  (maskLanes m).foldl (fun t w => setWordSt t k w .g) s

/-- Splits a region of owner A until no part holds both a G word of A and a line that B asks for (R70). Fuel counts
the levels left. The list holds what stays of A; the result's second part is the region that is to be B's, none when
the single line holds both. -/
def splitRegion (s : State) (now line : Nat) : Nat → Region → List Region × Option Region
  | 0, r => ([r], none)
  | fuel + 1, r =>
    if r.level = 9 then
      (if anyG s r.asid r.base 1 then ([r], none) else ([], some r))
    else
      let n := regionLines (r.level + 1)
      let lo := { r with level := r.level + 1, quiet := some now }
      let hi := { r with base := r.base + n, level := r.level + 1, quiet := some now }
      let mine := if line < hi.base then lo else hi
      let other := if line < hi.base then hi else lo
      let rest := if anyG s r.asid other.base n then [other] else []
      if anyG s r.asid mine.base n then
        let x := splitRegion s now line fuel mine
        (rest ++ x.1, x.2)
      else (rest, some mine)

/-- What the home answers for each word of a registration (R74, R76). -/
structure RegAns where
  reg : Mask := 0
  thru : Mask := 0
  /-- owner that lost a word to a race -/
  race : Option Nat := none
  /-- words that wait for RELINQ -/
  wait : Bool := false
  /-- the region table has no room for the entries that the request needs (R73) -/
  full : Bool := false
  deriving DecidableEq, Repr

/-- Whether the aligned block of a level around a line meets an entry of the node. -/
def blockTaken (s : State) (node asid line level : Nat) : Bool :=
  let lo := line / regionLines level * regionLines level
  s.regions.any (fun r => r.node == node && r.asid == asid && decide (r.base < lo + regionLines level)
    && decide (lo < r.base + regionLines r.level))

/-- The region of a new owner (R65, R69): the largest aligned block of at most 64 KiB around the line that meets no other
entry, since a region has one owner (R76). -/
def newRegion (s : State) (node asid line owner : Nat) : Region :=
  let level := ((List.range 10).find? (fun l => !blockTaken s node asid line l)).getD 9
  { node := node, asid := asid, base := line / regionLines level * regionLines level, level := level, owner := owner,
    st := .owned, quiet := none, lru := 0 }

/-- The least recently used OWNED region of a node (R73): the list is kept most recently used first. -/
def lruOwned (s : State) (node : Nat) : Option Region :=
  s.regions.reverse.find? (fun r => r.node == node && r.st == .owned)

def regionCount (s : State) (node : Nat) : Nat := (s.regions.filter (fun r => r.node == node)).length

/-- Entries of a home's region table (R69). -/
def regionTable : Nat := 65536

/-- The G words of a line (R76). -/
def lineG (s : State) (k : Nat) : Mask := maskOf (fun w => wordSt s k w == .g)

/-- Registers the words `m` of a line to agent B at its home (R70, R76, R85). `acc` is the accessor that a race report
names (R86), with its context: the core that wrote, when B is its die. In a race B takes the registration and the line's
region becomes B's: A's bytes that B does not write, and A's other G words of the line, come back to the home first (R85,
R240). `bytes` is the write-through data. -/
def registerWords (s : State) (node k agent : Nat) (acc : Nat × Nat) (p : Phys) (m : Mask) (bytes : Line) (plain : Bool) :
    State × RegAns :=
  let asid := lineAsid k
  let line := lineNo k
  let now := nodeTime s node
  match findRegion s node asid line with
  | none =>
    if regionTable ≤ regionCount s node then (s, { full := true })
    else (setWordsG (setRegion s (newRegion s node asid line agent)) k m, { reg := m })
  | some r =>
    if r.st = .draining then (s, { wait := true })
    else if r.owner = agent then (setWordsG (setRegion s r) k m, { reg := m })
    else
      let gm := m &&& lineG s k
      let bm := bytes.valid &&& byteMask m
      let race := if gm ≠ 0 ∧ plain then some r.owner else none
      let told := fun (t : State) =>
        let t1 := (maskLanes gm).foldl (fun u w => fireWatches u node asid (line * 128 + 4 * w) 4 1) t
        if race.isSome then raceReport t1 node acc.2 (line * 128 + 4 * ((lowestLane gm).getD 0)) 1 acc.1 r.owner else t1
      if r.st = .wt then
        (setRegion (homeWrite (told (recallWords s node k p gm)) node k p bytes bm) { r with quiet := some now },
          { thru := m, race := race })
      else
        let s0 := if gm = 0 then s else recallWords s node k p (lineG s k)
        let x := splitRegion s0 now line 10 r
        if regionTable < regionCount s node - 1 + x.1.length + x.2.toList.length then (s, { full := true })
        else
          let s1 := dropRegion (told s0) r
          match x.2 with
          | some mine =>
            (setWordsG { s1 with regions := { mine with owner := agent, quiet := some now } :: x.1 ++ s1.regions } k m,
              { reg := m, race := race })
          | none =>
            let keep := x.1.map (fun y =>
              if y.level == 9 && y.base == line then { y with st := .wt, quiet := some now } else y)
            (homeWrite { s1 with regions := keep ++ s1.regions } node k p bytes bm, { thru := m, race := race })

/-- The home gives up a region: its remaining G words become V (R81). -/
def relinquish (s : State) (r : Region) : State :=
  let ks := s.words.filter (fun e => lineAsid e.1 == r.asid && regionHas r (lineNo e.1))
  dropRegion (ks.foldl (fun t e =>
    (List.range 32).foldl (fun t w => if wordSt t e.1 w = .g then setWordSt t e.1 w .v else t) t) s) r

end Sys2Proof.Machine
end

