-- ==== Sys2Proof/Machine/Net.lean ====
section
/-! DEFINITION. Messages, classes and flows (R46-R53, R56-R58). -/

namespace Sys2Proof.Machine

/-- The classes whose flows deliver in order (R47). -/
def clsOrdered : Cls → Bool
  | .reg | .syn | .ctl => true
  | _ => false

def clsCode : Cls → Nat
  | .req => 0 | .rsp => 1 | .reg => 2 | .syn => 3 | .bulk => 4 | .ctl => 5

/-- Flow id of a message about a 54-bit address (R48). -/
def flowId (cls : Cls) (v : Nat) : Nat :=
  match cls with
  | .ctl => 0
  | _ => (bitsOf v 16 4) ^^^ (bitsOf v 20 4)

def getFlow (n : Net) (key : Nat × Nat × Nat) : Flow := (n.flows.find? (fun f => f.key == key)).getD { key := key }

def putFlow (n : Net) (f : Flow) : Net := { n with flows := f :: n.flows.filter (fun g => g.key != f.key) }

/-! ## Routes (R9-R11, R40, R52) -/

/-- The attached die at which a hub enters and leaves the mesh for a column: the nearest whose hub module is not disabled. -/
def hubEntry (s : State) (hub col : Nat) : Nat :=
  let row := if hub = 48 then 0 else 3
  let open_ := [2, 3, 4, 5].filter (fun c => !(Tab.get {} (getNode s (dieAt row c)).links 16).dis)
  dieAt row ((minBy (fun c => (max c col) - (min c col)) open_).getD (max 2 (min 5 col)))

/-- The dies from one to another, both included: along the column first, then along the row. -/
def meshPath (a b : Nat) : List Nat :=
  let step := fun (x y : Nat) => if x ≤ y then (List.range (y - x + 1)).map (fun i => x + i) else (List.range (x - y + 1)).map (fun i => x - i)
  (step (dieRow a) (dieRow b)).map (fun r => dieAt r (dieCol a)) ++ ((step (dieCol a) (dieCol b)).drop 1).map (fun c => dieAt (dieRow b) c)

/-- The C-die at which a node joins the mesh, for traffic that goes to, or comes from, another: a hub's attached die, a W-die's
token die. -/
def meshDie (s : State) (n other : Nat) : Nat :=
  if isHub n then hubEntry s n (if isCdie other then dieCol other else if isWdie other then dieCol (24 + (other - 32) / 2) else 2)
  else if isWdie n then 24 + (n - 32) / 2 else n

/-- The nodes that an ordered message passes: column direction first, then the row direction (R52). -/
def routeOf (s : State) (src dst : Nat) : List Nat :=
  if src = dst then [src]
  else (if isCdie src then [] else [src]) ++ meshPath (meshDie s src dst) (meshDie s dst src) ++ (if isCdie dst then [] else [dst])

/-- A message leaves its sender. In an ordered class it takes the next SEQ of its flow and waits on the wire; while 64
messages of the flow are unacknowledged it waits at the sender (R49). A message within one node needs no link. -/
def sendPkt (s : State) (p : Pkt) (v : Nat) : State :=
  let p := { p with since := nodeTime s p.src }
  if !clsOrdered p.cls then { s with net := { s.net with inbox := s.net.inbox ++ [p] } }
  else
    let key := (p.src * 64 + p.dst, clsCode p.cls, flowId p.cls v)
    if p.src = p.dst then
      { s with net := { s.net with inbox := s.net.inbox ++ [{ p with fl := some key }] } }
    else
      let g := getFlow s.net key
      -- a flow keeps its path until that fails
      let f := if g.path.isEmpty then { g with path := routeOf s p.src p.dst } else g
      let q := { p with fl := some key, seq := f.next }
      let f1 := { f with next := (f.next + 1) % 65536 }
      if 64 ≤ f.unacked.length then { s with net := putFlow s.net { f1 with backlog := f1.backlog ++ [q] } }
      else
        let n := putFlow s.net { f1 with unacked := f1.unacked ++ [q] }
        { s with net := { n with wire := n.wire ++ [q] } }

def send (s : State) (src dst : Nat) (cls : Cls) (v : Nat) (m : Msg) : State :=
  sendPkt s { src := src, dst := dst, cls := cls, msg := m } v

/-- The granule of an address moves in a rewrite (R56): its home differs between the two maps. -/
def granuleMoves (s : State) (r : Rehome) (asid v : Nat) : Bool :=
  r.asid == asid &&
    (let t := (getCtx s asid).home
     homeInMap (roleHub s) (Tab.set 0 t r.index r.new) v != homeInMap (roleHub s) (Tab.set 0 t r.index r.old) v)

/-- A message that was under way when its granule moved reaches a die that no longer homes it. -/
def homedElsewhere (s : State) (node asid v : Nat) : Bool := match homeOf s asid v with
  | some h => h != node
  | none => false

/-- Whether a die has stopped homing the granule of an address (R56, R57). -/
def stoppedHoming (s : State) (node asid v : Nat) : Bool :=
  match s.rehome with
  | none => homedElsewhere s node asid v
  | some r =>
    if granuleMoves s r asid v then
      r.stopped.contains node && homeInMap (roleHub s) (Tab.set 0 (getCtx s asid).home r.index r.old) v == some node
    else homedElsewhere s node asid v

/-- Requests that a die may hold in its egress during a rewrite (R56). -/
def egressRoom : Nat := 256

/-- A wave of a node that would issue `n` requests about lines of a moving granule stalls: the node's egress has no room for
them (R56). -/
def egressStalls (s : State) (node n asid v : Nat) : Bool :=
  match s.rehome with
  | none => false
  | some r => r.marked.contains node && !r.committed.contains node && granuleMoves s r asid v
      && decide (egressRoom < (r.held.filter (fun p => p.src == node)).length + n)

/-- A request of an agent on node `src` to the home of an address, kept in the egress while the granule moves and the
node has marked it (R56). -/
def sendHome (s : State) (src dst : Nat) (cls : Cls) (asid v : Nat) (m : Msg) : State :=
  match s.rehome with
  | some r =>
    if r.marked.contains src ∧ !r.committed.contains src ∧ granuleMoves s r asid v then
      { s with rehome := some { r with held := r.held ++ [{ src := src, dst := dst, cls := cls, msg := m }] } }
    else send s src dst cls v m
  | none => send s src dst cls v m

/-- A request that expects an answer: its response timer starts (R53). -/
def sendReq (s : State) (src dst : Nat) (cls : Cls) (asid v id : Nat) (m : Msg) : State :=
  let s1 := sendHome s src dst cls asid v m
  let o : Outst := { pkt := { src := src, dst := dst, cls := cls, msg := m }, id := id, since := nodeTime s src }
  { s1 with net := { s1.net with outst := s1.net.outst ++ [o] } }

/-- The line that a request of the coherence protocol names, for matching answers. -/
def msgLine : Msg → Nat
  | .rd _ a l _ _ _ _ => lineKey a l
  | .rel _ a l _ _ => lineKey a l
  | .regReq _ a l _ _ _ _ => lineKey a l
  | .acq _ a l _ _ _ _ _ => lineKey a l
  | .tokAcq _ a v => lineKey a (v / 128)
  | _ => 0

/-- An answer ends the response timer of its request (R53). -/
def answered (s : State) (id k : Nat) : State :=
  { s with net := { s.net with outst := s.net.outst.filter (fun o => !(o.id == id && msgLine o.pkt.msg == k)) } }

def answeredId (s : State) (id : Nat) : State :=
  { s with net := { s.net with outst := s.net.outst.filter (fun o => o.id != id) } }

/-- A delivered message may be served when its node runs and no earlier message of its flow waits before it. -/
def servable (s : State) (n : Nat) : Option Pkt :=
  match s.net.inbox[n]? with
  | none => none
  | some p =>
    let before := s.net.inbox.take n
    if (getNode s p.dst).halt then none
    else if p.fl.isSome ∧ before.any (fun q => q.fl == p.fl && !q.taken) then none
    else some p

/-- The message is served and leaves the inbox. -/
def takeMsg (s : State) (n : Nat) : State := { s with net := { s.net with inbox := listErase s.net.inbox n } }

/-- The message waits at its receiver without holding up its flow; HELD goes back (R53). -/
def holdMsg (s : State) (n : Nat) : State :=
  { s with net := { s.net with inbox := listModify s.net.inbox n (fun p => { p with taken := true }) } }

/-- Messages that wait at a node are tried again. -/
def retryHeld (s : State) (node : Nat) : State :=
  { s with net := { s.net with inbox := s.net.inbox.map (fun p =>
      if p.dst == node then { p with taken := false } else p) } }

/-- A message is that of an outstanding request. -/
def isRequest (o : Outst) (p : Pkt) : Bool := p.src == o.pkt.src && p.msg == o.pkt.msg

/-- Acknowledgement of a flow up to the SEQ that its receiver expects: messages kept back follow (R49). -/
def ackFlow (s : State) (key : Nat × Nat × Nat) : State :=
  let f := getFlow s.net key
  -- messages not yet delivered: on the wire or in the reorder buffer
  let undelivered := fun (p : Pkt) =>
    s.net.wire.any (fun q => q.fl == some key && q.seq == p.seq) ||
    f.reorder.any (fun q => q.seq == p.seq)
  let left := f.unacked.filter undelivered
  let room := 64 - left.length
  let go := f.backlog.take room
  let f1 := { f with unacked := left ++ go, backlog := f.backlog.drop room }
  { s with net := { putFlow s.net f1 with
      wire := s.net.wire ++ go
      outst := s.net.outst.map (fun o => if go.any (isRequest o) then { o with since := nodeTime s o.pkt.src } else o) } }

/-- A request that its source still keeps: behind a moving granule (R56), or behind 64 unacknowledged messages (R49). It
has not been sent, and its timer does not run (R53). -/
def unsent (s : State) (o : Outst) : Bool :=
  (match s.rehome with
   | some r => r.held.any (isRequest o)
   | none => false) || s.net.flows.any (fun f => f.backlog.any (isRequest o))

/-- The messages of a reorder buffer that now follow in SEQ order (R49). Fuel bounds their number. -/
def drainReorder : Nat → Nat → List Pkt → List Pkt × Nat × List Pkt
  | 0, e, b => ([], e, b)
  | fuel + 1, e, b =>
    match b.find? (fun p => p.seq == e) with
    | none => ([], e, b)
    | some p =>
      let r := drainReorder fuel ((e + 1) % 65536) (b.filter (fun q => q.seq != e))
      (p :: r.1, r.2.1, r.2.2)

/-! ## Back-pressure of a halted die (R61) -/

/-- Flits of one class that a die's ingress buffers hold; a message counts as one (assumption log 88). -/
def ingressFlits : Nat := 256

/-- A halted die takes no more messages of a class. -/
def ingressFull (s : State) (d : Nat) (c : Cls) : Bool :=
  (getNode s d).halt && decide (ingressFlits ≤ (s.net.inbox.filter (fun p => p.dst == d && p.cls == c)).length)

/-- The hops of a message's path. -/
def pktHops (s : State) (p : Pkt) : List (Nat × Nat) :=
  match p.fl with
  | none => []
  | some k => (getFlow s.net k).path.zip ((getFlow s.net k).path.drop 1)

/-- A message waits: its destination takes none of its class, or it shares a hop with messages for such a die that fill the
buffers of that hop (R61). -/
def stalls (s : State) (p : Pkt) : Bool :=
  ingressFull s p.dst p.cls || s.net.wire.any (fun q => q.cls == p.cls && ingressFull s q.dst q.cls
    && decide (ingressFlits ≤ (s.net.wire.filter (fun r => r.dst == q.dst && r.cls == q.cls)).length)
    && (pktHops s p).any (fun h => (pktHops s q).contains h))

/-- A hub's traffic stalls: writes of its PCIe port wait (R61). -/
def hubStalls (s : State) (hub : Nat) : Bool := s.net.wire.any (fun p => p.src == hub && stalls s p)

/-- Delivery of an ordered message (R49): in order, held for reorder, or discarded as a duplicate. One that stalls stays on its
way (R61). -/
def deliver (s : State) (n : Nat) (ack : Bool) : State :=
  match s.net.wire[n]? with
  | none => s
  | some p =>
    if stalls s p then s
    else
    let s1 := { s with net := { s.net with wire := listErase s.net.wire n } }
    match p.fl with
    | none => { s1 with net := { s1.net with inbox := s1.net.inbox ++ [p] } }
    | some key =>
      let f := getFlow s1.net key
      let ahead := (p.seq + 65536 - f.expect) % 65536
      let s2 :=
        if ahead = 0 then
          let r := drainReorder (f.reorder.length + 1) ((f.expect + 1) % 65536) f.reorder
          let net := putFlow s1.net { f with expect := r.2.1, reorder := r.2.2 }
          { s1 with net := { net with inbox := net.inbox ++ p :: r.1 } }
        else if ahead < 32768 then
          (if f.reorder.any (fun q => q.seq == p.seq) then s1
           else { s1 with net := putFlow s1.net { f with reorder := f.reorder ++ [p] } })
        else s1
      if ack then ackFlow s2 key else s2

/-- The home of a line does not answer now: it is halted (R61), or hands the line's granule off (R56). -/
def homeHolds (s : State) (node h k : Nat) : Bool :=
  (getNode s h).halt || stoppedHoming s h (lineAsid k) (lineNo k * 128) ||
    (match s.rehome with
     | some r => r.marked.contains node && !r.committed.contains node
         && granuleMoves s r (lineAsid k) (lineNo k * 128)
     | none => false)

/-- The registration of a wave that a request number names. -/
def pendOf (s : State) (w id : Nat) : PendReg :=
  ((getWave s w).pend.find? (fun x => x.id == id)).getD { id := id, die := false }

/-- The deferred traps of a wave: up to 8 are kept, further ones counted (R201). -/
def addDeferred (s : State) (w : Nat) (d : DefTrap) : State :=
  if !waveExists s w then s
  else modWave s w (fun x =>
    if x.deferred.length < 8 then { x with deferred := x.deferred ++ [d] }
    else { x with defLost := min (x.defLost + 1) 255 })

/-- The lane and address of the lowest byte of a mask in a line: what a deferred trap records (R253). -/
def maskAddr (k : Nat) (m : BitVec 128) : DWord :=
  vaFull (lineNo k * 128 + ((List.range 128).find? (fun i => m.getLsbD i)).getD 0)

end Sys2Proof.Machine
end

