-- ==== Sys2Proof/Machine/Release.lean ====
section
/-! DEFINITION. Release records, carried releasers, drains and self-invalidation (R79-R83, R234). -/

namespace Sys2Proof.Machine

/-! ## Registration as the caches see it (R68, R83) -/

/-- The agents under which a core's words may be registered at a home. -/
def ownsAs (agent owner : Nat) : Bool := owner == agent || owner == dieAgent agent

/-- Whether word `w` of a line is registered to a core: at its home, or at the core's die for a foreign word; a dirty
word counts as registered to its holder (R83). -/
def coreRegistered (s : State) (node unit k w : Nat) (home : Nat) : Bool :=
  if home = node then
    wordSt s k w == .g && wordOwner s home (lineAsid k) (lineNo k) == some (agentId s node unit)
  else proxyCore s node k w == some unit

/-- Whether a word is registered to a core of a quad. -/
def quadRegistered (s : State) (node quad k w : Nat) (home : Nat) : Bool :=
  if home = node then
    wordSt s k w == .g &&
      (match wordOwner s home (lineAsid k) (lineNo k) with
       | some a => a / 128 == agentId s node 0 / 128 && l2Of node (agentUnit a) == l2Of node (quad * 4)
       | none => false)
  else match proxyCore s node k w with
    | some u => l2Of node u == l2Of node (quad * 4)
    | none => false

/-- Whether the physical memory of a line is host memory or on another module (R83, scope `sys`). -/
def lineOutside (s : State) (home k : Nat) : Bool :=
  match xlatePeek s home (lineAsid k) (lineNo k * 128) .read true with
  | .ok p => paNode p.addr == 63 || (paModule p.addr).isSome
  | .error _ => false

/-- The bytes of a line's words in the ranges that a test picks. -/
def pickBytes (r : Option (List Range)) (k : Nat) (f : Nat → Bool) : BitVec 128 :=
  byteMask (maskOf (fun w => rangesWord r (lineNo k) w && f w))

/-- Whether the lines of `k` belong to a context's view: its own or the shared space. -/
def inView (asid k : Nat) : Bool := lineAsid k == asid || lineAsid k == 0

/-- Self-invalidation of an acquire by a core (R83). Dirty bytes are never dropped: an L1 holds none, since it writes
through (R75). -/
def selfInvalidate (s : State) (node unit asid : Nat) (sc : Scope) (r : Option (List Range)) : State :=
  let homeOfLine := fun k => (homeOf s (lineAsid k) (lineNo k * 128)).getD 99
  let cl1 := l1Of node unit
  let cl2 := l2Of node unit
  let l1 := s.l1.filterMap (fun e =>
    let k := e.1 % 2 ^ 61
    if e.1 / 2 ^ 61 == cl1 && inView asid k then
      let h := homeOfLine k
      let m := pickBytes r k (fun w => !coreRegistered s node unit k w h)
      let l := lineDrop e.2 m
      if l == {} then none else some (e.1, l)
    else some e)
  let l2 := if scopeRank sc < 2 then s.l2 else s.l2.filterMap (fun e =>
    let k := e.1 % 2 ^ 61
    if e.1 / 2 ^ 61 == cl2 && inView asid k then
      let h := homeOfLine k
      let m := pickBytes r k (fun w => !quadRegistered s node (unit / 4) k w h
        && e.2.dirty &&& byteMask (laneBit w) == 0)
      let l := lineDrop e.2 m
      if l == {} then none else some (e.1, l)
    else some e)
  let llc := if scopeRank sc < 3 then s.llc else s.llc.filterMap (fun e =>
    let k := e.1 % 2 ^ 61
    if e.1 / 2 ^ 61 == node && inView asid k then
      let h := homeOfLine k
      let foreign := h != node
      let out := sc == .sys && lineOutside s h k
      if foreign || out then
        let m := pickBytes r k (fun w => e.2.dirty &&& byteMask (laneBit w) == 0
          && !dieOwns s node k w)
        let l := lineDrop e.2 m
        if l == {} then none else some (e.1, l)
      else some e
    else some e)
  { s with l1 := l1, l2 := l2, llc := llc }

/-! ## Release records (R80) -/

def getRel (s : State) (node k w : Nat) : RelRec := Tab.get {} s.rels (wordKey node k w)

/-- Every release record changed: those of sync words, and those of ring slots (R80, R161). -/
def mapRels (f : RelRec → RelRec) (s : State) : State :=
  let g := fun (t : Tab RelRec) => t.filterMap (fun e => if f e.2 == {} then none else some (e.1, f e.2))
  { s with rels := g s.rels,
           queues := Tab.mapVals (fun _ x => { x with q := x.q.map (fun q => { q with rels := g q.rels }) }) s.queues }

/-- ARMED arrives (R81): at the acquiring core's count, or at the point of record's pending list (R80). -/
def armedAt (s : State) (acquirer tag from_ : Nat) : State :=
  let ck := acquirer % 8192
  let s1 := modCore s ck (fun c => { c with arms := (c.arms.map (fun a =>
    if a.tag == tag then { a with got := a.got + 1 } else a)).filter (fun a =>
      !(a.known && decide (a.need ≤ a.got))) })
  mapRels (fun r => { r with pending := r.pending.filter (fun x => !(x.2 == tag && x.1.agent == from_)) }) s1

/-- A DRAIN to a releaser (R81). One to an agent of a lost die counts as armed (R97). -/
def sendDrain (s : State) (src : Nat) (e : RelEnt) (asid : Nat) (r : Option (List Range)) (acquirer tag v : Nat) :
    State :=
  if nodeLost s (agentNode e.agent) then armedAt s acquirer tag e.agent
  else send s src (agentNode e.agent) .syn v (.drain e.agent e.die asid r acquirer tag)

/-- A record with releasers entered (R80): a known agent's entry becomes the newest; beyond four entries the oldest are
removed and kept pending under a drain tag. The second part lists those removed. -/
def relInsert (r : RelRec) (ents : List RelEnt) (tag : Nat) : RelRec × List RelEnt :=
  let all := ents.foldl (fun l e => l.filter (fun x => x.agent != e.agent) ++ [e]) r.ents
  let out := all.take (all.length - 4)
  ({ ents := all.drop (all.length - 4), pending := r.pending ++ out.map (fun e => (e, tag)) }, out)

/-- Removed releasers are drained over rset0; the die of the point of record stands for it. -/
def drainOut (s : State) (node asid v tag : Nat) (out : List RelEnt) : State :=
  out.foldl (fun t e => sendDrain t node e asid none (agentId s node 127) tag v) s

/-- Enters releasers at the point of record of a word (R80). -/
def recordRel (s : State) (node k w : Nat) (ents : List RelEnt) : State :=
  let r := relInsert (getRel s node k w) ents s.nextReq
  drainOut { s with nextReq := s.nextReq + 1, rels := Tab.set {} s.rels (wordKey node k w) r.1 }
    node (lineAsid k) (lineNo k * 128) s.nextReq r.2

/-- Whether an entry is selected by an acquire (R81): the releaser lies in the acquirer's scope and the release's
scope covers the acquirer. -/
def relSelected (sc : Scope) (acquirer : Nat) (e : RelEnt) : Bool :=
  inScope sc acquirer e.agent && inScope e.scope e.agent acquirer

/-- A releaser completed a drain over rset0: its entries go, at every point of record (R80). -/
def clearReleaser (s : State) (agent : Nat) : State :=
  mapRels (fun r => { r with ents := r.ents.filter (fun x => x.agent != agent) }) s

/-! ## Drains at the releaser (R81) -/

/-- The regions that a releaser owns in the ranges: its own, and with the die flag those of its die and its cores. -/
def ownedRegions (s : State) (agent : Nat) (die : Bool) (asid : Nat) (r : Option (List Range)) : List Region :=
  s.regions.filter (fun x =>
    (x.owner == agent || (die && x.owner / 128 == agent / 128)) && (x.asid == asid || x.asid == 0)
    && rangesHit r (x.base * 128) ((x.base + regionLines x.level) * 128)
    && x.st != .wt)

/-- Lines in write-through mode in which the releaser still owns words (R70). -/
def ownedWt (s : State) (agent : Nat) (die : Bool) (asid : Nat) (r : Option (List Range)) : List Region :=
  s.regions.filter (fun x =>
    (x.owner == agent || (die && x.owner / 128 == agent / 128)) && (x.asid == asid || x.asid == 0)
    && rangesHit r (x.base * 128) (x.base * 128 + 128) && x.st == .wt && anyG s x.asid x.base 1)

/-- A core's foreign words go back to its die's LLC, and their records are cleared: the die still owns them (R68). -/
def flushProxies (s : State) (node unit asid : Nat) (r : Option (List Range)) : State :=
  let mine := s.proxies.filter (fun e =>
    let k := e.1 / 32 % 2 ^ 61
    e.1 / 32 / 2 ^ 61 == node && e.2 == unit && inView asid k && rangesWord r (lineNo k) (e.1 % 32))
  mine.foldl (fun t e =>
    let k := e.1 / 32 % 2 ^ 61
    let m := byteMask (laneBit (e.1 % 32))
    let q := getLine t.l2 (l2Of node unit) k
    let c := getLine t.llc node k
    { t with llc := setLine t.llc node k (lineOver c q (q.dirty &&& m) true),
             l2 := setLine t.l2 (l2Of node unit) k { q with dirty := q.dirty &&& ~~~m },
             proxies := Tab.put t.proxies e.1 noCore }) s

/-- WB DROP of the dirty words of a region that an agent owns, then RELINQ of the region: it owns none of them any more
(R68, R81). -/
def writeBackRegion (s : State) (agent : Nat) (x : Region) : State :=
  let h := x.node
  let ks := s.words.filter (fun e => lineAsid e.1 == x.asid && regionHas x (lineNo e.1))
  let s1 := ks.foldl (fun t e =>
    let g := maskOf (fun w => wordSt t e.1 w == .g)
    let l := ownerLine t x.owner e.1 g {}
    let m := wordMask l.dirty
    ownerClean (if m = 0 then t
      else send t (agentNode agent) h .reg (lineNo e.1 * 128) (.wb x.owner x.asid (lineNo e.1) m l false)) x.owner e.1 g) s
  send s1 (agentNode agent) h .reg (x.base * 128) (.relinq x.owner x.asid x.base x.level none)

/-- A region meets a block: a region that was marked may have been split or merged since (R70, R72). -/
def blocksMeet (x : Region) (base level : Nat) : Bool :=
  decide (x.base < base + regionLines level) && decide (base < x.base + regionLines x.level)

/-- The part of a drain after every DMARK_ACK (R81): ARMED, write-backs, RELINQ. -/
def finishDrain (s : State) (d : DrainSt) : State :=
  let node := agentNode d.agent
  let s1 := send s node (agentNode d.acquirer) .syn (match d.regions.head? with
      | some x => x.2.1 * 128
      | none => 0) (.armed d.acquirer d.tag d.agent d.ranges.isNone)
  let rs := s1.regions.filter (fun x => d.regions.any (fun y => y.1 == x.node && blocksMeet x y.2.1 y.2.2)
    && (x.asid == d.asid || x.asid == 0) && (x.owner == d.agent || (d.die && x.owner / 128 == d.agent / 128)))
  let s2 := rs.foldl (fun t x => writeBackRegion t d.agent x) s1
  let s3 := { s2 with drains := s2.drains.filter (fun y => !(y.agent == d.agent && y.tag == d.tag)) }
  if d.ranges.isNone then clearReleaser s3 d.agent else s3

/-- A releaser receives DRAIN (R81, R384): it marks each of its regions at the home, or answers ARMED at once. -/
def startDrain (s : State) (agent : Nat) (die : Bool) (asid : Nat) (r : Option (List Range)) (acquirer tag : Nat) :
    State :=
  let node := agentNode agent
  let s0 := if die ∨ isDieAgent agent then s else flushProxies s node (agentUnit agent) asid r
  let rs := ownedRegions s0 agent die asid r ++ ownedWt s0 agent die asid r
  let d : DrainSt :=
    { agent := agent, die := die, asid := asid, ranges := r, acquirer := acquirer, tag := tag,
      regions := rs.map (fun x => (x.node, x.base, x.level)), due := rs.length }
  if rs.isEmpty then finishDrain s0 d
  else
    rs.foldl (fun t x => send t node x.node .reg (x.base * 128) (.dmark agent x.asid x.base x.level tag))
      { s0 with drains := s0.drains ++ [d] }

/-! ## Carried releasers (R82) -/

/-- A releaser joins a carried list; a ninth empties the list by drains over rset0. -/
def carryAdd (s : State) (ck node unit asid : Nat) (e : RelEnt) : State :=
  let c := getCore s ck
  match c.carried.find? (fun x => x.agent == e.agent) with
  | some x => setCore s ck { c with carried := c.carried.map (fun y =>
      if y.agent == e.agent then { x with scope := scopeMax x.scope e.scope, die := x.die || e.die } else y) }
  | none =>
    if c.carried.length < 8 then setCore s ck { c with carried := c.carried ++ [e] }
    else
      let tag := s.nextReq
      let me := agentId s node unit
      let a : ArmWait := { tag := tag, asid := asid, ranges := some [], need := 8, got := 0, known := true }
      let s1 := modCore { s with nextReq := s.nextReq + 1 } ck (fun c =>
        { c with carried := [e], carryTag := c.carryTag ++ [tag], arms := c.arms ++ [a] })
      c.carried.foldl (fun t x => sendDrain t node x asid none me tag 0) s1

/-- After an acquire drained releasers over a region set (R82). -/
def carryUpdate (s : State) (ck node unit asid : Nat) (full : Bool) (es : List RelEnt) : State :=
  if full then modCore s ck (fun c => { c with carried := c.carried.filter (fun x =>
      !es.any (fun e => e.agent == x.agent)) })
  else es.foldl (fun t e => if e.agent == agentId s node unit then t else carryAdd t ck node unit asid e) s

/-- The entries that a release of a core records (R79, R82). -/
def releaseEntries (s : State) (node unit : Nat) (sc : Scope) : List RelEnt :=
  let c := getCore s (coreKey node unit)
  let wide := decide (3 ≤ scopeRank sc)
  c.carried.map (fun e => { e with scope := scopeMax e.scope sc })
    ++ [{ agent := agentId s node unit, scope := sc, die := wide }]

/-- One more acquire of a core waits for drains under a tag: its misses in the set are held (R81). -/
def armStart (s : State) (ck tag asid : Nat) (r : Option (List Range)) : State :=
  let a : ArmWait := { tag := tag, asid := asid, ranges := r, need := 0, got := 0, known := false }
  modCore s ck (fun c => { c with arms := c.arms ++ [a] })

def armNeed (s : State) (ck tag n : Nat) : State :=
  modCore s ck (fun c => { c with arms := c.arms.map (fun a =>
    if a.tag == tag then { a with need := a.need + n } else a) })

/-- Every answer of the acquire is in: with no ARMED due the entry goes. -/
def armKnown (s : State) (ck tag : Nat) : State :=
  modCore s ck (fun c => { c with arms := (c.arms.map (fun a =>
    if a.tag == tag then { a with known := true } else a)).filter (fun a => !(a.known && decide (a.need ≤ a.got))) })

/-- Whether a miss of a core on a line is held for drains to be armed (R81). -/
def missHeld (s : State) (ck k : Nat) : Bool :=
  (getCore s ck).arms.any (fun a => (lineAsid k == a.asid || lineAsid k == 0) && rangesLine a.ranges (lineNo k)
    && (!a.known || decide (a.got < a.need)))

/-- Whether drains under a tag still are to be armed at a core. -/
def armsTag (s : State) (ck tag : Nat) : Bool := (getCore s ck).arms.any (fun a => a.tag == tag)

end Sys2Proof.Machine
end

