-- ==== Sys2Proof/Machine/Coherence.lean ====
section
/-! DEFINITION. The messages of registration coherence (R70-R97): what each does when it is served. An event names the
n-th delivered message; when that message is of another kind, or may not be served yet, nothing happens. -/

namespace Sys2Proof.Machine

/-! ## Answers at the requester -/

/-- A line that is held in no cache, or in none but as an untracked copy (R94, R105). -/
def lineUncached (s : State) (home k : Nat) : Bool :=
  match xlatePeek s home (lineAsid k) (lineNo k * 128) .read true with
  | .ok p => p.uc
  | .error _ => true

/-- Fetched bytes laid over what a cache holds of a line; bytes newer than the home's stay. -/
def fillLine (t : Tab Line) (c k : Nat) (l : Line) : Tab Line :=
  let o := getLine t c k
  let x := lineOver o l (l.valid &&& ~~~o.dirty) false
  setLine t c k { x with dirty := o.dirty }

/-- Fetched bytes enter the die's LLC alone (R313). -/
def fillLlc (s : State) (node k home : Nat) (l : Line) : State :=
  if lineUncached s home k ∨ home = node then s else { s with llc := fillLine s.llc node k l }

/-- Fetched bytes enter the L1, the L2 and, for a foreign line, the die's LLC. -/
def fillCaches (s : State) (node unit k home : Nat) (l : Line) : State :=
  if lineUncached s home k then s
  else
    let put := fun (t : Tab Line) (c : Nat) => fillLine t c k l
    let s1 := { s with l2 := put s.l2 (l2Of node unit) }
    let q := getLine s1.l2 (l2Of node unit) k
    let s2 := { s1 with l1 := setLine s1.l1 (l1Of node unit) k
                          (let o := getLine s1.l1 (l1Of node unit) k
                           { lineOver o q (q.valid &&& (l.valid ||| o.valid)) false with dirty := 0 }) }
    if home = node then s2 else { s2 with llc := put s2.llc node }

/-- The operation of a wave that an answer belongs to. -/
def waitsFor (s : State) (r : Req) : Bool := waveExists s r.wave && (getWave s r.wave).op.id == r.id

def modOp (s : State) (w : Nat) (f : OpSt → OpSt) : State := modWave s w (fun x => { x with op := f x.op })

/-- Errors are kept by word: line key * 32 + word. -/
def putErr (o : OpSt) (k : Nat) (m : Mask) (e : AccErr) : OpSt :=
  { o with errs := (maskLanes m).foldl (fun t w => Tab.put t (k * 32 + w) e) o.errs }

/-- Releaser entries that a wave keeps for its next acquire fence: up to 8, each with its widest scope; a ninth has the 8
drained over rset0 (R234). -/
def keepEntries (s : State) (w : Nat) (es : List RelEnt) : State :=
  es.foldl (fun t e =>
    let x := getWave t w
    if x.kept.any (fun y => y.agent == e.agent) then
      setWave t w { x with kept := x.kept.map (fun y =>
        if y.agent == e.agent then { y with scope := scopeMax y.scope e.scope, die := y.die || e.die } else y) }
    else if x.kept.length < 8 then setWave t w { x with kept := x.kept ++ [e] }
    else
      let tag := t.nextReq
      let me := waveAgent t x
      let a : ArmWait := { tag := tag, asid := x.asid, ranges := some [], need := 8, got := 0, known := true }
      let t1 := modCore { t with nextReq := t.nextReq + 1 } (waveCore x) (fun c => { c with arms := c.arms ++ [a] })
      x.kept.foldl (fun u y => sendDrain u x.node y x.asid none me tag 0)
        (setWave t1 w { x with kept := [e], keptTag := x.keptTag ++ [tag] })) s

/-! ## RD, DATA, FWD, GONE (R77, R78) -/

/-- The grant that an access carries, by its grantor and request, is live there (R114, assumption log 82). -/
def grantLive (s : State) (g : Option (Nat × Nat)) : Bool :=
  match g with
  | none => true
  | some x => s.grants.any (fun y => y.node == x.1 && y.req == x.2 && y.live)

def dataMsg (s : State) (src : Nat) (r : Req) (asid line : Nat) (m : Mask) (l : Line) (e : Option AccErr)
    (ents : List RelEnt) : State :=
  if m = 0 then s else send s src (agentNode r.agent) .rsp (line * 128) (.data r asid line m l e ents)

/-- Translation and checks of an access at its home: the error that completes it, or the translation. A lost home completes
every access with a die-lost error, wherever the memory lies (R97). -/
def homeAccess (s : State) (node : Nat) (r : Req) (asid line : Nat) (acc : Acc) : State × Except AccErr Phys :=
  if nodeLost s node then (s, .error eDieLost)
  else if !grantLive s r.grant then (s, .error eLeaseLost)
  else
    let x := xlate s node asid (line * 128) acc r.sup
    match x.2 with
    | .error _ => (x.1, .error eLeaseLost)
    | .ok p => match physReach x.1 p with
      | some e => (x.1, .error e)
      | none => (x.1, .ok p)

/-- The entries recorded at the words of a line. -/
def lineEntries (s : State) (node k : Nat) (m : Mask) : List RelEnt :=
  (maskLanes m).flatMap (fun w => (getRel s node k w).ents)

/-- The context of an access, to which its race report goes (R85): that of its wave, also for a line that all contexts
share. -/
def accessorAsid (s : State) (r : Req) (asid : Nat) : Nat :=
  match Tab.find s.waves r.wave with
  | some w => w.asid
  | none => asid

/-- The words of a read that its home forwards: those in state G that another agent owns, with the words that one access reads
together with them (R77, R241). After GONE the home answers itself (R78). -/
def awayMask (s : State) (k : Nat) (reg : Option Region) (agent : Nat) (m : Mask) (grp : Nat) (again : Bool) : Mask :=
  match reg with
  | none => 0
  | some g => if ownsAs agent g.owner || again then 0 else groupSpan grp (m &&& lineG s k) &&& m

/-- A home answers a read word by word (R77, R92, R94, R96). Several raced words of one read give one report, of the lowest
(R86). -/
def answerRead (s : State) (node : Nat) (r : Req) (asid line : Nat) (m : Mask) (plain : Bool) (own : Line)
    (grp : Nat) (again : Bool) : State :=
  let k := lineKey asid line
  let tok := maskOf (fun w => m.getLsbD w && !tokenAllows s node asid (line * 128 + 4 * w) 4 r.agent)
  let s1 := dataMsg s node r asid line tok {} (some eToken) []
  let m1 := m &&& ~~~tok
  let a := homeAccess s1 node r asid line .read
  match a.2 with
  | .error e => dataMsg a.1 node r asid line m1 {} (some e) []
  | .ok p0 =>
    let p := readCopy p0 node (agentNode r.agent)
    let z := maskOf (fun w => m1.getLsbD w && wordSt a.1 k w == .z)
    let e := zError a.1 k z
    let s2 := if z = 0 then a.1 else dataMsg e.1 node r asid line z {} (some e.2) []
    let m2 := m1 &&& ~~~z
    let reg := findRegion s2 node asid line
    let race := plain && reg.any (fun g => g.st != .draining)
    let ctx := accessorAsid s2 r asid
    let trap := race && raceTraps s2 ctx
    let away := awayMask s2 k reg r.agent m2 (if trap then 1 else grp) again
    let here := m2 &&& ~~~away
    let ents := if plain then [] else lineEntries s2 node k here
    let x := homeRead s2 node k p here
    -- words that the requester owns may be on their way back to the home
    let latest := match reg with
      | some g => (maskLanes (here &&& lineG x.1 k)).foldl (fun l w => flyingWord x.1 g.owner k w l) x.2
      | none => x.2
    let l := lineOver latest own (own.valid &&& byteMask here) false
    let s3 := dataMsg x.1 node r asid line here { l with dirty := 0 } none ents
    match reg with
    | none => s3
    | some g =>
      if away = 0 then s3
      else
        let gs := away &&& lineG s3 k
        let s4 := if race then
            raceReport s3 node ctx (line * 128 + 4 * ((lowestLane gs).getD 0)) 0 r.agent g.owner else s3
        if trap then dataMsg s4 node r asid line away {} (some eRace) []
        else
          let base := lineOnly (homeData s4 node k p) (byteMask away)
          send s4 node (agentNode g.owner) .reg (line * 128)
            (.fwd r asid line away base g.owner node (if plain then [] else lineEntries s4 node k away) grp)

/-- A message that a source keeps for COMMIT, in SEQ order within its flow (R57). -/
def keepRedirected : List Pkt → Pkt → List Pkt
  | [], q => [q]
  | x :: t, q =>
    if q.fl.isSome && x.fl == q.fl && decide ((x.seq + 65536 - q.seq) % 65536 < 32768) then q :: x :: t
    else x :: keepRedirected t q

/-- A message that reaches a die which has stopped homing its granule goes back to its source. Of an ordered flow the die answers
the first message for the granule and discards the rest, which their source keeps (R57). -/
def redirected (s : State) (n : Nat) (p : Pkt) (asid line : Nat) : Option State :=
  if !stoppedHoming s p.dst asid (line * 128) then none
  else
    let t := takeMsg s n
    let answer := send t p.dst p.src .reg (line * 128) (.redirect p.msg p.cls p.seq)
    match p.fl, t.rehome with
    | some fl, some r =>
      if r.committed.contains p.src then some answer
      else if r.answered.contains (fl, line / 512) then
        some { t with rehome := some { r with redirected := keepRedirected r.redirected p } }
      else some { answer with rehome := some { r with answered := (fl, line / 512) :: r.answered } }
    | _, _ => some answer

def serveRd (s : State) (n : Nat) : State :=
  match servable s n with
  | some p => match p.msg with
    | .rd r asid line m plain own grp =>
      match redirected s n p asid line with
      | some t => t
      | none => answerRead (takeMsg s n) p.dst r asid line m plain own grp false
    | _ => s
  | none => s

/-- RD reaches the home (R77). -/
def execRd (n : Nat) (s : State) : Out := .next (serveRd s n)

def serveData (s : State) (n : Nat) : State :=
  match servable s n with
  | some p => match p.msg with
    | .data r asid line m l err ents =>
      let k := lineKey asid line
      let s1 := answered (takeMsg s n) r.id k
      if !waitsFor s1 r then s1
      else
        let w := getWave s1 r.wave
        match err with
        | some e => modOp s1 r.wave (fun o => putErr o k m e)
        | none =>
          let home := (homeOf s1 asid (line * 128)).getD p.src
          let s2 := if w.op.phase = 0 then fillCaches s1 w.node w.unit k home l
            else if w.op.phase = 2 then fillLlc s1 w.node k home l else s1
          let s3 := modOp s2 r.wave (fun o =>
            { o with resp := Tab.put o.resp k (lineOver (Tab.get {} o.resp k) l l.valid false) })
          keepEntries s3 r.wave ents
    | _ => s
  | none => s

/-- DATA reaches the requester (R74, R77, R234). -/
def execData (n : Nat) (s : State) : Out := .next (serveData s n)

def serveFwd (s : State) (n : Nat) : State :=
  match servable s n with
  | some p => match p.msg with
    | .fwd r asid line m base owner home ents grp =>
      let k := lineKey asid line
      let s1 := takeMsg s n
      let held := groupSpan grp (maskOf (fun w => m.getLsbD w &&
        (ownerWord s1 owner k w {}).dirty &&& byteMask (laneBit w) != 0)) &&& m
      let l := ownerLine s1 owner k held (lineOnly base (byteMask held))
      let s2 := dataMsg s1 p.dst r asid line held { l with dirty := 0 } none ents
      let gone := m &&& ~~~held
      if gone = 0 then s2
      else send s2 p.dst home .reg (line * 128) (.gone r asid line gone owner)
    | _ => s
  | none => s

/-- FWD reaches the owner: DATA to the reader, or GONE to the home (R78). -/
def execFwd (n : Nat) (s : State) : Out := .next (serveFwd s n)

def serveGone (s : State) (n : Nat) : State :=
  match servable s n with
  | some p => match p.msg with
    | .gone r asid line m _ =>
      match redirected s n p asid line with
      | some t => t
      | none => answerRead (takeMsg s n) p.dst r asid line m false {} 1 true
    | _ => s
  | none => s

/-- GONE reaches the home, which answers the reader from its own words (R78). -/
def execGone (n : Nat) (s : State) : Out := .next (serveGone s n)

/-! ## REG_REQ, REG_ACK (R75, R76, R85, R95, R96) -/

/-- The accessor that a race report names: the core of the wave whose store asks (R86, R87). -/
def accessor (s : State) (r : Req) : Nat :=
  match Tab.find s.waves r.wave with
  | some w => waveAgent s w
  | none => r.agent

/-- A home whose region table is full drains its least recently used OWNED region, unless an entry is about to be freed: the
request that needs one waits (R73). -/
def drainLru (s : State) (node : Nat) : State :=
  if s.regions.any (fun r => r.node == node && r.st == .draining) then s
  else match lruOwned s node with
    | none => s
    | some x =>
      send s node (agentNode x.owner) .syn (x.base * 128)
        (.drain x.owner false x.asid (some [{ lo := x.base * 128, hi := (x.base + regionLines x.level) * 128 }])
          (agentId s node 127) 0)

/-- The tokens, table space and page of a store are in order, and its words are registered or written. The result is
the state and the acknowledgement, or none when the request waits. -/
def registerAt (s : State) (node : Nat) (r : Req) (asid line : Nat) (m : Mask) (bytes : Line) (plain thru : Bool) :
    State × Option Msg :=
  let k := lineKey asid line
  let bad := fun (t : State) (e : AccErr) => (t, some (Msg.regAck r asid line 0 m none (some e)))
  if (maskLanes m).any (fun w => !tokenAllows s node asid (line * 128 + 4 * w) 4 r.agent) then bad s eToken
  else
    let a := homeAccess s node r asid line .write
    match a.2 with
    | .error e => bad a.1 e
    | .ok p =>
      if p.repl ≠ 0 then bad a.1 eReplica
      else if p.uc then
        (homeWrite a.1 node k p bytes bytes.valid, some (.regAck r asid line 0 m none none))
      else
        -- a narrow write of a Z word updates its bytes and leaves the word Z
        let zn := maskOf (fun w => m.getLsbD w && wordSt a.1 k w == .z
          && bytes.valid.extractLsb' (4 * w) 4 != 15#4)
        let zf := maskOf (fun w => m.getLsbD w && wordSt a.1 k w == .z
          && bytes.valid.extractLsb' (4 * w) 4 == 15#4)
        let s1 := homeWrite a.1 node k p bytes (bytes.valid &&& byteMask (zn ||| zf))
        let m1 := m &&& ~~~zn
        let x := registerWords s1 node k r.agent (accessor s1 r, accessorAsid s1 r asid) p m1 bytes plain
        if x.2.full then (drainLru a.1 node, none)
        else if x.2.wait then (a.1, none)
        else
          let s2 := (maskLanes m).foldl (fun t w => fireWatches t node asid (line * 128 + 4 * w) 4 0) x.1
          let s3 := if thru then
              let g := x.2.reg
              let t := homeWrite s2 node k p bytes (bytes.valid &&& byteMask g)
              setWordsG t k g
            else s2
          (s3, some (.regAck r asid line x.2.reg (x.2.thru ||| zn) x.2.race none))

def serveRegReq (s : State) (n : Nat) : State :=
  match servable s n with
  | some p => match p.msg with
    | .regReq r asid line m bytes plain thru =>
      match redirected s n p asid line with
      | some t => t
      | none =>
        let x := registerAt s p.dst r asid line m bytes plain thru
        match x.2 with
        | none => send (holdMsg x.1 n) p.dst p.src .rsp 0 (.held r.id)
        | some a => send (takeMsg x.1 n) p.dst p.src .reg (line * 128) a
    | _ => s
  | none => s

/-- REG_REQ is applied at the home (R76). -/
def execRegReq (n : Nat) (s : State) : Out := .next (serveRegReq s n)

/-- Words that are not registered to the agent: their copies are clean, and its die forgets their holder. -/
def unregister (s : State) (agent k : Nat) (m : Mask) (wave : Nat) : State :=
  let s1 := ownerClean s agent k m
  if isDieAgent agent then
    let w := getWave s wave
    let q := getLine s1.l2 (l2Of w.node w.unit) k
    { s1 with l2 := setLine s1.l2 (l2Of w.node w.unit) k { q with dirty := q.dirty &&& ~~~(byteMask m) } }
  else s1

def serveRegAck (s : State) (n : Nat) : State :=
  match servable s n with
  | some p => match p.msg with
    | .regAck r asid line _ thru race err =>
      let k := lineKey asid line
      let s1 := answered (takeMsg s n) r.id k
      let pr := pendOf s1 r.wave r.id
      let s2 := if thru = 0 then s1 else unregister s1 r.agent k thru r.wave
      let s3 := match err with
        | none => s2
        | some e =>
          -- a store without the token loses its core's copy of the line (R92)
          let t := dropCopies s2 (agentId s2 (agentNode r.agent) (getWave s2 r.wave).unit) k
            (if e = eToken then BitVec.allOnes 32 else thru) p.src
          addDeferred t r.wave { cause := e.cause, sub := e.sub, lane := pr.lane, hnd := pr.hnd, addr := pr.addr }
      let s4 := if race.isSome ∧ raceTraps s3 (accessorAsid s3 r asid) then
          addDeferred s3 r.wave { cause := cRace, sub := 0, lane := pr.lane, hnd := pr.hnd, addr := pr.addr } else s3
      if waveExists s4 r.wave then
        modWave s4 r.wave (fun x => { x with pend := x.pend.filter (fun y => y.id != r.id) })
      else s4
    | _ => s
  | none => s

/-- REG_ACK reaches the requester (R74, R75, R87, R92, R114). -/
def execRegAck (n : Nat) (s : State) : Out := .next (serveRegAck s n)

/-! ## WB, RECALL (R74, R78, R88) -/

/-- Words that an owner writes back enter the home's LLC; a word that the home no longer holds as the owner's is
ignored (R85). -/
def writeBackAt (s : State) (node agent asid line : Nat) (m : Mask) (bytes : Line) (keep : Bool) : State :=
  let k := lineKey asid line
  match wordOwner s node asid line with
  | none => s
  | some o =>
    if o ≠ agent then s
    else
      let g := maskOf (fun w => m.getLsbD w && wordSt s k w == .g)
      let bm := bytes.valid &&& byteMask g
      match xlate s node asid (line * 128) .read true with
      | (s1, .error _) => if keep then s1 else (maskLanes g).foldl (fun t w => setWordSt t k w .v) s1
      | (s1, .ok p) =>
        let s2 := homeWrite s1 node k p bytes bm
        if keep then setWordsG s2 k g else (maskLanes g).foldl (fun t w => setWordSt t k w .v) s2

def serveWb (s : State) (n : Nat) : State :=
  match servable s n with
  | some p => match p.msg with
    | .wb agent asid line m bytes keep =>
      match redirected s n p asid line with
      | some t => t
      | none => retryHeld (writeBackAt (takeMsg s n) p.dst agent asid line m bytes keep) p.dst
    | _ => s
  | none => s

/-- WB reaches the home with KEEP or DROP (R74). -/
def execWb (n : Nat) (s : State) : Out := .next (serveWb s n)

def serveRecall (s : State) (n : Nat) : State :=
  match servable s n with
  | some p => match p.msg with
    | .recall asid line word owner =>
      let k := lineKey asid line
      let s1 := takeMsg s n
      let m := laneBit word
      let l := ownerWord s1 owner k word {}
      ownerClean (send s1 p.dst p.src .reg (line * 128) (.wb owner asid line m l false)) owner k m
    | _ => s
  | none => s

/-- RECALL reaches the owner, which writes the word back with WB DROP (R88). -/
def execRecall (n : Nat) (s : State) : Out := .next (serveRecall s n)

/-! ## DMARK, DMARK_ACK, RELINQ (R81) -/

def serveDmark (s : State) (n : Nat) : State :=
  match servable s n with
  | some p => match p.msg with
    | .dmark agent asid base level tag =>
      match redirected s n p asid base with
      | some t => t
      | none =>
        let s1 := takeMsg s n
        let die := s1.drains.any (fun d => d.agent == agent && d.tag == tag && d.die)
        let hit := fun (x : Region) => x.node == p.dst && x.asid == asid && blocksMeet x base level
          && (x.owner == agent || (die && x.owner / 128 == agent / 128)) && x.st != .draining
        let s2 := { s1 with regions := s1.regions.map (fun x => if hit x then { x with st := .draining } else x) }
        let s3 := (s1.regions.filter hit).foldl (fun t x =>
          fireWatches t p.dst asid (x.base * 128) (regionLines x.level * 128) 1) s2
        send s3 p.dst (agentNode agent) .reg (base * 128) (.dmarkAck agent tag)
    | _ => s
  | none => s

/-- DMARK reaches the home: the region enters DRAINING, a line in write-through mode too (R81). -/
def execDmark (n : Nat) (s : State) : Out := .next (serveDmark s n)

def serveDmarkAck (s : State) (n : Nat) : State :=
  match servable s n with
  | some p => match p.msg with
    | .dmarkAck agent tag =>
      let s1 := takeMsg s n
      match s1.drains.find? (fun d => d.agent == agent && d.tag == tag) with
      | none => s1
      | some d =>
        if d.due ≤ 1 then finishDrain s1 d
        else { s1 with drains := s1.drains.map (fun y =>
                 if y.agent == agent && y.tag == tag then { y with due := y.due - 1 } else y) }
    | _ => s
  | none => s

/-- DMARK_ACK reaches the releaser; after the last one it sends ARMED, its write-backs and RELINQ (R81). -/
def execDmarkAck (n : Nat) (s : State) : Out := .next (serveDmarkAck s n)

/-- A token region that was created over, or handed over from, drained owners may go on (R89, R91). -/
def tokenDrained (s : State) (node asid lo hi : Nat) : Bool :=
  !s.regions.any (fun x => x.node == node && x.asid == asid && decide (x.base * 128 < hi)
    && decide (lo < (x.base + regionLines x.level) * 128)
    && anyG s asid (lo / 128) ((hi - lo + 127) / 128))

/-- The old holder's copies of the region go (R91). -/
def dropRegionCopies (s : State) (agent asid lo hi : Nat) : State :=
  let node := agentNode agent
  let ks := (s.l1 ++ s.l2 ++ s.llc).filterMap (fun e =>
    let k := e.1 % 2 ^ 61
    if lineAsid k == asid && rangesLine (some [{ lo := lo, hi := hi }]) (lineNo k) then some k else none)
  ks.eraseDups.foldl (fun t k =>
    dropCopies t agent k (maskOf (fun w => rangesWord (some [{ lo := lo, hi := hi }]) (lineNo k) w))
      (if (homeOf t asid (lineNo k * 128)) = some node then node else 99)) s

/-- What an agent cached of a token region goes when it gives the token up (R91). -/
def dropHolder (s : State) (t : Token) : State :=
  match t.holder with
  | some a => dropRegionCopies s a t.asid t.base (t.base + t.size)
  | none => s

/-- The token goes to an agent, to the oldest waiter, or becomes FREE (R91): the old holder's words have been written back,
and its copies go. -/
def passToken (s : State) (t : Token) (dest : Option Nat) : State :=
  let others := s.tokens.filter (fun x => !(x.node == t.node && x.asid == t.asid && x.base == t.base))
  let s0 := fireWatches (dropHolder s t) t.node t.asid t.base t.size 1
  let put := fun (u : Token) => { s0 with tokens := u :: others }
  let t := { t with moving := none }
  let s1 := match dest with
    | some a => put { t with holder := some a,
                             waiters := t.waiters.filter (fun x => x.1 != a) }
    | none => match t.waiters with
      | [] => put { t with holder := none }
      | x :: rest =>
        send (put { t with holder := some x.1, waiters := rest }) t.node (agentNode x.1) .syn t.base
          (.tokGrant { agent := x.1, wave := x.2.1, id := x.2.2 } t.asid t.base none)
  -- a recipient that waited is answered at once
  match dest with
  | none => s1
  | some a => (t.waiters.filter (fun x => x.1 == a)).foldl (fun u x =>
      send u t.node (agentNode a) .syn t.base
        (.tokGrant { agent := a, wave := x.2.1, id := x.2.2 } t.asid t.base none)) s1

/-- Waiters of a region that leaves token mode take a token violation (R89). -/
def failWaiters (s : State) (t : Token) : State :=
  t.waiters.foldl (fun u x => send u t.node (agentNode x.1) .syn t.base
    (.tokGrant { agent := x.1, wave := x.2.1, id := x.2.2 } t.asid t.base (some eToken))) s

/-- Token commands and hand-overs of a home whose drains are done proceed (R89, R91). -/
def tokenProgress (s : State) (node : Nat) : State :=
  s.tokens.foldl (fun u t =>
    if t.node != node || !tokenDrained u node t.asid t.base (t.base + t.size) then u
    else if t.creating.isSome then
      modCtx { u with tokens := u.tokens.map (fun x => if x == t then { x with creating := none } else x) } t.cmdBy
        (fun c => { c with tokBusy := false, tokErr := 0 })
    else if t.dying then
      let u1 := failWaiters (dropHolder u t) t
      modCtx { u1 with tokens := u1.tokens.filter (fun x => x != t) } t.cmdBy
        (fun c => { c with tokBusy := false, tokErr := 0 })
    else match t.moving with
      | none => u
      | some m => passToken u t m.1) s

def serveRelinq (s : State) (n : Nat) : State :=
  match servable s n with
  | some p => match p.msg with
    | .relinq agent asid base level _ =>
      match redirected s n p asid base with
      | some t => t
      | none =>
        let s1 := takeMsg s n
        let hit := s1.regions.filter (fun x => x.node == p.dst && x.asid == asid && decide (base ≤ x.base)
          && decide (x.base < base + regionLines level) && x.owner == agent)
        retryHeld (tokenProgress (hit.foldl (fun t x => relinquish t x) s1) p.dst) p.dst
    | _ => s
  | none => s

/-- RELINQ frees a region entry, and its G words become V (R81). -/
def execRelinq (n : Nat) (s : State) : Out := .next (serveRelinq s n)

/-! ## REL, ACQ, ACQ_RSP, DRAIN, ARMED (R79-R82) -/

/-- The words of a release that its own core holds, or that its die holds and no other core of it: they stay so, and what
the core has stored since stays the newer (R79, R240). -/
def relOwn (s : State) (node : Nat) (r : Req) (k : Nat) (m : Mask) : Mask :=
  match wordOwner s node (lineAsid k) (lineNo k) with
  | none => 0
  | some a => maskOf (fun i => m.getLsbD i && wordSt s k i == .g && (a == r.agent || (a == dieAgent r.agent &&
      (proxyCore s (agentNode r.agent) k i).all (fun u => u == agentUnit r.agent))))

/-- A release store is performed at its point of record, the home (R79, R80). -/
def performRel (s : State) (node : Nat) (r : Req) (asid line : Nat) (bytes : Line) (ents : List RelEnt) :
    State × Option AccErr :=
  let k := lineKey asid line
  let m := wordMask bytes.valid
  if (maskLanes m).any (fun w => !tokenAllows s node asid (line * 128 + 4 * w) 4 r.agent) then (s, some eToken)
  else
    let a := homeAccess s node r asid line .write
    match a.2 with
    | .error e => (a.1, some e)
    | .ok p =>
      if p.repl ≠ 0 then (a.1, some eReplica)
      else
        let own := relOwn a.1 node r k m
        let s1 := recallWords a.1 node k p (m &&& ~~~own)
        let s2 := setWordsG (homeWrite s1 node k p bytes bytes.valid) k own
        ((maskLanes m).foldl (fun t w => recordRel t node k w ents) s2, none)

/-- A release is no longer outstanding. -/
def relDone (s0 : State) (w id : Nat) : State :=
  let s := answeredId s0 id
  if !waveExists s w then s
  else modWave s w (fun y => { y with pend := y.pend.filter (fun z => z.id != id) })

def serveRel (s : State) (n : Nat) : State :=
  match servable s n with
  | some p => match p.msg with
    | .rel r asid line bytes ents =>
      match redirected s n p asid line with
      | some t => t
      | none =>
        let k := lineKey asid line
        let x := performRel (takeMsg s n) p.dst r asid line bytes ents
        let pr := pendOf s r.wave r.id
        let s1 := relDone x.1 r.wave r.id
        match x.2 with
        | none => s1
        | some e =>
          addDeferred (dropCopies s1 r.agent k (if e = eToken then BitVec.allOnes 32 else wordMask bytes.valid) p.dst) r.wave
            { cause := e.cause, sub := e.sub, lane := pr.lane, hnd := pr.hnd, addr := pr.addr }
    | _ => s
  | none => s

/-- REL reaches its point of record and is entered (R80). -/
def execRel (n : Nat) (s : State) : Out := .next (serveRel s n)

/-- What an acquire selects at the words of a line: recorded releasers and those on the pending lists (R81). -/
def acqSelect (s : State) (node k : Nat) (m : Mask) (sc : Scope) (acquirer : Nat) : List RelEnt :=
  let all := (maskLanes m).flatMap (fun w =>
    let rr := getRel s node k w
    rr.ents.filter (relSelected sc acquirer) ++ rr.pending.map Prod.fst)
  all.foldl (fun l e => if l.any (fun x => x.agent == e.agent) then l else l ++ [e]) []

/-- DRAINs that a point of record sends for an acquire. -/
def acqDrains (s : State) (node asid : Nat) (es : List RelEnt) (r : Option (List Range)) (acquirer tag v : Nat) : State :=
  es.foldl (fun t e => sendDrain t node e asid r acquirer tag v) s

/-- The words of an acquire as their owners hold them: what a forward would bring is taken at once (R81, R85). -/
def acqLine (s : State) (home k : Nat) (m : Mask) (l : Line) : Line :=
  match wordOwner s home (lineAsid k) (lineNo k) with
  | none => l
  | some a => { latestLine s a k (m &&& lineG s k) l with dirty := 0 }

def serveAcq (s : State) (n : Nat) : State :=
  match servable s n with
  | some p => match p.msg with
    | .acq r asid line m sc ranges tag own =>
      match redirected s n p asid line with
      | some t => t
      | none =>
        let k := lineKey asid line
        let s1 := takeMsg s n
        let rsp := fun (t : State) (l : Line) (es : List RelEnt) (e : Option AccErr) =>
          send t p.dst p.src .rsp (line * 128) (.acqRsp r asid line l es.length es e)
        if (maskLanes m).any (fun w => !tokenAllows s1 p.dst asid (line * 128 + 4 * w) 4 r.agent) then
          rsp s1 {} [] (some eToken)
        else
          let a := homeAccess s1 p.dst r asid line .read
          match a.2 with
          | .error e => rsp a.1 {} [] (some e)
          | .ok ph =>
            if (maskLanes m).any (fun w => wordSt a.1 k w == .z) then
              rsp (zError a.1 k m).1 {} [] (some (zError a.1 k m).2)
            else
              let x := homeRead a.1 p.dst k (readCopy ph p.dst (agentNode r.agent)) m
              let l := lineOver (acqLine x.1 p.dst k m x.2) own (own.valid &&& byteMask m) false
              let es := acqSelect x.1 p.dst k m sc r.agent
              rsp (acqDrains x.1 p.dst asid es ranges r.agent tag (line * 128)) l es none
    | _ => s
  | none => s

/-- ACQ reaches the point of record, which drains the selected releasers (R81). -/
def execAcq (n : Nat) (s : State) : Out := .next (serveAcq s n)

def serveAcqRsp (s : State) (n : Nat) : State :=
  match servable s n with
  | some p => match p.msg with
    | .acqRsp r asid line l cnt es err =>
      let k := lineKey asid line
      let s1 := answered (takeMsg s n) r.id k
      if !waitsFor s1 r then s1
      else
        let w := getWave s1 r.wave
        let s2 := armNeed s1 (waveCore w) w.op.due cnt
        modOp s2 r.wave (fun o =>
          let o1 := { o with resp := Tab.put o.resp k (lineOver (Tab.get {} o.resp k) l l.valid false),
                             relEnts := o.relEnts ++ es.filter (fun e => !o.relEnts.any (fun x => x.agent == e.agent)),
                             vals := Tab.put o.vals k 1 }
          match err with
          | none => o1
          | some e => putErr o1 k (BitVec.allOnes 32) e)
    | _ => s
  | none => s

/-- ACQ_RSP brings the acquirer its value and the count of drains (R81). -/
def execAcqRsp (n : Nat) (s : State) : Out := .next (serveAcqRsp s n)

def serveDrain (s : State) (n : Nat) : State :=
  match servable s n with
  | some p => match p.msg with
    | .drain agent die asid r acquirer tag => startDrain (takeMsg s n) agent die asid r acquirer tag
    | _ => s
  | none => s

/-- DRAIN reaches a releaser (R81). -/
def execDrain (n : Nat) (s : State) : Out := .next (serveDrain s n)

def serveArmed (s : State) (n : Nat) : State :=
  match servable s n with
  | some p => match p.msg with
    | .armed agent tag from_ _ => retryHeld (armedAt (takeMsg s n) agent tag from_) p.dst
    | _ => s
  | none => s

/-- ARMED is counted at the acquirer, or ends a pending releaser at the point of record (R80, R81). -/
def execArmed (n : Nat) (s : State) : Out := .next (serveArmed s n)

/-! ## Tokens (R89-R91) -/

def serveTokAcq (s : State) (n : Nat) : State :=
  match servable s n with
  | some p => match p.msg with
    | .tokAcq r asid addr =>
      match redirected s n p asid (addr / 128) with
      | some t => t
      | none =>
        let s1 := takeMsg s n
        let grant := fun (t : State) (e : Option AccErr) =>
          send t p.dst p.src .syn addr (.tokGrant r asid addr e)
        match findToken s1 p.dst asid addr 1 with
        | none => grant s1 (some eToken)
        | some t =>
          let put := fun (u : Token) => { s1 with tokens := s1.tokens.map (fun x => if x == t then u else x) }
          if t.creating.isSome then send (holdMsg s n) p.dst p.src .rsp 0 (.held r.id)
          else if t.holder = some r.agent ∧ t.moving.isNone then grant s1 none
          else if t.holder = none ∧ t.moving.isNone then grant (put { t with holder := some r.agent }) none
          else if t.waiters.length < 16 then
            send (put { t with waiters := t.waiters ++ [(r.agent, r.wave, r.id)] }) p.dst p.src .rsp 0 (.held r.id)
          else grant s1 (some { cause := cQueue, sub := 0 })
    | _ => s
  | none => s

/-- A token request is granted, queued or refused at the token home (R90). -/
def execTokAcq (n : Nat) (s : State) : Out := .next (serveTokAcq s n)

/-- The holder is drained over the region, and the hand-over waits for it (R91). `ents` are the releasers that the next
holder's acquire meets (R82). -/
def startHandOver (s : State) (t : Token) (dest : Option Nat) (ents : List RelEnt) : State :=
  let tag := s.nextReq
  let rs := [({ lo := t.base, hi := t.base + t.size } : Range)]
  let own := fun (x : Region) => x.node == t.node && x.asid == t.asid
    && rangesHit (some rs) (x.base * 128) ((x.base + regionLines x.level) * 128)
  let owners := ((s.regions.filter own).map (·.owner)).eraseDups
  let s1 := { s with nextReq := s.nextReq + 1,
                     tokens := s.tokens.map (fun x => if x == t then { x with moving := some (dest, tag), ents := ents } else x) }
  owners.foldl (fun u a => send u t.node (agentNode a) .syn t.base
    (.drain a false t.asid (some rs) (agentId u t.node 127) tag)) s1

def serveTokRel (s : State) (n : Nat) : State :=
  match servable s n with
  | some p => match p.msg with
    | .tokRel agent asid addr dest ents =>
      match redirected s n p asid (addr / 128) with
      | some t => t
      | none =>
        let s1 := takeMsg s n
        match findToken s1 p.dst asid addr 1 with
        | none => s1
        | some t =>
          if t.holder ≠ some agent ∨ t.moving.isSome then s1
          else
            tokenProgress (startHandOver s1 t dest ents) p.dst
    | _ => s
  | none => s

/-- TOK_REL reaches the home, which drains the holder and hands the token over (R91). -/
def execTokRel (n : Nat) (s : State) : Out := .next (serveTokRel s n)

/-- A waiting `racq` is answered: its path runs on, or takes the error's trap (R90, R386). -/
def racqAnswered (s : State) (w id : Nat) (e : Option AccErr) : State :=
  if !waveExists s w then s
  else modWave s w (mapPaths (fun p => match p.st with
    | .blocked (.racq i _) => if i = id then
        { p with st := match e with
            | none => .live
            | some x => .blocked (.racq i (some x)) } else p
    | _ => p))

def serveTokGrant (s : State) (n : Nat) : State :=
  match servable s n with
  | some p => match p.msg with
    | .tokGrant r _ _ err =>
      racqAnswered (answeredId (takeMsg s n) r.id) r.wave r.id err
    | _ => s
  | none => s

/-- TOK_GRANT reaches a waiting racq, which completes at its next turn (R90). -/
def execTokGrant (n : Nat) (s : State) : Out := .next (serveTokGrant s n)

/-! ## REPL_WR, REG_SET, HELD (R95, R93, R53) -/

def serveReplWr (s : State) (n : Nat) : State :=
  match servable s n with
  | some p => match p.msg with
    | .replWr asid line bytes die r =>
      let s1 := takeMsg s n
      let home := p.src
      let s2 := match xlate s1 home asid (line * 128) .read true with
        | (t, .ok ph) => memPut t (replAt ph die) bytes bytes.valid
        | (t, .error _) => t
      let more := fun (q : Pkt) => match q.msg with
        | .replWr _ _ _ _ r2 => r2.id == r.id && r2.wave == r.wave
        | _ => false
      if s2.net.inbox.any more || s2.net.wire.any more || s2.net.flows.any (fun f => f.reorder.any more || f.backlog.any more)
      then s2
      else if waveExists s2 r.wave then
        modWave s2 r.wave (fun x => { x with pend := x.pend.filter (fun y => y.id != r.id) })
      else s2
    | _ => s
  | none => s

/-- A replica die applies a multicast store; the last application acknowledges it (R95). -/
def execReplWr (n : Nat) (s : State) : Out := .next (serveReplWr s n)

/-- A command's registration is acknowledged (R93). -/
def cmdRegDone (s : State) (id : Nat) (e : Option (Nat × DWord)) : State :=
  { s with cores := s.cores.map (fun c => (c.1, { c.2 with score := c.2.score.map (fun x =>
      if x.regs.contains id then
        let y := { x with regs := x.regs.filter (fun y => y != id) }
        match e with
        | some v => if x.status < v.1 then { y with status := v.1, addr := v.2, sub := 0 } else y
        | none => y
      else x) })) }

/-- The agent that a copied word is registered to, as its home sees it: the core, or its die on another one (R68). -/
def regSetAgent (agent home : Nat) : Nat := if agentNode agent = home then agent else dieAgent agent

/-- The die of a registered foreign word records which core holds it (R68, R93). -/
def recordHolder (s : State) (agent home k : Nat) (m : Mask) : State :=
  if agentNode agent = home then s
  else modNode { s with proxies := (maskLanes m).foldl (fun t w => Tab.put t (wordKey (agentNode agent) k w) (agentUnit agent))
                          s.proxies } (agentNode agent)
    (fun n => { n with proxyLru := proxyRegion k :: n.proxyLru.filter (fun x => x != proxyRegion k) })

def serveRegSet (s : State) (n : Nat) : State :=
  match servable s n with
  | some p => match p.msg with
    | .regSet r asid line m agent keepV =>
      match redirected s n p asid line with
      | some t => t
      | none =>
        let k := lineKey asid line
        if nodeLost s p.dst then cmdRegDone (answeredId (takeMsg s n) r.id) r.id (some (6, vaFull (line * 128)))
        else match xlate s p.dst asid (line * 128) .write true with
        | (t, .error _) => cmdRegDone (answeredId (takeMsg t n) r.id) r.id none
        | (t, .ok ph) =>
          if keepV then cmdRegDone (answeredId (takeMsg t n) r.id) r.id none
          else
            let x := registerWords t p.dst k (regSetAgent agent p.dst) (agent, asid) ph m (lineOnly (homeData t p.dst k ph) (byteMask m))
              false
            if x.2.full then send (holdMsg (drainLru t p.dst) n) p.dst p.src .rsp 0 (.held r.id)
            else if x.2.wait then send (holdMsg t n) p.dst p.src .rsp 0 (.held r.id)
            else recordHolder (cmdRegDone (answeredId (takeMsg x.1 n) r.id) r.id none) agent p.dst k x.2.reg
    | _ => s
  | none => s

/-- REG_SET registers copied words at the home (R93). -/
def execRegSet (n : Nat) (s : State) : Out := .next (serveRegSet s n)

def serveHeld (s : State) (n : Nat) : State :=
  match servable s n with
  | some p => match p.msg with
    | .held id =>
      let s1 := takeMsg s n
      { s1 with net := { s1.net with outst := s1.net.outst.map (fun o =>
          if o.id == id then { o with since := nodeTime s1 o.pkt.src, held := true } else o) } }
    | _ => s
  | none => s

/-- HELD restarts the response timer of its request (R53). -/
def execHeld (n : Nat) (s : State) : Out := .next (serveHeld s n)

/-- The request number of a message that a unit may keep waiting. -/
def heldId : Msg → Option Nat
  | .regReq r .. => some r.id
  | .regSet r .. => some r.id
  | .acq r .. => some r.id
  | .rd r .. => some r.id
  | .tokAcq r .. => some r.id
  | .leaseReq _ _ _ _ _ _ _ req => some req
  | .gbarArr _ _ _ _ _ _ id _ => some id
  | _ => none

/-- Requests that a unit has taken up and keeps waiting: a token's waiters, lease requests, and arrivals of an open phase. Unit, requester's node
and request number (R90, R110, R393). -/
def waitingReqs (s : State) : List (Nat × Nat × Nat) :=
  s.tokens.flatMap (fun t => t.waiters.map (fun x => (t.node, agentNode x.1, x.2.2)))
    ++ s.grantWaits.map (fun g => (g.node, g.src, g.req))
    ++ s.gbars.flatMap (fun b => (b.arrived.filter (fun y => y.1 == s.mods.podId)).map (fun y =>
      (if b.node = 62 then roleHub s else b.node, agentNode y.2.2.1, y.2.2.2)))

/-- HELD goes again to the requester of a request that has been taken up: 500 us after the last reached it (R53). -/
def heldAgain (s : State) (x : Nat × Nat × Nat) : State :=
  let due := s.net.outst.any (fun o => o.id == x.2.2 && o.pkt.src == x.2.1 && decide (o.since + 500000 ≤ nodeTime s x.1))
  if due ∧ !inFlight s (fun m => m == .held x.2.2) ∧ !(getNode s x.1).halt then send s x.1 x.2.1 .rsp 0 (.held x.2.2) else s

/-- Arrivals of other modules at an open phase of this one's pod instance: module and request number (R393). -/
def podWaits (s : State) : List (Nat × Nat) :=
  s.gbars.flatMap (fun b => (b.arrived.filter (fun y => y.1 != s.mods.podId)).map (fun y => (y.1, y.2.2.2)))

/-- The k-th request that a unit keeps waiting is answered with HELD again, 500 us after the last (R53): the messages of the
inbox first, then those taken up, then those of other modules, whose requesters keep the time. -/
def execHeldResend (k : Nat) (s : State) : Out :=
  match s.net.inbox[k]? with
  | none => match (waitingReqs s)[k - s.net.inbox.length]? with
    | some x => .next (heldAgain s x)
    | none => match (podWaits s)[k - s.net.inbox.length - (waitingReqs s).length]? with
      | some y => .next (sendPkt s { src := roleHub s, dst := roleHub s, mod := some y.1, cls := .rsp, msg := .held y.2 } 0)
      | none => .next s
  | some p =>
    match heldId p.msg with
    | none => .next s
    | some i =>
      if !p.taken ∨ nodeTime s p.dst < p.since + 500000 then .next s
      else
        let s1 := { s with net := { s.net with inbox := listModify s.net.inbox k (fun q =>
                      { q with since := nodeTime s p.dst }) } }
        .next (send s1 p.dst p.src .rsp 0 (.held i))

/-! ## Periodic work of a home (R71, R72) -/

/-- The parent block of a region. -/
def parentBase (r : Region) : Nat := r.base / (2 * regionLines r.level) * (2 * regionLines r.level)

/-- No conflict of a region for 64 us (R71, R72). -/
def quietLong (r : Region) (now : Nat) : Bool := match r.quiet with
  | none => true
  | some q => decide (q + 64000 ≤ now)

/-- One merge of sibling regions at a node, when two qualify (R72): no conflict for 64 us. -/
def mergeOne (s : State) (node : Nat) : Option State :=
  let now := nodeTime s node
  let ok := fun (r : Region) => r.node == node && r.st == .owned && decide (0 < r.level) && quietLong r now
  firstSome (fun r =>
    if !ok r then none
    else
      let n := regionLines r.level
      let sib := if r.base = parentBase r then r.base + n else parentBase r
      let inside := s.regions.filter (fun x => x.node == node && x.asid == r.asid
        && decide (sib ≤ x.base) && decide (x.base < sib + n))
      let merged := { r with base := parentBase r, level := r.level - 1 }
      match inside with
      | [] => some { s with regions := merged :: s.regions.filter (fun x => !sameRegion x r) }
      | [x] =>
        if ok x && x.owner == r.owner && x.level == r.level then
          some { s with regions := merged :: s.regions.filter (fun y => !sameRegion y r && !sameRegion y x) }
        else none
      | _ => none) s.regions

/-- Merges until none qualifies; fuel bounds them by the number of regions. -/
def mergeAll : Nat → State → Nat → State
  | 0, s, _ => s
  | f + 1, s, node => match mergeOne s node with
    | some t => mergeAll f t node
    | none => s

/-- Once per microsecond the home merges qualifying siblings (R72). -/
def execRegionMergeCheck (node : Nat) (s : State) : Out :=
  if nodeTime s node < (getNode s node).mergeAt + 1000 ∨ (getNode s node).halt then .next s
  else .next (mergeAll (10 * s.regions.length) (modNode s node (fun x => { x with mergeAt := nodeTime s node })) node)

/-- A write-through line with no write for 64 us: freed when A owns no word in it, else OWNED again (R71). -/
def execWtLineTimeout (node k : Nat) (s : State) : Out :=
  match s.regions.find? (fun r => r.node == node && r.st == .wt && lineKey r.asid r.base == k) with
  | none => .next s
  | some r =>
    if !quietLong r (nodeTime s node) then .next s
    else if anyG s r.asid r.base 1 then
      .next { s with regions := s.regions.map (fun x => if sameRegion x r then { x with st := .owned } else x) }
    else .next (dropRegion s r)

end Sys2Proof.Machine
end

