-- ==== Sys2Proof/Machine/Lease.lean ====
section
/-! DEFINITION. Leases: the check in the core, requests, grants, renewal and expiry, standing leases, and the routing
of faults (R109-R117). -/

namespace Sys2Proof.Machine

/-! ## The check in the core (R113) -/

def kindPermits : LKind → LKind → Bool
  | .read, .read => true
  | .write, .read => true
  | .write, .write => true
  | .exec, .exec => true
  | _, _ => false

def kindCode : LKind → Nat
  | .read => 0 | .write => 1 | .exec => 2

def kindOf (n : Nat) : LKind := if n = 1 then .write else if n = 2 then .exec else .read

/-- A part as the holder sees it: live below E - 2 us of its own package time (R115). -/
def partLive (s : State) (node : Nat) (p : LeasePart) : Bool :=
  !p.lost && !p.pending && decide (nodeTime s node + 2000 < p.e)

/-- The parts that cover accesses of a wave, with whether each is live: its task's and its context's (R113). A wave
without a task is checked against the standing leases alone (R178). -/
def wavePartsOf (s : State) (asid : Nat) (task : Option Nat) : List (LeasePart × Bool) :=
  let standing := (getCtx s asid).leases.flatMap (fun e => e.2.parts.map (fun p => (p, partLive s (roleHub s) p)))
  match task with
  | none => standing
  | some t => match getTask s t with
    | none => standing
    | some x => x.parts.map (fun p => (p, partLive s x.die p)) ++ standing

/-- The end of the bytes from `v` on that a part covers, none when it does not cover `v` (R109). -/
def partCover (p : LeasePart) (v : Nat) : Option Nat :=
  if v < p.range.lo ∨ p.range.hi ≤ v then none
  else if p.ent = 0 then some p.range.hi
  else if entHome 0 (homeEnt p.ent) (v / 65536) = some p.grantor then some (min p.range.hi ((v / 65536 + 1) * 65536))
  else none

/-- The first byte of [lo, hi) that no part covers; fuel bounds the steps. -/
def uncovered (ps : List LeasePart) : Nat → Nat → Nat → Option Nat
  | 0, lo, hi => if lo < hi then some lo else none
  | fuel + 1, lo, hi =>
    if hi ≤ lo then none
    else match maxBy (fun e => e) (ps.filterMap (fun p => partCover p lo)) with
      | none => some lo
      | some e => uncovered ps fuel e hi

/-- Lease(a, kind, n) over 54-bit addresses: the cause and address of the failure (R113). -/
def leaseFail (ps : List (LeasePart × Bool)) (kind : LKind) (lo n : Nat) : Option (Nat × Nat) :=
  let ok := ps.filter (fun p => kindPermits p.1.kind kind && !p.1.pending)
  let all := ok.map Prod.fst
  let live := (ok.filter (·.2)).map Prod.fst
  let steps := all.length + n / 65536 + 2
  match uncovered live steps lo (lo + n) with
  | none => none
  | some u => match uncovered all steps lo (lo + n) with
    | none => some (cLeaseLost, u)
    | some v => if u < v then some (cLeaseLost, u) else some (cLeaseViolation, v)

/-- The check of an access of `n` bytes (R98, R113). -/
def leaseCheck (s : State) (asid : Nat) (task : Option Nat) (kind : LKind) (va : DWord) (n : Nat) :
    Option (Nat × DWord) :=
  if !canonical va ∨ !canonical (va + BitVec.ofNat 64 (n - 1)) then some (cLeaseViolation, va)
  else if va54 va + n > 2 ^ 54 then some (cLeaseViolation, va)
  else (leaseFail (wavePartsOf s asid task) kind (va54 va) n).map (fun x => (x.1, vaFull x.2))

/-- The grant that an access of a compute core carries (R114). -/
def carriedGrant (s : State) (asid : Nat) (task : Option Nat) (kind : LKind) (v : Nat) : Option (Nat × Nat) :=
  firstSome (fun p => if p.2 && kindPermits p.1.kind kind && (partCover p.1 v).isSome
    then some (p.1.grantor, p.1.req) else none) (wavePartsOf s asid task)

/-! ## Holders -/

/-- Holders as numbers in messages. -/
def holderCode : LHolder → Nat
  | .task id => 2 * id
  | .standing a k => 2 * (a * 16 + k) + 1

def holderOf (n : Nat) : LHolder := if n % 2 = 0 then .task (n / 2) else .standing (n / 32) (n / 2 % 16)

def holderAsid (s : State) : LHolder → Nat
  | .task id => match getTask s id with
    | some t => t.asid
    | none => 0
  | .standing a _ => a

/-- The node whose lease table keeps a holder's leases: the task's die, or the module task unit's hub (R112, R115). -/
def holderNode (s : State) : LHolder → Nat
  | .task id => match getTask s id with
    | some t => t.die
    | none => roleHub s
  | .standing _ _ => roleHub s

def holderParts (s : State) : LHolder → List LeasePart
  | .task id => match getTask s id with
    | some t => t.parts
    | none => []
  | .standing a k => (Tab.get {} (getCtx s a).leases k).parts

def setHolderParts (s : State) (h : LHolder) (ps : List LeasePart) : State :=
  match h with
  | .task id => modTask s id (fun t => { t with parts := ps })
  | .standing a k => modCtx s a (fun c =>
      { c with leases := Tab.modify {} c.leases k (fun x => { x with parts := ps }) })

def modPart (s : State) (h : LHolder) (i : Nat) (f : LeasePart → LeasePart) : State :=
  setHolderParts s h (listModify (holderParts s h) i f)

/-! ## STAT of a standing lease (R112) -/

/-- 00 pending, 01 granted, 10 failed, 11 lost. -/
def standingStat (x : Standing) : Nat :=
  if !x.reg.getLsbD 63 then 0
  else if x.fault.isSome then 2
  else if x.parts.any (·.lost) then 3
  else if x.parts.isEmpty || x.parts.any (·.pending) then 0
  else 1

/-! ## Requests (R109-R112) -/

/-- The entry of a home map that homes `v`, and the end of the run of addresses from `v` that it, or none, homes. -/
def homeRun (t : Tab (BitVec 128)) (v hi : Nat) : Option (BitVec 128) × Nat :=
  let g := v / 65536
  match t.find? (fun e => (entHome 48 (homeEnt e.2) g).isSome) with
  | some e => (some e.2, min hi (((homeEnt e.2).base + (homeEnt e.2).count) * 65536))
  | none =>
    let next := minBy (fun b => b) ((t.map (fun e => (homeEnt e.2).base)).filter (fun b => decide (g < b)))
    (none, match next with
      | some b => min hi (b * 65536)
      | none => hi)

/-- A range cut into the runs of the entries of a home map (R109). Fuel bounds the runs. -/
def cutHomes (t : Tab (BitVec 128)) : Nat → Nat → Nat → List (Option (BitVec 128) × Range)
  | 0, _, _ => []
  | fuel + 1, lo, hi =>
    if hi ≤ lo then []
    else
      let r := homeRun t lo hi
      (r.1, { lo := lo, hi := r.2 }) :: cutHomes t fuel r.2 hi

/-- The parts of a run: one from each home (R109). A stripe passes all its dies in as many granules. -/
def runParts (host : Nat) (x : BitVec 128) (r : Range) (kind : LKind) : List LeasePart :=
  let g := r.lo / 65536
  let part := fun (ent : BitVec 128) (d lo : Nat) =>
    ({ range := { lo := lo, hi := r.hi }, ent := ent, kind := kind, grantor := d, num := 0, e := 0, pending := true } : LeasePart)
  if (homeEnt x).policy = 2 then
    (List.range (min ((r.hi + 65535) / 65536 - g) (stripeDies (homeEnt x).dies).length)).filterMap (fun i =>
      (entHome host (homeEnt x) (g + i)).map (fun d => part x d (max r.lo ((g + i) * 65536))))
  else ((entHome host (homeEnt x) g).map (fun d => part 0 d r.lo)).toList

/-- The parts of a range, and the lowest address without a home (R111). -/
def rangeParts (s : State) (asid0 lo n : Nat) (kind : LKind) : List LeasePart × Option Nat :=
  let t := (getCtx s (if bitOf lo 53 then 0 else asid0)).home
  let runs := cutHomes t (2 * t.length + 2) lo (lo + n)
  (runs.flatMap (fun r => match r.1 with
    | some x => runParts (roleHub s) x r.2 kind
    | none => []),
   firstSome (fun r => if r.1.isNone then some r.2.lo else none) runs)

/-- The requests of a holder's pending parts are sent, each under a number of its own (R111). -/
def sendLeaseReqs (s : State) (h : LHolder) : State :=
  let node := holderNode s h
  let code := holderCode h
  ((List.range (holderParts s h).length).zip (holderParts s h)).foldl (fun t x =>
    if x.2.pending then
      let r := freshReq t
      sendReq (modPart r.1 h x.1 (fun p => { p with req := r.2 })) node x.2.grantor .req (holderAsid s h) x.2.range.lo r.2
        (.leaseReq code (holderAsid s h) x.2.range.lo x.2.range.hi (kindCode x.2.kind) x.1 x.2.ent r.2)
    else t) s

/-- A message about a lease that a holder has asked for. -/
def leaseMsgOf (code : Nat) (m : Msg) : Bool :=
  match m with
  | .leaseReq h _ _ _ _ _ _ _ => h == code
  | .grant h _ _ _ _ => h == code
  | .leaseFault h _ _ _ _ => h == code
  | _ => false

/-- The leases of a holder end, and with them the requests that no grantor has answered yet (R111, R173, R183). -/
def endLeases (s : State) (h : LHolder) : State :=
  let mine := fun (p : Pkt) => leaseMsgOf (holderCode h) p.msg
  let s1 : State := { s with
    grants := s.grants.filter (fun g => g.holder != h)
    grantWaits := s.grantWaits.filter (fun g => g.holder != h)
    net := { s.net with inbox := s.net.inbox.filter (fun p => !mine p), outst := s.net.outst.filter (fun o => !mine o.pkt) }
    rehome := s.rehome.map (fun r => { r with held := r.held.filter (fun p => !mine p) }) }
  setHolderParts s1 h []

/-! ## Routing of faults (R117) -/

/-- The fields of an entry of the ownership table (R117). -/
def arotHits (x : ArotEnt) (asid v : Nat) : Bool :=
  let n := bitsOf x.toNat 92 6
  let base := bitsOf x.toNat 16 38 * 65536
  let lo := base / 2 ^ n * 2 ^ n
  x.getLsbD 127 && bitsOf x.toNat 98 14 == asid && decide (lo ≤ v) && decide (v < lo + 2 ^ n)
    && (asid != 0 || bitOf v 53)

/-- The module and hub of the fault processor for a fault: the valid entry of lowest index that covers it. A fault in the
shared space is one of ASID 0 (R98). -/
def faultRoute (s : State) (asid v : Nat) : Nat × Nat :=
  match firstSome (fun e => if arotHits e.2 (if bitOf v 53 then 0 else asid) v then some (bitsOf e.2.toNat 86 6, bitsOf e.2.toNat 85 1) else none)
      s.arot with
  | some r => r
  | none => (s.mods.podId, roleHub s - 48)

/-- A translation or lease-grant fault is routed (R117). The result names the SEQ that the answer will carry, or none
when the module cannot be reached, which counts as DENIED. A fault that goes to another module is sent there. -/
def routeFault (s : State) (origin sub xkind asid v : Nat) (agent : Nat) (task : Word) (who : AnsFor) :
    State × Option Nat :=
  let r := faultRoute s asid v
  if r.1 = s.mods.podId then
    let x := postFaultAt s (48 + r.2)
        { cause := cLeaseViolation, sub := sub, origin := origin, addr := vaFull v, agent := agent, asid := asid,
          xkind := xkind, task := task } (some who)
    (x.1, some x.2)
  else if moduleReachable s r.1 then
    let q := s.flt.nextSeq
    let t : State := { s with flt := { s.flt with nextSeq := (q + 1) % 2 ^ 32, awaiting := s.flt.awaiting ++ [(q, who)] } }
    (sendPkt t { src := agentNode agent, dst := roleHub t, mod := some r.1, cls := .req,
                 msg := .fault r.2 origin sub xkind asid (vaFull v) agent task q } v, some q)
  else (s, none)

/-! ## The grantor (R110, R111, R119) -/

def isTask : LHolder → Bool
  | .task _ => true
  | .standing _ _ => false

/-- Two leases conflict (R110): both of tasks, of different tasks, one of them WRITE, overlapping. -/
def grantsConflict (a b : Grant) : Bool :=
  isTask a.holder && isTask b.holder && a.holder != b.holder && a.asid == b.asid
    && (a.kind == .write || b.kind == .write)
    && grantMeets a b.range.lo b.range.hi && grantMeets b a.range.lo a.range.hi

/-- A request conflicts with a live lease or an earlier waiting request, or an atinv covers part of it (R110, R119). -/
def grantBarred (s : State) (g : Grant) (earlier : List Grant) : Bool :=
  s.grants.any (fun x => x.node == g.node && x.live && grantsConflict x g)
    || earlier.any (fun x => x.node == g.node && grantsConflict x g)
    || (isTask g.holder && s.atinvs.any (fun x => x.asid == g.asid && grantMeets g x.range.lo x.range.hi))

/-- Waiting requests of a list, in arrival order, that wait for nothing but an entry; `seen` came before them. -/
def entryWaiters (s : State) (seen : List Grant) : List Grant → Nat
  | [] => 0
  | g :: t => b2n (!grantBarred s g seen) + entryWaiters s (seen ++ [g]) t

/-- Lease entries of a C-die's grantor (R110). -/
def leaseEntries : Nat := 32768

/-- A request may not be granted while something stands against it, or while no entry is free that those before it do not wait
for (R110). -/
def grantBlocked (s : State) (g : Grant) (earlier : List Grant) : Bool :=
  let mine := earlier.filter (fun x => x.node == g.node)
  grantBarred s g mine
    || decide (leaseEntries ≤ (s.grants.filter (fun x => x.node == g.node)).length + entryWaiters s [] mine)

def accOf : LKind → Acc
  | .read => .read | .write => .write | .exec => .exec

/-- The walks of a lease part (R111): every page of the range, of a striped one every page of its granules; translations stay in
the TLB. The result is the fault kind and address, if any. Fuel bounds the pages. -/
def leaseWalk (s : State) (node asid : Nat) (ent : BitVec 128) (acc : Acc) : Nat → Nat → Nat → State × Option (Nat × Nat)
  | 0, _, _ => (s, none)
  | fuel + 1, lo, hi =>
    if hi ≤ lo then (s, none)
    else if !partMeets ent node lo (min hi ((lo / 65536 + 1) * 65536)) then
      leaseWalk s node asid ent acc fuel ((lo / 65536 + 1) * 65536) hi
    else
      let r := xlate s node asid lo acc false
      match r.2 with
      | .error k => (r.1, some (k, lo))
      | .ok _ =>
        let size := match tlbFind r.1 node asid lo with
          | some x => if ent = 0 then x.size else 65536
          | none => 65536
        leaseWalk r.1 node asid ent acc fuel ((lo / size + 1) * size) hi

/-- The walks of a request. -/
def grantWalk (s : State) (g : Grant) : State × Option (Nat × Nat) :=
  leaseWalk s g.node g.asid g.ent (accOf g.kind) ((g.range.hi - g.range.lo) / 65536 + 2) g.range.lo g.range.hi

/-- The lowest grant number that no lease of a node uses, else the next in turn: 256 numbers stand for up to 32,768 leases, so
that a number alone names none (assumption log 82). -/
def freeNum (s : State) (node : Nat) : Nat :=
  let used := (s.grants.filter (fun g => g.node == node)).map (·.num)
  ((List.range 256).find? (fun n => !used.contains n)).getD (used.length % 256)

/-- The grantor grants a part: a number, and E one term from now (R111, R115). -/
def makeGrant (s : State) (g : Grant) : State :=
  let e := nodeTime s g.node + 1000000
  let n := freeNum s g.node
  let s1 := { s with grants := s.grants ++ [{ g with num := n, e := e, live := true }] }
  send s1 g.node (holderNode s1 g.holder) .rsp g.range.lo (.grant (holderCode g.holder) g.part n e g.req)

/-- A lease request is walked and granted, or its fault answered. -/
def walkAndGrant (s : State) (g : Grant) : State :=
  let r := grantWalk s g
  match r.2 with
  | some (k, v) =>
    send r.1 g.node (holderNode r.1 g.holder) .rsp g.range.lo (.leaseFault (holderCode g.holder) g.part k v g.req)
  | none => makeGrant r.1 g

def serveLeaseReq (s : State) (n : Nat) : State :=
  match servable s n with
  | some p => match p.msg with
    | .leaseReq h asid lo hi kind part ent req =>
      let s1 := takeMsg s n
      let asid1 := if bitOf lo 53 then 0 else asid
      let g : Grant := { node := p.dst, num := 0, req := req, src := p.src, asid := asid1, range := { lo := lo, hi := hi },
                         ent := ent, kind := kindOf kind, holder := holderOf h, part := part, e := 0, live := false }
      if grantBlocked s1 g s1.grantWaits then
        let r := grantWalk s1 g
        match r.2 with
        | some (k, v) => send r.1 p.dst p.src .rsp lo (.leaseFault h part k v req)
        | none => send { r.1 with grantWaits := r.1.grantWaits ++ [g] } p.dst p.src .rsp lo (.held req)
      else walkAndGrant s1 g
    | _ => s
  | none => s

/-- A lease request reaches its grantor, which walks the pages and grants, queues or faults (R110, R111). A request that must
wait is walked when it arrives and again when it is granted (assumption log 86). -/
def execLeaseRequest (n : Nat) (s : State) : Out := .next (serveLeaseReq s n)

/-- The k-th waiting request of a grantor is granted once nothing stands against it (R110). -/
def execLeaseWaitGranted (node k : Nat) (s : State) : Out :=
  match (s.grantWaits.filter (fun g => g.node == node))[k]? with
  | none => .next s
  | some g =>
    let earlier := (s.grantWaits.filter (fun x => x.node == node)).take k
    if grantBlocked s g earlier ∨ (getNode s node).halt then .next s
    else .next (walkAndGrant { s with grantWaits := s.grantWaits.filter (fun x => x != g) } g)

def serveLeaseGrant (s : State) (n : Nat) : State :=
  match servable s n with
  | some p => match p.msg with
    | .grant h part num e req =>
      modPart (answeredId (takeMsg s n) req) (holderOf h) part (fun x =>
        if x.req = req then { x with num := num, e := e, grantor := p.src, pending := false } else x)
    | _ => s
  | none => s

/-- GRANT reaches the holder (R111). A lease that an `atinv` has marked lost meanwhile stays lost (R119). -/
def execLeaseGrant (n : Nat) (s : State) : Out := .next (serveLeaseGrant s n)

/-! ## Tasks that go (R173, R179) -/

/-- `task` and `ttype` of the record of a command (R172, R254). -/
def taskWord (t : Task) : Word :=
  BitVec.ofNat 32 (t.handle.toNat / 2 ^ 16 * 2 ^ 16 + t.seq % 65536)

def taskType (rec_ : List Byte) : Nat := fieldAt rec_ 0 2 % 4096

/-- A phase that is closed and has no task left gives its variant's measurement (R179). -/
def settlePhases (v : VarSel) : VarSel :=
  let done := v.phases.filter (fun p => p.closed && p.running == 0)
  { v with phases := v.phases.filter (fun p => !(p.closed && p.running == 0)),
           last := done.foldl (fun t p => Tab.put t p.variant (t.foldl (fun n x => max n x.2.1) 0 + 1, p.ended - p.start)) v.last }

/-- A task of phase `x.2` of the selection state `x.1` has ended at time `now`. -/
def phaseTaskDone (s : State) (asid ttype : Nat) (x : Nat × Nat) (now : Nat) : State :=
  { s with varsels := s.varsels.map (fun v =>
      if v.asid == asid && v.ttype == ttype && v.gen == x.1 then
        settlePhases { v with phases := v.phases.map (fun p =>
          if p.j == x.2 then { p with running := p.running - 1, ended := now } else p) }
      else v) }

/-- A task goes: its leases end, and its phase has one task less. -/
def taskGone (s : State) (id : Nat) : State :=
  match getTask s id with
  | none => s
  | some t =>
    let s1 := endLeases s (.task id)
    let s2 := { s1 with tasks := Tab.erase s1.tasks id }
    match t.phase with
    | none => s2
    | some j => phaseTaskDone s2 t.asid (taskType t.rec_) j (nodeTime s2 (roleHub s2))

/-- DENIED: the task is not started, and a record of origin 3 is posted (R111, R254). -/
def taskDenied (s : State) (id sub xkind : Nat) (addr : DWord) : State :=
  match getTask s id with
  | none => s
  | some t =>
    taskGone (postFault s { cause := cLeaseViolation, sub := sub, origin := 3, addr := addr, xkind := xkind, asid := t.asid,
                            task := taskWord t, agent := agentId s t.die 127 } none).1 id

/-- A lease request faulted: the task's other leases go and the fault is routed; a standing entry fails (R111,
R112). -/
def leaseFaulted (s : State) (h : LHolder) (kind : LKind) (xkind v : Nat) : State :=
  match h with
  | .task id =>
    match getTask s id with
    | none => s
    | some t =>
      let s1 := endLeases s h
      let r := routeFault s1 2 (kindCode kind) xkind t.asid v (agentId s1 t.die 127) (taskWord t) (.task id)
      match r.2 with
      | some q => modTask r.1 id (fun t => { t with st := .faulted q (kindCode kind) xkind (vaFull v) })
      | none => taskDenied r.1 id (kindCode kind) xkind (vaFull v)
  | .standing a k =>
    let s1 := endLeases s h
    let r := routeFault s1 2 (kindCode kind) xkind a v (agentId s1 (roleHub s1) 127) 0 (.standing a k)
    modCtx r.1 a (fun c => { c with leases := Tab.modify {} c.leases k (fun x =>
      { x with fault := some (r.2.getD (2 ^ 32)) }) })

/-- A holder's ranges are requested: parts without a home fault at once with kind 0x07 (R111). -/
def requestRanges (s : State) (h : LHolder) (asid : Nat) (rs : List (Nat × Nat × LKind)) : State :=
  let ps := rs.map (fun r => (r.2.2, rangeParts s asid r.1 r.2.1 r.2.2))
  match firstSome (fun x => x.2.2.map (fun v => (x.1, v))) ps with
  | some (k, v) => leaseFaulted s h k 7 v
  | none =>
    let s1 := setHolderParts s h (ps.flatMap (fun x => x.2.1))
    sendLeaseReqs s1 h

def serveLeaseFault (s : State) (n : Nat) : State :=
  match servable s n with
  | some p => match p.msg with
    | .leaseFault h part xkind v req =>
      let s1 := answeredId (takeMsg s n) req
      match (holderParts s1 (holderOf h))[part]? with
      | none => s1
      | some x => if x.req = req then leaseFaulted s1 (holderOf h) x.kind xkind v else s1
    | _ => s
  | none => s

/-- A lease walk faulted: other leases are released and the fault is routed (R111). -/
def execLeaseFaultAnswer (n : Nat) (s : State) : Out := .next (serveLeaseFault s n)

/-! ## Renewal and expiry (R115, R116) -/

/-- The parts in the lease table of a node, with their holders. -/
def nodeParts (s : State) (node : Nat) : List (LHolder × Nat × LeasePart) :=
  let of := fun (h : LHolder) => ((List.range (holderParts s h).length).zip (holderParts s h)).map (fun x => (h, x.1, x.2))
  let tasks := s.tasks.filterMap (fun t => if t.2.die == node then some (LHolder.task t.1) else none)
  let standing := if node = roleHub s then
      s.ctxs.flatMap (fun c => c.2.leases.map (fun l => LHolder.standing c.1 l.1)) else []
  (tasks ++ standing).flatMap of

/-- The holder's package time reaches E - 500 us: it sends RENEW with that time (R115). -/
def execLeaseRenewDue (node k : Nat) (s : State) : Out :=
  match (nodeParts s node)[k]? with
  | none => .next s
  | some (h, i, p) =>
    if p.lost ∨ p.pending ∨ p.renewing ∨ nodeTime s node + 500000 < p.e ∨ (getNode s node).dbgHold then .next s
    else
      let s1 := modPart s h i (fun x => { x with renewing := true })
      .next (send s1 node p.grantor .req p.range.lo (.renew node p.req (nodeTime s node)))

def serveRenew (s : State) (n : Nat) : State :=
  match servable s n with
  | some p => match p.msg with
    | .renew node req h =>
      let s1 := takeMsg s n
      let now := nodeTime s1 p.dst
      let close := decide (h ≤ now + 2000) && decide (now ≤ h + 2000)
      let e := if close then now + 1000000 else now
      let hit := fun (g : Grant) => g.node == p.dst && g.req == req && g.live
      if !s1.grants.any hit then send s1 p.dst p.src .rsp 0 (.leaseLost node req)
      else
        let s2 := { s1 with grants := s1.grants.map (fun g => if hit g then { g with e := e } else g) }
        send s2 p.dst p.src .rsp 0 (if close then .renewed node req e else .leaseLost node req)
    | _ => s
  | none => s

/-- RENEW: the grantor compares the times and answers RENEWED or LOST (R115). -/
def execRenew (n : Nat) (s : State) : Out := .next (serveRenew s n)

/-- The part of a node that a grantor granted to a request is changed. -/
def modNodeParts (s : State) (node grantor req : Nat) (f : LeasePart → LeasePart) : State :=
  (nodeParts s node).foldl (fun t x =>
    if x.2.2.grantor == grantor && x.2.2.req == req then modPart t x.1 x.2.1 f else t) s

def serveRenewed (s : State) (n : Nat) : State :=
  match servable s n with
  | some p => match p.msg with
    | .renewed node req e =>
      modNodeParts (takeMsg s n) node p.src req (fun x => if x.lost then x else { x with e := e, renewing := false })
    | _ => s
  | none => s

/-- RENEWED: the holder takes the new expiry (R115). -/
def execRenewed (n : Nat) (s : State) : Out := .next (serveRenewed s n)

def serveLeaseLost (s : State) (n : Nat) : State :=
  match servable s n with
  | some p => match p.msg with
    | .leaseLost node req => modNodeParts (takeMsg s n) node p.src req (fun x => { x with lost := true, renewing := false })
    | _ => s
  | none => s

/-- LOST: the holder marks the lease lost at once (R115). -/
def execLeaseLostAnswer (n : Nat) (s : State) : Out := .next (serveLeaseLost s n)

/-- At E - 2 us with no renewal answered the holder marks the lease lost (R115). -/
def execLeaseHolderExpiry (node k : Nat) (s : State) : Out :=
  match (nodeParts s node)[k]? with
  | none => .next s
  | some (h, i, p) =>
    if p.pending ∨ nodeTime s node + 2000 < p.e then .next s
    else .next (modPart s h i (fun x => { x with lost := true }))

/-- At E + 2 us the grantor frees the lease, and waiting requests proceed (R115). -/
def execLeaseGrantorExpiry (node k : Nat) (s : State) : Out :=
  match (s.grants.filter (fun g => g.node == node))[k]? with
  | none => .next s
  | some g =>
    if nodeTime s node < g.e + 2000 then .next s
    else .next { s with grants := s.grants.filter (fun x => x != g) }

/-- Every lease that a node holds is marked lost (R116). -/
def loseHeld (s : State) (node : Nat) : State :=
  (nodeParts s node).foldl (fun t x => modPart t x.1 x.2.1 (fun p => { p with lost := true })) s

/-- Every lease that a node granted is lost at its holders (R116). -/
def loseGranted (s : State) (grantor : Nat) : State :=
  let s1 := { s with grants := s.grants.filter (fun g => g.node != grantor),
                     grantWaits := s.grantWaits.filter (fun g => g.node != grantor) }
  allNodes.foldl (fun t n => (nodeParts t n).foldl (fun u x =>
    if x.2.2.grantor == grantor then modPart u x.1 x.2.1 (fun p => { p with lost := true }) else u) t) s1

/-! ## Standing leases (R112) -/

/-- The range of a CTX_LEASE value; none when the entry is not valid. -/
def standingRange (x : DWord) : Option (Nat × Nat × LKind) :=
  if !x.getLsbD 63 then none
  else
    let n := bitsOf x.toNat 54 6
    let base := bitsOf x.toNat 16 38 * 65536
    some (base / 2 ^ n * 2 ^ n, 2 ^ n, kindOf (bitsOf x.toNat 61 2))

/-- The value that a write of CTX_LEASE stores: an invalid KIND or SIZE clears VALID, STAT is read-only, and reserved bits
read zero (R6). -/
def standingStore (x : DWord) : DWord :=
  let n := bitsOf x.toNat 54 6
  let y := x &&& 0xEFFFFFFFFFFF0000#64
  if n < 16 ∨ 53 < n ∨ bitsOf x.toNat 61 2 = 3 then y &&& ~~~((1#64) <<< 63) else y

/-- A write of CTX_LEASE[k]: the old lease ends; a valid entry is requested (R112). -/
def writeStanding (s : State) (asid k : Nat) (x : DWord) : State :=
  let h := LHolder.standing asid k
  let s1 := endLeases s h
  let v := standingStore x
  let s2 := { s1 with flt := { s1.flt with awaiting := s1.flt.awaiting.filter (fun a => a.2 != .standing asid k) } }
  let s3 := modCtx s2 asid (fun c => { c with leases := Tab.set {} c.leases k { reg := v } })
  match standingRange v with
  | none => s3
  | some r => requestRanges s3 h asid [r]

/-- The lease of a standing entry is requested again (R112, RESOLVED). -/
def retryStanding (s : State) (asid k : Nat) : State :=
  let x := Tab.get {} (getCtx s asid).leases k
  let s1 := modCtx s asid (fun c => { c with leases := Tab.modify {} c.leases k (fun y => { y with fault := none }) })
  match standingRange x.reg with
  | none => s1
  | some r => requestRanges s1 (.standing asid k) asid [r]

end Sys2Proof.Machine
end

