-- ==== Sys2Proof/Machine/Queue.lean ====
section
/-! DEFINITION. Hardware queues: handles, slots, enqueue, publish, take, dead letters (R150-R163, R464). -/

namespace Sys2Proof.Machine

/-! ## Handles and counters (R150, R152) -/

def handleDie (h : Word) : Nat := h.toNat / 2 ^ 27
/-- The key of a queue index: die * 2048 + index. -/
def handleKey (h : Word) : Nat := h.toNat / 2 ^ 16
def handleSlot (h : Word) : Nat := bitsOf h.toNat 6 10
def makeHandle (die idx slot gen : Nat) : Word := BitVec.ofNat 32 (die * 2 ^ 27 + idx * 2 ^ 16 + slot * 64 + gen)

/-- The live queue that a handle matches in all 32 bits. -/
def queueOf (s : State) (h : Word) : Option Queue :=
  match (getQidx s (handleKey h)).q with
  | some q => if q.handle = h then some q else none
  | none => none

def setQueue (s : State) (q : Queue) : State := modQidx s (handleKey q.handle) (fun x => { x with q := some q })

def ringN (q : Queue) : Nat := 2 ^ q.log2n
def ringPos (q : Queue) (seq : Nat) : Nat := seq % ringN q
def ringVa (q : Queue) (seq : Nat) : Nat := q.base + 64 * ringPos q seq
def seqAdd (a n : Nat) : Nat := (a + n) % 2 ^ 32
def seqSub (a b : Nat) : Nat := (a + 2 ^ 32 - b) % 2 ^ 32
def ringFree (q : Queue) : Nat := ringN q - seqSub q.rsv q.head
def slotAt (q : Queue) (seq : Nat) : Option Slot := Tab.find q.slots (ringPos q seq)
def putSlot (q : Queue) (seq : Nat) (x : Slot) : Queue := { q with slots := Tab.put q.slots (ringPos q seq) x }

/-- A sequence number of the ring, from HEAD up to RSV. -/
def inRing (q : Queue) (seq : Nat) : Bool := decide (seqSub seq q.head < seqSub q.rsv q.head)

/-- Sequence numbers from `a` up to `b`. -/
def seqRange (a b : Nat) : List Nat := (List.range (seqSub b a)).map (fun i => seqAdd a i)

/-- DEPTH: visible records not yet taken (R152). -/
def ringDepth (q : Queue) : Nat :=
  ((seqRange q.head q.pub).filter (fun n => (slotAt q n).any (fun x => x.st == .visible))).length

/-- PUB passes published slots, which become VISIBLE (R159). Fuel bounds their number. -/
def advancePub (now : Nat) : Nat → Queue → Queue
  | 0, q => q
  | f + 1, q =>
    if q.pub = q.rsv then q
    else match slotAt q q.pub with
      | some x => if x.st = .published then
          advancePub now f { putSlot q q.pub { x with st := .visible, visAt := now } with pub := seqAdd q.pub 1 } else q
      | none => q

/-- HEAD passes taken slots, which become FREE (R159). -/
def advanceHead : Nat → Queue → Queue
  | 0, q => q
  | f + 1, q =>
    if q.head = q.pub then q
    else match slotAt q q.head with
      | some x => if x.st = .taken then
          advanceHead f { q with slots := Tab.erase q.slots (ringPos q q.head), head := seqAdd q.head 1 } else q
      | none => q

def settle (now : Nat) (q : Queue) : Queue :=
  let q1 := advancePub now (seqSub q.rsv q.pub) q
  advanceHead (seqSub q1.pub q1.head) q1

/-- Slots are reserved for new records: earlier releasers of the slots go, pending ones stay (R161). -/
def reserveSlots (q : Queue) (n : Nat) (sender : Word) : Queue :=
  let q1 := (List.range n).foldl (fun t i =>
    let k := seqAdd q.rsv i
    let t1 := putSlot t k { st := .reserved, sender := sender }
    { t1 with rels := Tab.modify {} t1.rels (ringPos q k) (fun r => { r with ents := [] }) }) q
  { q1 with rsv := seqAdd q.rsv n }

/-! ## Dead letters (R163) -/

/-- Queue codes (R162, R396). -/
def qOk : Nat := 0x00
def qAbsent : Nat := 0x01
def qFull : Nat := 0x02
def qCheck : Nat := 0x03
def qDieLost : Nat := 0x04
def qUnreach : Nat := 0x05
def qBadType : Nat := 0x06
def qBadRange : Nat := 0x07
def qAffinity : Nat := 0x08
def qMalformed : Nat := 0x09
def qDestroyed : Nat := 0x0A
def qRingFault : Nat := 0x0B

/-- A dead letter is written into the context's ring by R463, or dropped and counted. -/
def deadLetter (s : State) (asid : Nat) (rec_ : List Byte) (h : Word) (code : Nat) (sender : Word) (node : Nat) : State :=
  let c := getCtx s asid
  let size := bitsOf c.dlq.toNat 0 5
  let drop := fun (t : State) => modCtx t asid (fun c => { c with dlqLost := satInc 32 c.dlqLost 1 })
  if size < 4 ∨ 16 < size then drop s
  else
    let at_ := bitsOf c.dlq.toNat 12 42 * 4096 + 128 * (c.dlqHead.toNat % 2 ^ size)
    let ent := padTo 64 rec_ ++ bytesOf 4 h ++ bytesOfNat 1 code ++ List.replicate 3 0 ++ bytesOf 4 sender
      ++ List.replicate 4 0 ++ bytesOfNat 8 (nodeTime s node) ++ List.replicate 40 0
    let r := unitWrite s asid (vaFull at_) ent
    match r.2 with
    | some _ => drop r.1
    | none =>
      let s1 := modCtx r.1 asid (fun c => { c with dlqHead := c.dlqHead + 1 })
      if sender.getLsbD 31 then signalMsix s1 (sender.toNat % 64) 0 else s1

/-- The fault record of a ring access that failed (R464). -/
def ringFault (s : State) (q : Queue) (seq : Nat) (e : UnitErr) : State :=
  (postFault s { cause := e.cause, sub := e.sub, origin := 7, addr := vaFull (ringVa q seq), asid := q.asid,
                 xkind := e.xkind, agent := agentId s (handleDie q.handle) 127 } none).1

/-! ## Enqueue (R160-R162) -/

/-- The code of an operation that addresses a handle, before the queue is looked at (R155, R162). -/
def handleCode (s : State) (h : Word) : Nat :=
  let d := handleDie h
  let x := getQidx s (handleKey h)
  if !nodeActive s d ∨ x.quar.any (·.lost) then qDieLost
  else match queueOf s h with
    | none => qAbsent
    | some _ => qOk

/-- The code of an enqueue by a sender with a key slot. -/
def enqueueCode (s : State) (h : Word) (slot : Nat) : Nat :=
  let d := handleDie h
  let x := getQidx s (handleKey h)
  if !nodeActive s d ∨ x.quar.any (·.lost) then qDieLost
  else match x.q with
    | none => qAbsent
    | some q =>
      if q.handle.toNat % 64 ≠ h.toNat % 64 ∨ x.quar.isSome then qAbsent
      else if handleSlot h ≠ slot then qCheck
      else if q.handle ≠ h then qAbsent
      else if ringFree q < 1 then qFull
      else qOk

/-- Releasers are entered at a slot, its own point of record (R161). -/
def recordSlot (s : State) (h : Word) (seq : Nat) (ents : List RelEnt) : State :=
  match queueOf s h with
  | none => s
  | some q =>
    let r := relInsert (Tab.get {} q.rels (ringPos q seq)) ents s.nextReq
    let s1 : State := { s with nextReq := s.nextReq + 1 }
    drainOut (setQueue s1 { q with rels := Tab.set {} q.rels (ringPos q seq) r.1 }) (handleDie h) q.asid (ringVa q seq)
      s.nextReq r.2

/-- The home takes the slot at RSV, writes the record and publishes it (R159, R160, R464). `ents` are the releasers
of a spawn (R161), `asid` the sender's context, where that is one of this module: a record that the ring does not take goes to
its dead-letter area (R398). -/
def homeEnqueue (s : State) (q : Queue) (asid : Option Nat) (rec_ : List Byte) (sender : Word) (ents : List RelEnt) :
    State × Nat :=
  let node := handleDie q.handle
  let seq := q.rsv
  let q1 := reserveSlots q 1 sender
  let r := unitWrite (setQueue s q1) q.asid (vaFull (ringVa q seq)) rec_
  let now := nodeTime s node
  match r.2 with
  | none =>
    let s1 := recordSlot r.1 q.handle seq ents
    let q2 := (queueOf s1 q.handle).getD q1
    (setQueue s1 (settle now (putSlot q2 seq { st := .published, sender := sender })), qOk)
  | some e =>
    let q2 := settle now (putSlot q1 seq { st := .published, sender := sender, void := true })
    let s1 := ringFault (setQueue r.1 q2) q seq e
    (match asid with
     | some a => deadLetter s1 a rec_ q.handle qRingFault sender node
     | none => s1, qRingFault)

/-- An enqueue of one record (R162): the code, with the record in the ring or in a dead letter of the sender's
context `asid`. -/
def enqueue (s : State) (h : Word) (rec_ : List Byte) (sender : Word) (slot asid node : Nat) (ents : List RelEnt) :
    State × Nat :=
  let c := enqueueCode s h slot
  if c ≠ qOk then (deadLetter s asid rec_ h c sender node, c)
  else match queueOf s h with
    | none => (s, qAbsent)
    | some q => homeEnqueue s q (some asid) rec_ sender ents

/-! ## Records for another module (R151, R397) -/

/-- A record sent to another module has its code: one that was not enqueued goes to the sender context's dead-letter area
(R151, R398). -/
def spawnDone (s : State) (o : Outst) (code : Nat) : State :=
  match o.pkt.msg with
  | .spawn agent asid _ h rec_ _ w lane _ =>
    let s1 := if code = qOk then s
      else deadLetter s asid rec_ h code (BitVec.ofNat 32 agent) o.pkt.src
    if waveExists s1 w ∧ (getWave s1 w).op.phase = 2 then
      modOp s1 w (fun x => { x with vals := Tab.put x.vals lane code })
    else s1
  | _ => s

/-- The record of a lane of a wave is answered. -/
def spawnAnswered (s : State) (w lane code : Nat) : State :=
  let isIt := fun (o : Outst) => match o.pkt.msg with
    | .spawn _ _ _ _ _ _ v l _ => v == w && l == lane && o.pkt.mod.isSome
    | _ => false
  match s.net.outst.find? isIt with
  | none => s
  | some o =>
    spawnDone { s with net := { s.net with outst := s.net.outst.filter (fun x => x.id != o.id) } } o code

/-! ## Void records (R159) -/

/-- The record with VOID = 1 and all else zero. -/
def voidRecord : List Byte := List.replicate 24 0 ++ [1#8] ++ List.replicate 39 0

def isVoidRecord (r : List Byte) : Bool := bitOf (fieldAt r 24 4) 0

/-- A reserved slot of a reservation that ends is published with a void record (R159, R464). -/
def voidSlot (s : State) (h : Word) (seq : Nat) : State :=
  match queueOf s h with
  | none => s
  | some q =>
    match slotAt q seq with
    | some x =>
      if x.st ≠ .reserved ∨ !inRing q seq then s
      else
        let r := unitWrite s q.asid (vaFull (ringVa q seq)) voidRecord
        let now := nodeTime s (handleDie h)
        match queueOf r.1 h with
        | none => r.1
        | some q1 =>
          let s1 := setQueue r.1 (settle now (putSlot q1 seq { x with st := .published, void := r.2.isSome }))
          match r.2 with
          | none => s1
          | some e => ringFault s1 q seq e
    | none => s

/-- The open reservations of a wave are filled void (R159, R263). -/
def voidReservations (s : State) (w : Nat) : State :=
  let mine := s.resvs.filter (fun r => r.wave == w)
  mine.foldl (fun t r => (seqRange r.lo (seqAdd r.lo r.n)).foldl (fun u k => voidSlot u r.handle k) t)
    { s with resvs := s.resvs.filter (fun r => r.wave != w) }

/-! ## Taking (R158, R159, R464) -/

/-- A record taken from a queue: its bytes, sequence number, slot, and releasers. -/
structure Taken where
  rec_ : List Byte
  seq : Nat
  slot : Slot
  ents : List RelEnt
  pending : List (RelEnt × Nat)
  deriving DecidableEq, Repr

/-- The home takes the VISIBLE slot at a sequence number. A void record gives none; a failed read is void for the
taker, with a dead letter of zero bytes (R464). -/
def takeSlot (s : State) (h : Word) (seq : Nat) : State × Option Taken :=
  match queueOf s h with
  | none => (s, none)
  | some q =>
    match slotAt q seq with
    | none => (s, none)
    | some x =>
      if x.st ≠ .visible then (s, none)
      else
        let now := nodeTime s (handleDie h)
        let take := fun (t : State) => match queueOf t h with
          | none => t
          | some q1 => setQueue t (settle now (putSlot q1 seq { x with st := .taken }))
        if x.void then (take s, none)
        else
          let r := unitRead s q.asid (vaFull (ringVa q seq)) 64
          match r.2 with
          | .error e =>
            let s1 := ringFault (take r.1) q seq e
            (deadLetter s1 q.asid [] h qRingFault 0 (handleDie h), none)
          | .ok b =>
            if isVoidRecord b then (take r.1, none)
            else
              let rr := Tab.get {} q.rels (ringPos q seq)
              (take r.1, some { rec_ := b, seq := seq, slot := x, ents := rr.ents, pending := rr.pending })

/-- The first record that a list of sequence numbers gives. -/
def takeFirst (s : State) (h : Word) : List Nat → State × Option Taken
  | [] => (s, none)
  | k :: t =>
    let r := takeSlot s h k
    match r.2 with
    | some x => (r.1, some x)
    | none => takeFirst r.1 h t

def visibleSeqs (q : Queue) : List Nat :=
  (seqRange q.head q.pub).filter (fun n => (slotAt q n).any (fun x => x.st == .visible))

/-- The oldest visible record, as `qpop` takes it. -/
def takeOldest (s : State) (h : Word) : State × Option Taken :=
  match queueOf s h with
  | none => (s, none)
  | some q => takeFirst s h (visibleSeqs q)

/-- The youngest visible record, as `qsteal` takes it (R170). -/
def takeYoungest (s : State) (h : Word) : State × Option Taken :=
  match queueOf s h with
  | none => (s, none)
  | some q => takeFirst s h (visibleSeqs q).reverse

/-- A void record that becomes the oldest visible one is taken at once (R400). -/
def skipFront (h : Word) : List Nat → State → State
  | [], s => s
  | k :: t, s =>
    match (queueOf s h).bind (fun q => (slotAt q k).map (fun x => (q, x))) with
    | none => s
    | some (q, x) =>
      let r := unitRead s q.asid (vaFull (ringVa q k)) 64
      let void := x.void || (match r.2 with
        | .ok b => isVoidRecord b
        | .error _ => false)
      if void then skipFront h t (takeSlot s h k).1 else s

def skipVoids (s : State) (h : Word) : State :=
  match queueOf s h with
  | none => s
  | some q => skipFront h (visibleSeqs q) s

/-! ## Creation and destruction (R154, R155) -/

/-- The ERR of CREATE on a command word (R153, R154). A command
that finds another in progress is refused before (`queueCommand`). -/
def qCreateErr (s : State) (x : DWord) : Nat :=
  let v := x.toNat
  let log2n := bitsOf v 54 5
  let base := bitsOf v 12 42 * 4096
  let die := bitsOf v 7 5
  if bitsOf v 0 7 ≠ 0 then 6
  else if log2n < 6 ∨ 24 < log2n ∨ base % 2 ^ (log2n + 6) ≠ 0
    ∨ bitOf base 53 ≠ bitOf (base + 2 ^ (log2n + 6) - 1) 53 ∨ 2 ^ 54 < base + 2 ^ (log2n + 6) then 3
  else if !nodeActive s die then 4
  else if ((List.range 2048).all (fun i =>
      (getQidx s (die * 2048 + i)).q.isSome || (getQidx s (die * 2048 + i)).quar.isSome)) then 2
  else 0

def createQueue (s : State) (asid : Nat) (x : DWord) : State :=
  let c := getCtx s asid
  let err := qCreateErr s x
  if err ≠ 0 then modCtx s asid (fun c => { c with qErr := err })
  else
    let v := x.toNat
    let die := bitsOf v 7 5
    match (List.range 2048).find? (fun i =>
      (getQidx s (die * 2048 + i)).q.isNone && (getQidx s (die * 2048 + i)).quar.isNone) with
    | none => s
    | some i =>
      let gen := match (getQidx s (die * 2048 + i)).gen with
        | none => 0
        | some g => (g + 1) % 64
      let h := makeHandle die i c.slot gen
      let q : Queue := { handle := h, asid := asid, soft := bitOf v 59, log2n := bitsOf v 54 5,
                         base := bitsOf v 12 42 * 4096 }
      let s1 := modQidx s (die * 2048 + i) (fun y => { y with gen := some gen, q := some q, owner := some asid })
      modCtx s1 asid (fun c => { c with qErr := 0, qHandle := h })

/-- Who must answer a FLUSH: every die and hub of the module, and every other module that is reachable, as 64 and its number
(R155). -/
def flushDue (s : State) : List Nat :=
  homeNodes.filter (fun n => !nodeLost s n)
    ++ ((List.range 64).filter (fun m => m != s.mods.podId && moduleReachable s m)).map (fun m => 64 + m)

/-- FLUSH for a queue's number goes to each of them. -/
def sendFlushes (s : State) (index : Nat) (due : List Nat) : State :=
  due.foldl (fun t n =>
    let m : Msg := .flush (roleHub t) index
    if n < 64 then send t (roleHub t) n .ctl 0 m
    else sendPkt t { src := roleHub t, dst := roleHub t, mod := some (n - 64), cls := .ctl, msg := m } 0) s

/-- The queue of a context stops, its records and pending entries become dead letters when `letters`, its reservations
close, and its index is quarantined until every FLUSH is answered (R155, R137). -/
def destroyQueue (s : State) (h : Word) (letters : Bool) : State :=
  match queueOf s h with
  | none => s
  | some q =>
    let die := handleDie h
    let s1 := if !letters then s
      else (visibleSeqs q).foldl (fun t k =>
        let x := (slotAt q k).getD { st := .visible }
        let r := takeSlot t h k
        match r.2 with
        | some y => deadLetter r.1 q.asid y.rec_ h qDestroyed x.sender die
        | none => r.1) s
    -- published behind a gap: read in the ring all the same
    let behind := (seqRange q.pub q.rsv).filter (fun n => (slotAt q n).any (fun x => x.st == .published && !x.void))
    let s2 := if !letters then s1
      else behind.foldl (fun t k =>
        let x := (slotAt q k).getD { st := .published }
        let r := unitRead t q.asid (vaFull (ringVa q k)) 64
        match r.2 with
        | .ok b => if isVoidRecord b then r.1 else deadLetter r.1 q.asid b h qDestroyed x.sender die
        | .error e => deadLetter (ringFault r.1 q k e) q.asid [] h qRingFault 0 die) s1
    let pend := s2.pending.filter (fun p => p.handle == h)
    let s3 := if !letters then s2
      else pend.foldl (fun t p => deadLetter t q.asid p.rec_ h qDestroyed p.sender die) s2
    let due := flushDue s3
    let s4 := { s3 with pending := s3.pending.filter (fun p => p.handle != h),
                        resvs := s3.resvs.filter (fun r => r.handle != h) }
    let s5 := modQidx s4 (handleKey h) (fun y => { y with q := none, quar := some { due := due } })
    sendFlushes s5 (handleKey h) due

/-- The ERR of DESTROY. -/
def qDestroyErr (s : State) (asid : Nat) (x : DWord) : Nat :=
  match queueOf s (BitVec.ofNat 32 x.toNat) with
    | none => 5
    | some q => if q.asid ≠ asid then 5 else if bitsOf x.toNat 32 28 ≠ 0 then 6 else 0

def destroyCommand (s : State) (asid : Nat) (x : DWord) : State :=
  let err := qDestroyErr s asid x
  if err ≠ 0 then modCtx s asid (fun c => { c with qErr := err })
  else
    let s1 := destroyQueue s (BitVec.ofNat 32 x.toNat) true
    modCtx s1 asid (fun c => { c with qErr := 0 })

/-- A queue command acts: alone, or as the one that is in progress; one that finds another in progress has ERR 0x01
(R154). -/
def runQueueCmd (s : State) (asid : Nat) (x : DWord) (act : State → State) : State :=
  if (getCtx s asid).qCmd.any (fun c => c != x) then modCtx s asid (fun c => { c with qErr := 1 })
  else act (modCtx s asid (fun c => { c with qCmd := none }))

/-- A command of CTX_QUEUE_CMD (R153): it acts at once, or stays in progress until its event. Other commands are
ignored. -/
def queueCommand (s : State) (asid : Nat) (x : DWord) : State :=
  let k := bitsOf x.toNat 60 4
  if k ≠ 1 ∧ k ≠ 2 then s
  else if (getCtx s asid).qCmd.isSome then modCtx s asid (fun c => { c with qErr := 1 })
  else if s.mods.slow then modCtx s asid (fun c => { c with qCmd := some x })
  else if k = 1 then createQueue s asid x else destroyCommand s asid x

def serveFlush (s : State) (n : Nat) : State :=
  match servable s n with
  | some p => match p.msg with
    | .flush node index =>
      -- answered once every message that the receiver sent before has been delivered; for another module, every one to it
      let early := fun (q : Pkt) => decide (q.since < p.since) && (match p.smod with
        | some m => q.mod == some m
        | none => q.src == p.dst)
      let busy := s.net.wire.any early || s.net.flows.any (fun f => f.backlog.any early)
        || (p.smod.isSome && s.net.inbox.any early)
      if busy then holdMsg s n
      else match p.smod with
        | some m => sendPkt (takeMsg s n) { src := p.dst, dst := p.dst, mod := some m, cls := .ctl, msg := .flushAck p.dst index } 0
        | none => send (takeMsg s n) p.dst node .ctl 0 (.flushAck p.dst index)
    | .flushAck from_ index =>
      let s1 := takeMsg s n
      modQidx s1 index (fun y => { y with quar := y.quar.map (fun z => { z with due := z.due.filter (fun d => d != from_) }) })
    | _ => s
  | none => s

/-- FLUSH is answered once every message sent before it has been delivered; an answer reaches the module task unit
(R155). -/
def execFlush (n : Nat) (s : State) : Out := .next (serveFlush s n)

/-- Every FLUSH answer is in: the index is free (R155). -/
def execQuarantineEnd (node index : Nat) (s : State) : Out :=
  let k := node * 2048 + index
  match (getQidx s k).quar with
  | some z => if z.due.isEmpty then .next (modQidx s k (fun y => { y with quar := none })) else .next s
  | none => .next s

end Sys2Proof.Machine
end

