-- ==== Sys2Proof/Machine/Rehome.lean ====
section
/-! DEFINITION. The home-table rewrite: what moves with a granule, how a rewrite ends, replays (R55-R57). -/

namespace Sys2Proof.Machine

/-- The dies that a home-map entry names; `host` is the hub that serves HOST ranges. -/
def entDies (host : Nat) (x : BitVec 128) : List Nat :=
  let e := homeEnt x
  match e.policy with
  | 1 => [e.dies]
  | 2 => stripeDies e.dies
  | 3 => [host]
  | _ => []

def granuleOf (line : Nat) : Nat := line / 512

/-- A home's tables about one granule go to another home (R56): regions, tokens, releaser records. Monitors armed at the old home
are lost. -/
def moveTables (s : State) (asid g src dst : Nat) : State :=
  let inG := fun (k : Nat) => lineAsid k == asid && granuleOf (lineNo k) == g
  let rels := s.rels.filter (fun e => e.1 / 32 / 2 ^ 61 == src && inG (e.1 / 32 % 2 ^ 61))
  let ws := s.watches.filter (fun x => x.node == src && x.asid == asid && x.addr / 65536 == g)
  let s1 : State := { s with
    regions := s.regions.map (fun r => if r.node == src && r.asid == asid && granuleOf r.base == g
      then { r with node := dst } else r)
    tokens := s.tokens.map (fun t => if t.node == src && t.asid == asid && t.base / 65536 == g
      then { t with node := dst } else t)
    drains := s.drains.map (fun d => { d with regions := d.regions.map (fun x =>
      if x.1 == src && (d.asid == asid || asid == 0) && granuleOf x.2.1 == g then (dst, x.2) else x) })
    rels := rels.foldl (fun t e => Tab.put (Tab.erase t e.1) (wordKey dst (e.1 / 32 % 2 ^ 61) (e.1 % 32)) e.2) s.rels
    watches := s.watches.filter (fun x => !ws.contains x) }
  ws.foldl (fun t x => fireMon t x.wave 1) s1

/-- The bytes of a granule that its home's LLC holds go to another home (R56). Bytes that the new home's LLC holds newer as another
die's line stay. -/
def moveBytes (s : State) (asid g src dst : Nat) : State :=
  let llc := s.llc.filter (fun e => e.1 / 2 ^ 61 == src && lineAsid (e.1 % 2 ^ 61) == asid
    && granuleOf (lineNo (e.1 % 2 ^ 61)) == g)
  { s with llc := llc.foldl (fun t e =>
      let k := e.1 % 2 ^ 61
      let o := getLine t dst k
      setLine (Tab.erase t e.1) dst k (lineOver e.2 o o.dirty true)) s.llc }

def moveGranule (s : State) (asid g src dst : Nat) : State := moveBytes (moveTables s asid g src dst) asid g src dst

/-- The ASID and 54-bit address that a message to a home is about. -/
def msgHome : Msg → Option (Nat × Nat)
  | .rd _ a l _ _ _ _ => some (a, l * 128)
  | .regReq _ a l _ _ _ _ => some (a, l * 128)
  | .wb _ a l _ _ _ => some (a, l * 128)
  | .gone _ a l _ _ => some (a, l * 128)
  | .rel _ a l _ _ => some (a, l * 128)
  | .acq _ a l _ _ _ _ _ => some (a, l * 128)
  | .regSet _ a l _ _ _ => some (a, l * 128)
  | .dmark _ a b _ _ => some (a, b * 128)
  | .relinq _ a b _ _ => some (a, b * 128)
  | .tokAcq _ a v => some (a, v)
  | .tokRel _ a v _ _ => some (a, v)
  | .leaseReq _ a lo _ _ _ _ _ => some (a, lo)
  | _ => none

/-- A message kept at its source goes to the home that the source's map names (R56, R57). -/
def replay (s : State) (p : Pkt) : State :=
  match msgHome p.msg with
  | none => send s p.src p.dst p.cls 0 p.msg
  | some (a, v) =>
    let h := (homeAt s p.src a v).getD p.dst
    let s1 := send s p.src h p.cls v p.msg
    { s1 with net := { s1.net with outst := s1.net.outst.map (fun o =>
        if o.pkt.src == p.src && o.pkt.msg == p.msg then { o with pkt := { o.pkt with dst := h }, since := nodeTime s p.src }
        else o) } }

/-- What a source keeps is sent: redirected messages in order, then held requests (R57). -/
def releaseKept (s : State) (d : Nat) : State :=
  match s.rehome with
  | none => s
  | some r =>
    let mine := fun (l : List Pkt) => l.filter (fun p => p.src == d)
    let rest := fun (l : List Pkt) => l.filter (fun p => p.src != d)
    (mine r.redirected ++ mine r.held).foldl replay
      { s with rehome := some { r with held := rest r.held, redirected := rest r.redirected } }

/-- The granules of the rewritten entry about which an old home may hold something, and one for each REG flow of each pair of old
and new home besides, with that pair (assumption log 81). -/
def handoffList (s : State) (r : Rehome) : List (Nat × Nat × Nat) :=
  let t := (getCtx s r.asid).home
  let host := roleHub s
  let pair := fun (g : Nat) =>
    match homeInMap host (Tab.set 0 t r.index r.old) (g * 65536), homeInMap host (Tab.set 0 t r.index r.new) (g * 65536) with
    | some a, some b => if a = b then none else some (a, b)
    | _, _ => none
  let held := (s.regions.filter (fun x => x.asid == r.asid)).map (fun x => granuleOf x.base)
    ++ (s.tokens.filter (fun x => x.asid == r.asid)).map (fun x => x.base / 65536)
    ++ (s.rels.filter (fun e => lineAsid (e.1 / 32 % 2 ^ 61) == r.asid)).map (fun e => granuleOf (lineNo (e.1 / 32 % 2 ^ 61)))
    ++ (s.llc.filter (fun e => lineAsid (e.1 % 2 ^ 61) == r.asid)).map (fun e => granuleOf (lineNo (e.1 % 2 ^ 61)))
    ++ (s.watches.filter (fun x => x.asid == r.asid)).map (fun x => x.addr / 65536)
  let e := homeEnt r.old
  let first := (List.range (min e.count 992)).map (fun i => e.base + i)
  let reps := first.foldl (fun (l : List (Nat × Nat × Nat)) g => match pair g with
    | some p => if l.any (fun x => x.1 == p.1 && x.2.1 == p.2 && flowId .reg (x.2.2 * 65536) == flowId .reg (g * 65536)) then l
        else l ++ [(p.1, p.2, g)]
    | none => l) []
  held.eraseDups.foldl (fun l g => match pair g with
    | some p => if l.contains (p.1, p.2, g) then l else l ++ [(p.1, p.2, g)]
    | none => l) reps

/-- The nodes that take part in a rewrite. -/
def rehomeNodes (s : State) : List Nat := homeNodes.filter (fun d => !nodeLost s d)

/-- HANDOFF begins: the old homes stop homing the moving granules; they send the tables of each on its REG flow, and its bytes
on BULK (R56). -/
def startHandoff (s : State) (r : Rehome) : State :=
  let l := handoffList s r
  let olds := (l.map (fun x => x.1)).eraseDups
  let s1 : State := { s with rehome := some { r with phase := 2, stopped := olds, ends := l.map (fun x => x.2) } }
  let s2 := l.foldl (fun t x =>
    send (send t x.1 x.2.1 .reg (x.2.2 * 65536) (.handoff r.id x.2.2))
      x.1 x.2.1 .bulk (x.2.2 * 65536) (.handoffData r.id x.2.2)) s1
  olds.foldl retryHeld s2

/-- COMMIT begins: the new homes hold everything, and COMMIT goes to every die. -/
def startCommit (s : State) (r : Rehome) : State :=
  let s1 := modCtx { s with rehome := some { r with phase := 3 } } r.asid
    (fun c => { c with home := Tab.set 0 c.home r.index r.new })
  (rehomeNodes s).foldl (fun t d => send t (roleHub t) d .ctl 0 .commit) s1

/-- A message of the hand-off of one granule. -/
def handoffMsg (id g : Nat) (m : Msg) : Bool :=
  m == .handoff id g || m == .handoffData id g || m == .handoffAck id g || m == .handoffEnd id g

/-- A phase whose answers have all come passes to the next. A rewrite that every die has committed is over. -/
def rehomeProgress (s : State) : State :=
  match s.rehome with
  | none => s
  | some r =>
    let all := fun (l : List Nat) => (rehomeNodes s).all (fun d => l.contains d)
    if r.phase = 1 then (if all r.acks then startHandoff s r else s)
    else if r.phase = 2 then
      -- a lost old home sends nothing
      let due := r.ends.filter (fun x => inFlight s (handoffMsg r.id x.2))
      if due.isEmpty then startCommit s r else { s with rehome := some { r with ends := due } }
    else if all r.committed then { s with rehome := none } else s

/-- A new home is lost while a rewrite runs (R55): every die keeps or takes back the old entry, what was handed off
returns, and held requests go to the old homes. -/
def rehomeAbort (s : State) (n : Nat) : State :=
  match s.rehome with
  | none => s
  | some r =>
    if !(entDies (roleHub s) r.new).contains n ∨ 3 ≤ r.phase ∧ (rehomeNodes s).all (fun d => r.committed.contains d) then s
    else
      let l := handoffList s r
      let s1 := l.foldl (fun t x => moveGranule t r.asid x.2.2 x.2.1 x.1) s
      let drop := fun (p : Pkt) => match p.msg with
        | .handoff _ _ | .handoffData _ _ | .handoffAck _ _ | .handoffEnd _ _ | .commit | .moveMark _ | .markAck _ => false
        | _ => true
      let s2 := modCtx { s1 with net := { s1.net with inbox := s1.net.inbox.filter drop } } r.asid
        (fun c => { c with home := Tab.set 0 c.home r.index r.old })
      let kept := r.redirected ++ r.held
      modMods (kept.foldl replay { s2 with rehome := none }) (fun m => { m with rehomeErr := 5 })

end Sys2Proof.Machine
end

