-- ==== Sys2Proof/Machine/Reset.lean ====
section
/-! DEFINITION. The loss of a die and FLOW_RESET (R33, R58, R97, R116, R155, R218). -/

namespace Sys2Proof.Machine

/-- Entries of a cache table whose cache belongs to a node; `f` gives the node of a cache number. -/
def dropCaches {α : Type} (f : Nat → Nat) (n : Nat) (t : Tab α) : Tab α := t.filter (fun e => f (e.1 / 2 ^ 61) != n)

/-- Everything in the caches, cores and tables of a node is gone. Memory itself is wiped later (R35, R144). -/
def clearNode (s : State) (n : Nat) : State :=
  let homed := fun (k : Nat) => homeOf s (lineAsid k) (lineNo k * 128) == some n
  let s1 := { s with
    llc := dropCaches (fun c => c) n s.llc
    l2 := dropCaches (fun c => c / 64) n s.l2
    l1 := dropCaches (fun c => c / 64) n s.l1
    icache := dropCaches (fun c => c / 64) n s.icache
    words := s.words.filter (fun e => !homed e.1)
    eccFound := s.eccFound.filter (fun e => !homed (e.1 / 32))
    regions := s.regions.filter (fun r => r.node != n)
    proxies := s.proxies.filter (fun e => e.1 / 32 / 2 ^ 61 != n)
    rels := s.rels.filter (fun e => e.1 / 32 / 2 ^ 61 != n)
    tokens := s.tokens.filter (fun t => t.node != n)
    drains := s.drains.filter (fun d => agentNode d.agent != n)
    tlb := s.tlb.filter (fun x => x.node != n)
    walks := s.walks.filter (fun x => x.node != n)
    perms := s.perms.filter (fun x => !(isHub n && x.node / 32 == 32 + (n - 48)))
    grants := s.grants.filter (fun g => g.node != n)
    grantWaits := s.grantWaits.filter (fun g => g.node != n)
    cores := s.cores.filter (fun c => c.1 / 128 != n)
    pending := s.pending.filter (fun p => handleDie p.handle != n)
    resvs := s.resvs.filter (fun r => handleDie r.handle != n)
    gbars := s.gbars.filter (fun b => b.node != n)
    conts := s.conts.filter (fun c => c.die != n)
    tasks := s.tasks.filter (fun t => t.2.die != n)
    wgs := s.wgs.filter (fun g => g.2.node != n) }
  -- watches of a lost home fire with code 1 (R249)
  let ws := s1.watches.filter (fun x => x.node == n)
  ws.foldl (fun t x => fireMon t x.wave 1) { s1 with watches := s1.watches.filter (fun x => x.node != n) }

/-- The W-dies that go with a token die (R10, R35). -/
def wdiesOf (n : Nat) : List Nat := if 24 ≤ n ∧ n < 32 then [2 * (n - 24), 2 * (n - 24) + 1] else []

/-- Dies halted by a debugger now: COUNT of MOD_DBG_STAT (R60). -/
def haltedDies (s : State) : List Nat := cdies.filter (fun d => (getNode s d).halt)

/-- Debug-hold, or its clearing, is sent on CTL to every die that can be reached (R59, R60). -/
def sendHold (s : State) (on : Bool) : State :=
  let due := homeNodes.filter (fun n => !nodeLost s n && !(getNode s n).halt)
  let s1 := modMods s (fun m => { m with dbgPend := due })
  due.foldl (fun t n => send t (roleHub t) n .ctl 0 (if on then .hold 0 else .holdClear)) s1

/-- A wave that is frozen stands at an instruction boundary, never between a `pfx` and the instruction that it feeds
(R276, R308), unless lanes of that one have been performed (R200). -/
def freezeWave (w : Wave) : Wave :=
  let fed := (match w.slot0 with
    | some p => p.fed.isSome
    | none => false) || (match w.slot1 with
    | some p => p.fed.isSome
    | none => false) || w.queue.any (fun q => q.fed.isSome) || (match w.handler with
    | some h => h.path.fed.isSome
    | none => false)
  if fed && w.op.vals.isEmpty then rewindWave w else w

/-- A die freezes, and debug-hold is raised when it is the first (R59, R276). -/
def haltDie (s : State) (die : Nat) : State :=
  let first := (haltedDies s).isEmpty
  let s1 := modNode s die (fun n => { n with halt := true, dbgHold := true })
  let s2 : State := { s1 with waves := s1.waves.map (fun e => if e.2.node == die then (e.1, freezeWave e.2) else e) }
  if first then sendHold (modMods s2 (fun m => { m with dbgFirst := die })) true else s2

/-- A die is no longer halted; the last one to go on clears the hold (R60). -/
def unhalt (s0 : State) (n : Nat) : State :=
  let s := modNode s0 n (fun x => { x with haltPend := false })
  if !(getNode s n).halt then s
  else
    let s1 := modNode s n (fun x => { x with halt := false })
    if (haltedDies s1).isEmpty then sendHold (modNode s1 n (fun x => { x with dbgHold := false })) false else s1

/-- A die leaves the fabric: unplanned reset or WIPE (R33, R58). Its work is lost, drains sent to it count as armed,
its queues are lost, and FLOW_RESET goes to every other die. -/
def dieDown (s0 : State) (n : Nat) : State :=
  let s := unhalt (rehomeAbort s0 n) n
  -- drains that it would have answered (R97)
  let msgs := (pktsUnderway s).filterMap (fun p => if p.dst == n then
      match p.msg with
      | .drain a _ _ _ acq tag => some (a, acq, tag)
      | _ => none
    else none)
  let under := (s.drains.filter (fun d => agentNode d.agent == n)).map (fun d => (d.agent, d.acquirer, d.tag))
  let s1 := (msgs ++ under).foldl (fun t x => armedAt t x.2.1 x.2.2 x.1) s
  let lostQ := s1.queues.filter (fun e => e.1 / 2048 == n && e.2.q.isSome)
  let s2 := clearNode s1 n
  -- a wave elsewhere that left this die ends at FLOW_RESET; waves on the die end, and their reservations with them (R159,
  -- R218)
  let gone := (s2.waves.filter (fun e => 128 ≤ e.1 && e.2.node == n)).map Prod.fst
  let s2v := gone.foldl voidReservations s2
  let s3 := { s2v with waves := s2v.waves.filter (fun e => e.1 < 128 || e.2.node != n) }
  let s4 := if isHub n then
      { s3 with waves := s3.waves.filter (fun e => !(decide (e.1 < 128) && e.1 / 64 == n - 48)) } else s3
  let s5 := { s4 with preempts := s4.preempts.filter (fun p => p.target != PreTarget.die n), net := { s4.net with
      inbox := s4.net.inbox.filter (fun p => p.dst != n)
      outst := s4.net.outst.filter (fun o => o.pkt.src != n) } }
  let answers := fun (l : List Nat) => l.filter (fun d => d != n)
  let s6 := modNode { s5 with
      keys := Tab.mapVals (fun _ (k : KeySlot) => { k with destroying := k.destroying.map answers }) s5.keys
      queues := Tab.mapVals (fun _ (y : QIdx) =>
        { y with quar := y.quar.map (fun z => { z with due := answers z.due }) }) s5.queues } n
    (fun x => { x with svc := .wipe, dbgHold := false, rr := 0, steal := 0, counts := [] })
  let s7 := (wdiesOf n ++ (if isWdie n then [n - 32] else [])).foldl (fun t w => modNode { t with wdies := Tab.erase t.wdies w } (32 + w)
      (fun x => { x with svc := .wipe })) s6
  let s8 := modMods s7 (fun m =>
    { m with svcOn := some (m.svcOn.getD n), svcNode := m.svcOn.getD n, dbgPend := answers m.dbgPend })
  let s9 := lostQ.foldl (fun t e =>
    let due := flushDue t
    sendFlushes (modQidx t e.1 (fun y => { y with q := none, quar := some { due := due, lost := true } })) e.1 due) s8
  (allNodes.filter (fun d => d != n && !nodeLost s9 d)).foldl (fun t d => send t (roleHub t) d .ctl 0 (.flowReset n)) s9

/-- A request that a node has outstanding to a lost die completes with a die-lost error (R58). -/
def failRequest (s : State) (o : Outst) : State :=
  match o.pkt.msg with
  | .rd r asid line m _ _ _ => if waitsFor s r then modOp s r.wave (fun x => putErr x (lineKey asid line) m eDieLost) else s
  | .acq r asid line m _ _ _ _ =>
    if waitsFor s r then modOp s r.wave (fun x =>
      { putErr x (lineKey asid line) m eDieLost with vals := Tab.put x.vals (lineKey asid line) 1 }) else s
  | .regReq r asid line m _ _ _ =>
    if waveExists s r.wave then
      let pr := pendOf s r.wave r.id
      let t := addDeferred (ownerClean s r.agent (lineKey asid line) m) r.wave
        { cause := cDieLost, sub := 0, lane := pr.lane, hnd := pr.hnd, addr := pr.addr }
      modWave t r.wave (fun x => { x with pend := x.pend.filter (fun y => y.id != r.id) })
    else s
  | .rel r .. =>
    if waveExists s r.wave then
      let pr := pendOf s r.wave r.id
      relDone (addDeferred s r.wave { cause := cDieLost, sub := 0, lane := pr.lane, hnd := pr.hnd, addr := pr.addr }) r.wave r.id
    else s
  | .tokAcq r _ _ =>
    racqAnswered s r.wave r.id (some eDieLost)
  | .regSet r _ line _ _ _ => cmdRegDone s r.id (some (6, vaFull (line * 128)))
  | .gbarArr _ _ _ _ w _ id _ =>
    if waveExists s w ∧ (getWave s w).op.id = id then modWave s w (fun x => { x with gdep := some { code := 2 } }) else s
  | .spawn .. => spawnDone s o qDieLost
  | .leaseReq h _ lo _ kind _ _ _ => leaseFaulted s (holderOf h) (kindOf kind) 7 lo
  | _ => s

/-- The walk of a home's tables for a lost die (R97). -/
def homeWalk (s : State) (d n : Nat) : State :=
  let owned := s.regions.filter (fun r => r.node == d && agentNode r.owner == n)
  let s1 : State := owned.foldl (fun (t : State) (r : Region) =>
    let ks := t.words.filter (fun e => lineAsid e.1 == r.asid && regionHas r (lineNo e.1))
    dropRegion (ks.foldl (fun u e => (List.range 32).foldl (fun v w =>
      if wordSt v e.1 w = .g then setWordSt v e.1 w .z else v) u) t) r) s
  let s2 : State := mapRels (fun r => { ents := r.ents.filter (fun x => agentNode x.agent != n),
                                        pending := r.pending.filter (fun x => agentNode x.1.agent != n) }) s1
  -- waiters of the lost die go; a token held there returns
  let s3 : State := { s2 with tokens := s2.tokens.map (fun t =>
      if t.node == d then { t with waiters := t.waiters.filter (fun x => agentNode x.1 != n) } else t) }
  let held := s3.tokens.filter (fun t => t.node == d && (match t.holder with
    | some h => agentNode h == n
    | none => false))
  let s4 := held.foldl (fun t x => passToken t x none) s3
  tokenProgress { s4 with cores := s4.cores.map (fun c =>
      if c.1 / 128 == d then (c.1, { c.2 with carried := c.2.carried.filter (fun x => agentNode x.agent != n) }) else c) } d

/-- An unplanned reset of a die, in any service state, enters WIPE (R33). A die that has left the fabric is lost already:
what it holds goes, and its wipe begins again. -/
def dieReset (s : State) (n : Nat) : State :=
  if !nodeLost s n then dieDown s n
  else
    let s1 := (wdiesOf n ++ (if isWdie n then [n - 32] else [])).foldl (fun t w =>
      modNode { t with wdies := Tab.erase t.wdies w } (32 + w) (fun x => { x with svc := .wipe }))
      (modNode (clearNode s n) n (fun x => { x with svc := .wipe }))
    modMods s1 (fun m => { m with svcOn := some (m.svcOn.getD n), svcNode := m.svcOn.getD n })

/-- UNPLANNED_DIE_RESET (R33). -/
def execUnplannedDieReset (node : Nat) (s : State) : Out :=
  if 50 ≤ node then .next s else .next (dieReset s node)

/-- The k-th outstanding request has had no answer for 1 ms: it raises a fabric-timeout error at the fault processor, once, which
resets its target die. A die of another module is not this one's to reset (R53). -/
def execResponseTimeout (k : Nat) (s : State) : Out :=
  match s.net.outst[k]? with
  | none => .next s
  | some o =>
    if nodeTime s o.pkt.src < o.since + 1000000 ∨ (getNode s o.pkt.src).dbgHold ∨ o.timedOut ∨ (o.pkt.mod.isNone ∧ nodeLost s o.pkt.dst) ∨ unsent s o then
      .next s
    else
      let e : NetErr := .timeout o.pkt.src (match o.pkt.mod with
        | some m => (m + 1) * 64
        | none => o.pkt.dst)
      let s1 : State := { modNode s (roleHub s) (fun n => { n with netLog := n.netLog ++ [e] }) with net := { s.net with
        outst := listModify s.net.outst k (fun x => { x with timedOut := true }) } }
      .next (if o.pkt.mod.isSome then s1 else dieDown s1 o.pkt.dst)

end Sys2Proof.Machine
end

