-- ==== Sys2Proof/Machine/Gate.lean ====
section
/-! DEFINITION. What every instruction does around its own effect: the checks at rename (R193, R258, R269), and
retirement (R199, R200, R202). -/

namespace Sys2Proof.Machine

/-! ## Checks that depend on the state of the wave (R315 step 11, R258) -/

/-- Instructions that handler mode refuses with illegal operand, SUB 5: wsync, exit, the scratchpad, barrier, task,
queue and engine instructions, whalt and csleep (R258, R365, R429). -/
def handlerBars (opc : Nat) : Bool :=
  [0x145, 0x148, 0x182, 0x183, 0x189, 0x18A, 0x18B, 0x1C3, 0x1C4, 0x1C5, 0x209, 0x20A, 0x20B, 0x20C, 0x20D, 0x2C7,
    0x2C8].contains opc
  || (decide (0x240 ≤ opc) && decide (opc ≤ 0x249)) || (decide (0x280 ≤ opc) && decide (opc ≤ 0x28A))

/-- A field that must have shape U (R193, R328). -/
def slotUniform : SlotK → Bool
  | .g1 | .mg | .h => true
  | .reg _ u | .pairFed u | .adr u | .scr u => u
  | _ => false

def rawOpnd (c : Nat) : Opnd := (opndOf (BitVec.ofNat 10 c)).getD .null

/-- The operand that a field holds as seen by the shape rules. -/
def fieldShapeBad (w : Wave) (f : Form) (r : Raw) (x : FieldK) : Bool :=
  match rawOpnd x.code with
  | .v n => (List.range (slotRegs f r x)).any (fun i => !regUniform (readReg w (n.toNat + i)))
  | .sreg q => sregAffine w q
  | _ => false

/-- Operands that handler mode refuses: a register source of shape A or G, and p0-p27. The source of lget and the
destination of lput name interrupted registers and are exempt (R260). -/
def fieldHandlerBad (w : Wave) (f : Form) (r : Raw) (x : FieldK) : Bool :=
  match x.k with
  | .rq | .rp => false
  | _ => match rawOpnd x.code with
    | .v _ => !x.isDst && fieldShapeBad w f r x
    | .p n => decide (n.toNat < 28)
    | _ => false

/-- A register source found in parity error (R269). The handler bank has words of its own (R258). -/
def fieldParityBad (w : Wave) (f : Form) (r : Raw) (x : FieldK) : Bool :=
  match rawOpnd x.code with
  | .v n => !x.isDst && (List.range (slotRegs f r x)).any (fun i => w.badRegs.contains (n.toNat + i) &&
      (w.handler.isNone || x.k == .rq || decide (n.toNat + i < 248)))
  | _ => false

/-- Whose words a wave decodes (R223, R315, R429). -/
def decCtx (w : Wave) (fed : Bool) : DecCtx :=
  { fed := fed, general := w.general, handler := w.handler.isSome, sup := w.sup, afterTrap := w.trapped.isSome }

/-- The cause and SUB with which an instruction is refused before it executes: where R429 and R223 do not allow it,
and at rename. On a general core every register is U. A pfx has no operands and no guard (R307). -/
def renameBad (w : Wave) (i : Instr) : Option (Nat × Nat) :=
  match rawOf i with
  | none => none
  | some r =>
    match formOf r with
    | none => some (cIllegalInsn, 0)
    | some f =>
      let fs := usedFields f r
      if whereBad f r (decCtx w false) then some (cIllegalInsn, 0)
      else if step8Bad f r (decCtx w false) then some (cIllegalInsn, 6)
      else if r.opc = 0x14B then none
      else if !w.general ∧ w.handler.isSome ∧ (handlerBars r.opc.toNat || (r.opc == 0x207 && modSpace r.mod == 1)
          || decide (r.pred.toNat < 28) || fs.any (fieldHandlerBad w f r)) then some (cIllegalOpnd, 5)
      else if !w.general ∧ fs.any (fun x => slotUniform x.k && fieldShapeBad w f r x) then some (cIllegalOpnd, 0)
      else if fs.any (fieldParityBad w f r) then some (cEcc, 3)
      else none

/-- The checks of R258 and R269 concern what an instruction does or reads: an instruction whose entry mask is empty
raises none of them (R325). -/
def readCheck (c : Nat × Nat) : Bool := c == (cIllegalOpnd, 5) || c == (cEcc, 3)

/-- The guard of an instruction; one without a word has none. -/
def instrGuard (i : Instr) : Guard :=
  match rawOf i with
  | some r => guardOf r
  | none => ⟨false, 31⟩

/-- The registers of an instruction's destinations keep their values when its entry mask is empty, and take shape G
where the result of R192 would have it: under a guard other than ?!p31, on a path of a core. -/
def emptyDst (w : Wave) (i : Instr) : Wave :=
  if oneLane w || guardNever (instrGuard i) then w
  else match rawOf i with
    | none => w
    | some r => match formOf r with
      | none => w
      | some f => (usedFields f r).foldl (fun v x =>
          if x.isDst then writeDst v (rawOpnd x.code) (slotRegs f r x) .g 0 (fun _ => 0) else v) w

/-! ## The store queue at retirement (R203) -/

/-- Instructions that go on while stores of their wave are in its store queue: those that act on registers alone, branches,
loads, stores, full/empty marks, prefetches, and an acquire fence (R203, R204, R232, R376). -/
def passesStores (i : Instr) : Bool :=
  match i with
  | .fence f => f.ord == .acq
  | _ => match rawOf i with
    | none => true
    | some r => decide (r.opc.toNat < 0x145) || [0x147, 0x149, 0x14A, 0x14B, 0x14C, 0x180, 0x181, 0x182, 0x183, 0x184, 0x186,
        0x188, 0x189, 0x18A, 0x18B].contains r.opc.toNat

/-- The instruction waits until the stores of its wave have left the store queue: an atomic, a release, an engine instruction,
and whatever ends, moves, blocks or synchronises the wave (R203, R230). -/
def queueWaits (w : Wave) (i : Instr) : Bool := !w.sq.isEmpty && !passesStores i

/-! ## Retirement -/

/-- Instructions that retire with the current one: a pfx counts with the instruction that it feeds (R202). -/
def retireCount (p : Path) : Nat := if p.fed.isSome then 2 else 1

/-- The counts that a retirement advances (R254 RETIRED, R264 SKID). -/
def countRetired (w : Wave) (n : Nat) : Wave :=
  { w with retired := w.retired + n, op := {}, blockedAt := none,
           run := match w.run with
             | .halting t k => .halting t (k + n)
             | r => r }

/-- The current instruction retires and its path goes on at `pc`. -/
def retireTo (s : State) (id : Nat) (w : Wave) (pc : DWord) : State :=
  match curPath w with
  | none => setWave s id w
  | some p => setWave s id (movePath (countRetired w (retireCount p)) pc)

/-- The current instruction retires, and its path goes on at the next one. -/
def retire (s : State) (id : Nat) (w : Wave) : State :=
  match curPath w with
  | none => setWave s id w
  | some p => retireTo s id w (p.pc + 12)

/-- An instruction retires whose entry mask is empty (R325). -/
def retireEmpty (i : Instr) (s : State) (id : Nat) (w : Wave) : State := retire s id (emptyDst w i)

end Sys2Proof.Machine
end

