-- ==== Sys2Proof/Machine/Save.lean ====
section
/-! DEFINITION. Save areas of waves and images of workgroups (R265, R266, R275, R436). -/

namespace Sys2Proof.Machine

/-! ## Writing a save area (R265) -/

def shapeTag : Reg → Nat
  | .u _ => 0 | .a _ _ => 1 | .g _ => 2

def regBytes : Reg → List Byte
  | .u w => bytesOf 4 w
  | .a b st => bytesOf 4 b ++ bytesOf 4 st
  | .g l => (List.range 32).flatMap (fun i => bytesOf 4 (l.getD i 0))

/-- The interrupted registers, v248-v255 with their values before entry. -/
def waveReg (w : Wave) (n : Nat) : Reg := Tab.get (.u 0) w.regs n

def pathStateCode (p : Path) : Nat := match p.st with
  | .live => 1 | .join _ => 2 | .wsync _ => 3 | .blocked _ => 1

def slotBytes (act : Mask) : Option Path → List Byte
  | none => List.replicate 24 0
  | some p =>
    let sync : Word := match p.st with
      | .wsync m => m &&& act
      | _ => 0
    bytesOf 8 (pathPc p) ++ bytesOf 4 p.mask ++ bytesOfNat 4 (pathStateCode p) ++ bytesOf 4 sync
      ++ List.replicate 4 0

def queueBytes (act : Mask) (q : QPath) : List Byte :=
  bytesOf 8 (if q.fed.isSome then q.pc - 12 else q.pc) ++ bytesOf 4 q.mask ++ bytesOfNat 4 q.wait
    ++ bytesOfNat 4 (if q.sync.isSome then 3 else 1)
    ++ bytesOf 4 (match q.sync with
      | some m => m &&& act
      | none => 0)

def monBytes : Option Monitor → List Byte
  | none => List.replicate 16 0
  | some m => bytesOf 8 m.addr ++ bytesOfNat 4 m.size ++ bytesOfNat 4 (b2n m.scr)

def defBytes (d : DefTrap) : List Byte := bytesOfNat 4 d.cause ++ bytesOfNat 4 d.lane ++ bytesOf 8 d.addr

def tagBytes (f : Nat → Nat) : List Byte :=
  (List.range 64).map (fun i => BitVec.ofNat 8 (f (4 * i) + 4 * f (4 * i + 1) + 16 * f (4 * i + 2) + 64 * f (4 * i + 3)))

def saveMarker : Nat := 0x5AFE000000000001

/-- The monitor that an area records: in handler mode the one armed before entry, when there was one (R262, R265). -/
def areaMon (w : Wave) : Option Monitor := match w.handler with
  | some h => h.mon0.orElse (fun _ => w.mon)
  | none => w.mon

/-- The save area of a wave; `blocked` is flag [2]. -/
def waveArea (w : Wave) : List Byte :=
  let act := maskAct w
  let flags := b2n w.handler.isSome + 2 * b2n w.home.isSome + 4 * b2n (wavePaths w |>.any pathBlocked)
    + 8 * b2n (match areaMon w with
      | some m => m.fired.isNone
      | none => false)
  let payload := (List.range 256).flatMap (fun n => regBytes (waveReg w n))
  let body := bytesOf 4 act ++ bytesOf 4 w.fpctl ++ bytesOf 4 w.rseed ++ bytesOfNat 1 w.num ++ bytesOfNat 1 flags
    ++ bytesOfNat 2 w.queue.length ++ bytesOfNat 8 w.retired ++ List.replicate 32 0
    ++ tagBytes (fun n => shapeTag (waveReg w n)) ++ payload
    ++ (List.range 31).flatMap (fun n => bytesOf 4 (Tab.get (0 : Mask) w.preds n)) ++ List.replicate 4 0
    ++ slotBytes act w.slot0 ++ slotBytes act w.slot1 ++ w.queue.flatMap (queueBytes act) ++ monBytes (areaMon w)
    ++ padTo 128 (w.deferred.flatMap defBytes)
    ++ (match w.handler with
      | none => []
      | some h => padTo 64 ((List.range 8).flatMap (fun i => bytesOf 4 (Tab.get (0 : Word) h.regs (248 + i)))
          ++ (List.range 3).flatMap (fun i => bytesOf 4 (Tab.get (0 : Mask) h.preds (28 + i)))))
    ++ bytesOfNat 8 saveMarker
  bytesOfNat 4 1 ++ bytesOfNat 4 (body.length + 8) ++ body

/-! ## Reading a save area (R436) -/

/-- Registers read from their payloads: tags and bytes to a table; none for tag 11. -/
def readPayload (tags : Nat → Nat) (l : List Byte) : Nat → Nat → Nat → Tab Reg → Option (Tab Reg × Nat)
  | 0, _, o, t => some (t, o)
  | fuel + 1, n, o, t =>
    match tags n with
    | 0 => readPayload tags l fuel (n + 1) (o + 4) (Tab.set (.u 0) t n (.u (BitVec.ofNat 32 (fieldAt l o 4))))
    | 1 => readPayload tags l fuel (n + 1) (o + 8)
        (Tab.set (.u 0) t n (.a (BitVec.ofNat 32 (fieldAt l o 4)) (BitVec.ofNat 32 (fieldAt l (o + 4) 4))))
    | 2 => readPayload tags l fuel (n + 1) (o + 128)
        (Tab.set (.u 0) t n (.g ((List.range 32).map (fun i => BitVec.ofNat 32 (fieldAt l (o + 4 * i) 4)))))
    | _ => none

def readSlot (l : List Byte) (o : Nat) : Option Path :=
  let p : Path := { pc := BitVec.ofNat 64 (fieldAt l o 8), mask := BitVec.ofNat 32 (fieldAt l (o + 8) 4) }
  match fieldAt l (o + 12) 4 with
  | 0 => none
  | 2 => some { p with st := .join 0 }
  | 3 => some { p with st := .wsync (BitVec.ofNat 32 (fieldAt l (o + 16) 4)) }
  | _ => some p

def readQueued (l : List Byte) (o : Nat) : QPath :=
  { pc := BitVec.ofNat 64 (fieldAt l o 8), mask := BitVec.ofNat 32 (fieldAt l (o + 8) 4),
    wait := fieldAt l (o + 12) 4,
    sync := if fieldAt l (o + 16) 4 = 3 then some (BitVec.ofNat 32 (fieldAt l (o + 20) 4)) else none }

/-- Masks that are pairwise disjoint and whose union is `act`. -/
def masksCover (act : Mask) (l : List Mask) : Bool :=
  let u := l.foldl (fun a m => a ||| m) 0
  u == act && sumNat (l.map (fun m => (maskLanes m).length)) == (maskLanes act).length

/-- Bytes that an area or an image must hold as zero: a nonzero one has it refused (R6). -/
def zeroAt (l : List Byte) (spans : List (Nat × Nat)) : Bool := spans.all (fun x => fieldAt l x.1 x.2 == 0)

/-- The wave with its interrupted state replaced by an area; none when R436 or a reserved byte refuses it (R6, R265). -/
def areaWave (w : Wave) (l : List Byte) : Option Wave :=
  let total := fieldAt l 4 4
  let flags := fieldAt l 21 1
  let q := fieldAt l 22 2
  let act : Mask := BitVec.ofNat 32 (fieldAt l 8 4)
  let tags := fun n => bitsOf (fieldAt l (64 + n / 4) 1) (2 * (n % 4)) 2
  if fieldAt l 0 4 ≠ 1 ∨ 30 < q ∨ fieldAt l 20 1 ≠ w.num ∨ act ≠ maskAct w ∨ bitOf flags 1 ≠ w.home.isSome then none
  else match readPayload tags l 256 0 128 [] with
    | none => none
    | some (regs, o) =>
      let oq := o + 128 + 48
      let om := oq + 24 * q
      let od := om + 16
      let oh := od + 128
      let oe := if bitOf flags 0 then oh + 64 else oh
      let s0 := readSlot l (o + 128)
      let s1 := readSlot l (o + 152)
      let qs := (List.range q).map (fun i => readQueued l (oq + 24 * i))
      let masks := (s0.toList ++ s1.toList).map (·.mask) ++ qs.map (·.mask)
      let reserved := zeroAt l [(32, 32), (o + 124, 4), (o + 148, 4), (o + 172, 4)]
      if total ≠ oe + 8 ∨ fieldAt l oe 8 ≠ saveMarker ∨ !masksCover act masks ∨ !reserved then none
      else
        let defs := (List.range 8).filterMap (fun i =>
          let c := fieldAt l (od + 16 * i) 4
          if c = 0 then none
          else some ({ cause := c, sub := 0, lane := fieldAt l (od + 16 * i + 4) 4,
                       addr := BitVec.ofNat 64 (fieldAt l (od + 16 * i + 8) 8) } : DefTrap))
        let size := fieldAt l (om + 8) 4
        let mon : Option Monitor := if size = 0 then none
          else some { scr := fieldAt l (om + 12) 4 == 1, addr := BitVec.ofNat 64 (fieldAt l om 8), size := size,
                      fired := some 1 }
        some { w with
          regs := regs,
          preds := (List.range 31).foldl (fun t n =>
            Tab.set 0 t n (BitVec.ofNat 32 (fieldAt l (o + 4 * n) 4) : Mask)) [],
          fpctl := BitVec.ofNat 32 (fieldAt l 12 4) &&& fpctlMask,
          rseed := BitVec.ofNat 32 (fieldAt l 16 4),
          slot0 := s0, slot1 := s1, queue := qs, deferred := defs, mon := mon, op := {},
          badRegs := [] }

/-- The handler bank of an area (R265), when flag [0] is set. -/
def areaBank (l : List Byte) : Option (Tab Word × Tab Mask) :=
  if !bitOf (fieldAt l 21 1) 0 then none
  else
    let o := fieldAt l 4 4 - 72
    some ((List.range 8).foldl (fun t i => Tab.set 0 t (248 + i) (BitVec.ofNat 32 (fieldAt l (o + 4 * i) 4) : Word)) [],
      (List.range 3).foldl (fun t i => Tab.set 0 t (28 + i) (BitVec.ofNat 32 (fieldAt l (o + 32 + 4 * i) 4) : Mask)) [])

/-! ## Images of workgroups (R275) -/

def align64 (n : Nat) : Nat := (n + 63) / 64 * 64

/-- Barrier `i` of an image. -/
def barBytes (b : HwBar) : List Byte :=
  bytesOfNat 8 (b.arrived.toNat + 2 ^ 32 * b.count + 2 ^ 38 * b2n b.isOpen)

/-- One bit per 128-byte line: set when the line is full (R275). -/
def feBytes (lines : Nat) (full : Nat → Bool) : List Byte :=
  (List.range ((lines + 7) / 8)).map (fun j =>
    BitVec.ofNat 8 (sumNat ((List.range 8).map (fun i => if 8 * j + i < lines ∧ full (8 * j + i) then 2 ^ i else 0))))

/-- Sections placed at multiples of 64 from an offset: the bytes with padding, and the offset of each. -/
def placeSections : Nat → List (List Byte) → List Byte × List Nat
  | _, [] => ([], [])
  | o, l :: t =>
    let p := align64 (o + l.length)
    let r := placeSections p t
    (padTo (p - o) l ++ r.1, o :: r.2)

/-- An image in the layout of R275. `areas`: wave number and save area; `single` marks a hold by whalt of one wave. -/
def imageBytes (single : Bool) (scratch : Nat) (areas : List (Nat × List Byte)) (bars : Nat → HwBar)
    (fe : Nat → Bool) (scr acc : List Byte) : List Byte :=
  let map := if single then [] else feBytes (scratch / 128) fe
  let secs := placeSections 512 (areas.map Prod.snd ++ [map, scr, acc])
  let offs := secs.2
  let n := areas.length
  let area := fun k => match indexWhere (fun x => x.1 == k) areas with
    | some i => offs.getD i 0
    | none => 0
  let total := 512 + secs.1.length
  bytesOfNat 4 2 ++ bytesOfNat 4 total ++ bytesOfNat 1 n ++ bytesOfNat 1 (if single then 2 else 1)
    ++ List.replicate 6 0 ++ bytesOfNat 4 scratch ++ bytesOfNat 4 scr.length ++ bytesOfNat 4 acc.length
    ++ List.replicate 4 0 ++ bytesOfNat 8 (offs.getD n 0) ++ bytesOfNat 8 (offs.getD (n + 1) 0)
    ++ bytesOfNat 8 (offs.getD (n + 2) 0) ++ List.replicate 8 0
    ++ (List.range 16).flatMap (fun i => barBytes (bars i)) ++ (List.range 32).flatMap (fun k => bytesOfNat 8 (area k))
    ++ List.replicate 64 0 ++ secs.1

/-- The parts of an image. -/
def imageArea (img : List Byte) (k : Nat) : Option (List Byte) :=
  let o := fieldAt img (192 + 8 * k) 8
  if o = 0 then none else some ((img.drop o).take (fieldAt img (o + 4) 4))

def imageBar (img : List Byte) (i : Nat) : HwBar :=
  let x := fieldAt img (64 + 8 * i) 8
  { arrived := BitVec.ofNat 32 x, count := bitsOf x 32 6, isOpen := bitOf x 38 }

/-- The reserved fields of an image are zero (R6, R275). -/
def imageReserved (img : List Byte) : Bool :=
  zeroAt img [(10, 6), (28, 4), (56, 8), (448, 64)] && fieldAt img 9 1 / 4 == 0
    && (List.range 16).all (fun i => fieldAt img (64 + 8 * i) 8 / 2 ^ 39 == 0)

def imageScr (img : List Byte) : List Byte := (img.drop (fieldAt img 40 8)).take (fieldAt img 20 4)
def imageAcc (img : List Byte) : List Byte := (img.drop (fieldAt img 48 8)).take (fieldAt img 24 4)
def imageFull (img : List Byte) (i : Nat) : Bool := bitOf (fieldAt img (fieldAt img 32 8 + i / 8) 1) (i % 8)

end Sys2Proof.Machine
end

