-- ==== Sys2Proof/Machine/Ops.lean ====
section
/-! DEFINITION. Taking a trap and returning from one; ending, stopping and holding a workgroup (R200, R201, R251-R264,
R274, R275, R277, R278). -/

namespace Sys2Proof.Machine

/-! ## Tasks that end (R173, R179, R263) -/

/-- Whether a task's type is persistent (R165). -/
def persistent (t : Task) : Bool := bitOf (fieldAt t.entry 0 4) 1

/-- A progress event of a task (R180, R181). -/
def progress (s : State) (id : Option Nat) : State :=
  match id with
  | none => s
  | some k => modTask s k (fun t => if persistent t then { t with cycles := 0, expired := false } else t)

/-! ## Workgroups -/

def groupWaves (s : State) (g : Workgroup) : List (Nat × Wave) :=
  g.waves.filterMap (fun i => (Tab.find s.waves i).map (fun w => (i, w)))

/-- Waves of a workgroup that have not ended (R212). -/
def unended (s : State) (g : Workgroup) : List (Nat × Wave) := (groupWaves s g).filter (fun x => !waveEnded x.2)

/-- Engine commands of a workgroup still in its core's scoreboard. -/
def groupCmds (s : State) (k : Nat) (g : Workgroup) : List Cmd :=
  (getCore s (coreKey g.node g.unit)).score.filter (fun c => c.wg == some k)

/-- A barrier with count "all" completes when every unended attached wave has arrived (R392). -/
def barCheck (s : State) (g : Workgroup) (b : HwBar) : HwBar :=
  if !b.isOpen ∨ b.count ≠ 0 then b
  else if (unended s g).all (fun x => x.2.home.isSome || b.arrived.getLsbD x.2.num) then
    { b with isOpen := false, arrived := 0, leaving := b.leaving ||| b.arrived }
  else b

/-- The open barriers of a workgroup are looked at again after a wave of it ended or detached (R392). -/
def barsCheck (s : State) (k : Nat) : State :=
  modWg s k (fun g => { g with bars := Tab.mapVals (fun _ b => barCheck s g b) g.bars })

/-- The landing slot of a detached wave is freed (R186, R218). -/
def freeLanding (s : State) (w : Wave) : State :=
  if w.home.isSome then modCore s (waveCore w) (fun c => { c with landing := c.landing.filter (fun p => p != w.part) })
  else s

/-- Whether a wave is on its core: not ended, and its workgroup neither parked nor saved. -/
def waveOnCore (s : State) (w : Wave) : Bool :=
  !waveEnded w && (match w.wg.bind (getWg s) with
    | none => true
    | some g => (match g.st with
      | .resident | .halting _ _ _ => true
      | _ => false))

/-- A core that holds no wave of a context gives up the context's tokens that it holds (R387). -/
def tokenAutoRelease (s : State) (node unit asid : Nat) : State :=
  let a := agentId s node unit
  if s.waves.any (fun e => e.2.node == node && e.2.unit == unit && e.2.asid == asid && waveOnCore s e.2) then s
  else
    let sent := fun (t : Token) => inFlight s (fun m => match m with
      | .tokRel b x v _ _ => b == a && x == t.asid && v == t.base
      | _ => false)
    (s.tokens.filter (fun t => t.asid == asid && t.holder == some a && t.moving.isNone && !sent t)).foldl
      (fun u t => send u node t.node .syn t.base (.tokRel a t.asid t.base none (releaseEntries u node unit .pkg))) s

/-! ## Fault records of waves (R254) -/

/-- The record of a trap of a wave. -/
def trapRecord (s : State) (w : Wave) (t : TrapInfo) (origin : Nat) : FaultInfo :=
  { cause := t.cause, sub := t.sub, origin := origin, deferred := t.deferred, handler := w.handler.isSome,
    detached := w.home.isSome, scr := t.scr, lost := t.lost, pc := t.pc, fmask := t.fmask, pmask := t.pmask,
    addr := t.addr, agent := waveAgent s w, asid := w.asid, wave := w.num, xkind := t.xkind, task := w.task,
    ttype := w.ttype, retired := w.retired, accloc := t.accloc, ptime := some t.time,
    skid := match w.run with
      | .halting _ k => k
      | .stopped k => k
      | _ => 0 }

/-- The boundary at which a wave stands: the path of the slot of its last turn, else another. -/
def boundaryPath (w : Wave) : Option Path :=
  match curPath w with
  | some p => some p
  | none => (wavePaths w).head?

def boundaryPc (w : Wave) : DWord := match boundaryPath w with
  | some p => pathPc p
  | none => 0

/-- The record of a sibling that a group halt stopped (R254 origin 1). -/
def siblingRecord (s : State) (w : Wave) (t : TrapInfo) : FaultInfo :=
  { trapRecord s w { t with fmask := 0, addr := 0, pc := boundaryPc w, pmask := maskAct w, deferred := false,
                            scr := false, xkind := 0, accloc := 0, lost := w.defLost } 1 with }

/-- A run of slots of the debug pool is free again (R275). -/
def freeRunSlots (s : State) (asid slot n : Nat) : State :=
  modCtx s asid (fun c => { c with poolUsed := c.poolUsed.filter (fun k => !(decide (slot ≤ k) && decide (k < slot + n))) })

/-- The run of a wave that `whalt` holds alone is free again. -/
def freeWaveRun (s : State) (w : Wave) : State := match w.run with
  | .held a n => freeRunSlots s w.asid a n
  | _ => s

/-- Everything that a workgroup holds goes (R185, R218, R263): reservations are filled void, landing slots and pool slots
freed, its task and the task's leases end. -/
def dropGroup (s : State) (k : Nat) : State :=
  match getWg s k with
  | none => s
  | some g =>
    let s1 := g.waves.foldl (fun t i => freeWaveRun (freeLanding (voidReservations t i) (getWave t i)) (getWave t i)) s
    let s2 := { s1 with waves := g.waves.foldl (fun t i => Tab.erase t i) s1.waves,
                        watches := s1.watches.filter (fun x => !g.waves.contains x.wave),
                        wgs := Tab.erase s1.wgs k }
    let s3 := modCore s2 (coreKey g.node g.unit) (fun c => { c with idleSince := s2.time })
    let s4 := (groupWaves s g).foldl (fun t x => tokenAutoRelease t x.2.node x.2.unit x.2.asid) s3
    match g.task with
    | some t => taskGone s4 t
    | none => s4

/-- A workgroup without a task, of a resumed continuation, goes when its waves and commands have ended (R178). -/
def soloDone (s : State) (k : Nat) : State :=
  match getWg s k with
  | none => s
  | some g =>
    if g.task.isNone ∧ g.st = .resident ∧ (unended s g).isEmpty ∧ (groupCmds s k g).isEmpty then dropGroup s k else s

/-- A wave whose last path has ended (R212): its reservations are filled void, its monitor goes, a landing slot is
freed, and its workgroup's barriers are looked at again. -/
def endWave (s : State) (id : Nat) : State :=
  let w := getWave s id
  let s1 := voidReservations s id
  let s2 := freeLanding { s1 with watches := s1.watches.filter (fun x => x.wave != id) } w
  let s3 := setWave s2 id { w with mon := none, slot0 := none, slot1 := none, queue := [], handler := none }
  let s4 := tokenAutoRelease s3 w.node w.unit w.asid
  match w.wg with
  | some k => soloDone (barsCheck s4 k) k
  | none => s4

/-- The workgroup ends by R263: the records, then everything goes. -/
def endGroup (s : State) (k : Nat) : State :=
  match getWg s k with
  | none => s
  | some g =>
    match g.stop with
    | none => dropGroup s k
    | some (first, t) =>
      let post := fun (u : State) (x : Nat × Wave) =>
        if x.1 = first then (if t.posted then u else (postFault u (trapRecord u x.2 t 0) none).1)
        else match x.2.trapped with
          | some own => (postFault u (trapRecord u x.2 own 0) none).1
          | none => if g.gstop then (postFault u (siblingRecord u x.2 t) none).1 else u
      dropGroup ((groupWaves s g).foldl post s) k

/-! ## Holding for the debugger (R274, R275) -/

/-- The image of a workgroup: scratchpad and accumulator from the core, or from the image of a parked or saved
one. -/
def groupScratch (s : State) (g : Workgroup) : List Byte :=
  match g.st with
  | .parked _ | .saved => g.img
  | _ => (List.range g.scratch).map (fun i => Tab.get 0 (getCore s (coreKey g.node g.unit)).scr (g.off + i))

def groupAcc (s : State) (g : Workgroup) : List Byte :=
  match g.st with
  | .parked _ | .saved => g.imgAcc
  | _ => (List.range (g.scratch / 2)).map (fun i => Tab.get 0 (getCore s (coreKey g.node g.unit)).acc (g.off / 2 + i))

/-- Empty lines of a workgroup's allocation, counted from its first. -/
def groupEmpty (s : State) (g : Workgroup) : List Nat :=
  match g.st with
  | .parked _ | .saved => g.imgFe
  | _ => (List.range (g.scratch / 128)).filter (fun i =>
      (Tab.find (getCore s (coreKey g.node g.unit)).empty (g.off / 128 + i)).isSome)

/-- The lowest run of n consecutive free slots of a debug pool of `total` slots. -/
def freeRun (used : List Nat) (total n : Nat) : Option Nat :=
  (List.range (total + 1 - n)).find? (fun a => (List.range n).all (fun i => !used.contains (a + i)))

def poolSlots (c : Ctx) : Nat :=
  let l := bitsOf c.dbgPool.toNat 59 5
  if 1 ≤ l ∧ l ≤ 16 then 2 ^ l else 0

def poolBase (c : Ctx) : Nat := bitsOf c.dbgPool.toNat 16 38 * 65536

/-- An image is written into a run of pool slots; none when there is no run, or the write fails. -/
def poolWrite (s : State) (asid : Nat) (img : List Byte) : State × Option (Nat × Nat) :=
  let c := getCtx s asid
  let n := (img.length + 65535) / 65536
  match freeRun c.poolUsed (poolSlots c) n with
  | none => (s, none)
  | some a =>
    let r := unitWrite s asid (vaFull (poolBase c + 65536 * a)) img
    match r.2 with
    | some _ => (r.1, none)
    | none =>
      (modCtx r.1 asid (fun c => { c with poolUsed := c.poolUsed ++ (List.range n).map (fun i => a + i) }), some (a, n))

def slotVa (c : Ctx) (slot : Nat) : Nat := (vaFull (poolBase c + 65536 * slot)).toNat

/-- A wave that `whalt` holds alone has a run of its own (R275). -/
def heldAlone (w : Wave) : Bool := match w.run with
  | .held _ _ => true
  | _ => false

/-- The image of a whole workgroup (R275). Barriers keep the arrivals of their open phases; a detached wave is saved as the
attached one that will be restored (R218); a wave held alone stays in its own run. -/
def groupImage (s : State) (g : Workgroup) : List Byte :=
  let empty := groupEmpty s g
  let ws := (unended s g).filter (fun x => !heldAlone x.2)
  imageBytes false g.scratch (ws.map (fun x => (x.2.num, waveArea { x.2 with home := none }))) (fun i => Tab.get {} g.bars i)
    (fun i => !empty.contains i) (groupScratch s g) (groupAcc s g)

/-- An acquire that is given up holds the core's misses no longer than its answers say (R81). -/
def dropOp (s : State) (id : Nat) : State :=
  let w := getWave s id
  let s1 := if w.op.due = 0 then s else armKnown s (waveCore w) w.op.due
  modWave s1 id (fun x => { x with op := {} })

/-- A wave stands at its boundary: what it had begun and not retired is undone (R200). -/
def rewind (s : State) (id : Nat) : State := modWave (dropOp s id) id rewindWave

/-- Paths that wait for a token leave its waiting list and will ask again. -/
def withdrawTokens (s : State) (id : Nat) : State :=
  modWave { s with tokens := s.tokens.map (fun t => { t with waiters := t.waiters.filter (fun x => x.2.1 != id) }) } id
    (mapPaths (fun q => match q.st with
      | .blocked (.racq _ none) => { q with st := .live }
      | _ => q))

/-- Blocked paths of a saved or restored wave execute their instruction again (R175, R182). -/
def unblock (w : Wave) : Wave :=
  { mapPaths (fun p => match p.st with
      | .blocked _ => { p with st := .live }
      | _ => p) w with blockedAt := none }

/-- A wave is saved (R218, R265): its monitor counts as lost, and it will be restored attached with an arrival acquire
over rset0, which also keeps R238 for waves that come to another core (assumption log 15). -/
def saveWave (s : State) (i : Nat) : State :=
  let s0 := withdrawTokens (rewind s i) i
  let w := getWave s0 i
  if w.node = noDie then s
  else
  let s1 := freeLanding { s0 with watches := s0.watches.filter (fun x => x.wave != i) } w
  let es := releaseEntries s0 w.node w.unit .pkg ++ (match w.arrive with
    | some x => x.2
    | none => [])
  setWave s1 i { unblock w with
    mon := w.mon.map (fun m => { m with fired := some (m.fired.getD 1) }), home := none, arrive := some (0, es),
    ship := max w.ship (nodeTime s0 w.node), run := if heldAlone w then w.run else .run }

/-- What the record of a hold says of a wave that no trap stopped (R254): its boundary, its threads, no cause. -/
def haltInfo (s : State) (w : Wave) : TrapInfo :=
  { cause := 0, sub := 0, pc := boundaryPc w, fmask := 0, pmask := maskAct w, addr := 0, time := nodeTime s (roleHub s) }

/-- The agent that the record of a hold names; a workgroup on no die has none. -/
def holdAgent (s : State) (g : Workgroup) (w : Wave) : Nat :=
  if g.node = noDie ∨ w.node = noDie then 0 else agentId s w.node w.unit

/-- A stopped workgroup is held; without a free run it ends by R263 (R274). -/
def holdGroup (s : State) (k : Nat) : State :=
  match getWg s k with
  | none => s
  | some g =>
    let r := poolWrite s g.asid (groupImage s g)
    match r.2 with
    | none => endGroup r.1 k
    | some (a, n) =>
      let c := getCtx r.1 g.asid
      let rec_ : FaultInfo := match g.stop with
        | some (i, t) => { trapRecord r.1 (getWave r.1 i) t 6 with pmask := maskAct (getWave r.1 i), save := slotVa c a }
        | none => (match (unended r.1 g).head? with
          | some x => { trapRecord r.1 x.2 (haltInfo r.1 x.2) 6 with save := slotVa c a, agent := holdAgent r.1 g x.2 }
          | none => { cause := 0, sub := 0, origin := 6, asid := g.asid, save := slotVa c a })
      let s1 := (postFault r.1 rec_ none).1
      let s2 := (unended s1 g).foldl (fun t x => saveWave t x.1) (setWg s1 k
        { g with st := .held a n, stop := none, cluster := if g.node = noDie then g.cluster else b2n (inToken s g.node) })
      let s3 := (groupWaves s2 g).foldl (fun t x => modWave t x.1 (fun w =>
        { w with mon := none, trapped := none, run := if heldAlone w then w.run else .stopped 0 })) s2
      (groupWaves s3 g).foldl (fun t x => tokenAutoRelease t x.2.node x.2.unit x.2.asid) s3

/-- A wave stands still: stopped by the halt, or held alone by `whalt`. -/
def isStopped (w : Wave) : Bool := match w.run with
  | .stopped _ | .held _ _ => true
  | _ => false

/-- A stopping workgroup whose waves have all stopped and whose engine commands have completed ends, or is held (R263,
R264, R274). -/
def stopProgress (s : State) (k : Nat) : State :=
  match getWg s k with
  | none => s
  | some g => match g.st with
    | .halting _ _ hold =>
      if (unended s g).all (fun x => isStopped x.2 && x.2.sq.isEmpty) ∧ (groupCmds s k g).isEmpty then
        (if hold then holdGroup s k else endGroup s k)
      else s
    | _ => s

/-- A workgroup begins to stop for the trap of a wave, to end or to be held (R263, R264, R274): with GSTOP the halt is
broadcast, else every other wave stops at once. -/
def beginStop (s : State) (k id : Nat) (g : Workgroup) (t : TrapInfo) (hold : Bool) : State :=
  let s1 := setWg s k { g with st := .halting t.cause t.sub hold, stop := some (id, t) }
  let s2 := if g.gstop then s1
    else g.waves.foldl (fun u i => if i = id ∨ heldAlone (getWave u i) then u else
      modWave (rewind u i) i (fun x => { x with run := .stopped 0 })) s1
  stopProgress s2 k

/-- A trap that a wave raises while its workgroup halts to be held is taken after RESUME (R277): a precise one is raised
again at the stopping point, a deferred one is pending again. -/
def putBack (w : Wave) (t : TrapInfo) : Wave :=
  if t.deferred then
    { w with trapped := none, defLost := t.lost,
             deferred := { cause := t.cause, sub := t.sub, lane := (lowestLane t.fmask).getD 0, addr := t.addr,
                           hnd := w.handler.isSome } :: w.deferred }
  else { w with trapped := none }

/-- A wave with a trap that goes to no handler stops its workgroup (R263, R264). -/
def stopGroup (s : State) (id : Nat) (t : TrapInfo) : State :=
  let w := getWave s id
  let skid := match w.run with
    | .halting _ k => k
    | _ => 0
  let s1 := setWave s id { w with trapped := some t, run := .stopped skid }
  match w.wg with
  | none => endWave (postFault s1 (trapRecord s1 w t 0) none).1 id
  | some k =>
    match getWg s1 k with
    | none => s1
    | some g =>
      match g.st with
      | .halting _ _ hold => stopProgress (if hold then modWave s1 id (fun x => putBack x t) else s1) k
      | _ =>
        let c := getCtx s w.asid
        -- BRKD takes the place of the handler, which handler mode does not enter (R262, R273, R365)
        beginStop s1 k id g t (c.holdf || (c.brkd && t.cause == cBreakpoint && w.handler.isNone))

/-! ## Taking a trap -/

/-- Whether a context's handler takes a trap (R257). -/
def handlerTakes (c : Ctx) (t : TrapInfo) : Bool :=
  c.trapPc != 0 && canonical c.trapPc && c.trapPc.toNat % 4 == 0 && causeListed t.cause && t.cause != cWatchdog
    && c.trapEn.getLsbD t.cause && !(t.cause == cEcc && decide (3 ≤ t.sub))
    && !(c.brkd && t.cause == cBreakpoint)

/-- The bits of fpctl that handler mode starts with: flags kept, every enable 0 (R258). -/
def handlerFpctl (x : Word) : Word := x &&& ~~~0x1F00#32

/-- Entry to the user handler (R258). -/
def enterHandler (w : Wave) (pc : DWord) (t : TrapInfo) : Wave :=
  { w with handler := some { path := { pc := pc, mask := 1 }, fpctl := handlerFpctl w.fpctl, trap := t, mon0 := w.mon },
           mon := none }

/-- A trap of a wave or thread is taken at its boundary (R200, R257, R258, R262-R264, R277, R278). Everything
younger is squashed: paths stand at their retired instructions. -/
def takeTrap (s0 : State) (id : Nat) (t0 : TrapInfo) : State :=
  let s := rewind s0 id
  let w0 := getWave s id
  let t := { t0 with lost := w0.defLost, time := nodeTime s w0.node }
  let w := { w0 with defLost := 0, blockedAt := none }
  let s := if t.cause = cEcc ∧ 3 ≤ t.sub then countUe s w.node t.sub else s
  if w.general then
    if w.sup then dieDown s w.node
    else
      setWave s id { w with sup := true, trapped := some t,
                            slot0 := some { pc := (getNode s w.node).trapVec, mask := 1 } }
  else if w.handler.isSome then stopGroup (setWave s id w) id t
  else match w.run with
    | .halting _ k =>
      -- R264: its own trap stops it; R277: under a hold it is taken after RESUME
      let hold := match w.wg.bind (getWg s) with
        | some g => (match g.st with
          | .halting _ _ h => h
          | _ => true)
        | none => false
      let s1 := setWave s id { (if hold then putBack w0 t else { w0 with trapped := some t }) with run := .stopped k }
      match w.wg with
      | some g => stopProgress s1 g
      | none => s1
    | _ =>
      if handlerTakes (getCtx s w.asid) t then
        setWave { s with watches := s.watches.filter (fun x => x.wave != id) } id
          (enterHandler w (getCtx s w.asid).trapPc t)
      else stopGroup (setWave s id w) id t

/-- A precise trap of the current instruction of the current wave; `e` is its entry mask (R200, R251). -/
def preciseTrap (w : Wave) (p : Path) (cause sub : Nat) (e fmask : Mask) (addr : DWord) : TrapInfo :=
  { cause := cause, sub := sub, pc := pathPc p, fmask := fmask, pmask := p.mask, addr := addr, emask := e,
    slot := w.cur, fed := p.fed.isSome }

def trapNow (s : State) (cause sub : Nat) (e fmask : Mask) (addr : DWord) : State :=
  let w := getWave s s.cur
  match curPath w with
  | none => s
  | some p => takeTrap s s.cur (preciseTrap w p cause sub e fmask addr)

/-- A fault that the check of an instruction finds in a lane: cause, SUB, address, SCR. -/
structure LaneFault where
  cause : Nat
  sub : Nat := 0
  addr : DWord := 0
  scr : Bool := false
  xkind : Nat := 0
  deriving DecidableEq, Repr

/-- The trap that the faults of the lanes of an instruction give: the lowest code, with the lanes that raised it; SUB
and address of the lowest of them (R252). -/
def lanesTrap (w : Wave) (p : Path) (e : Mask) (fs : List (Nat × LaneFault)) : Option TrapInfo :=
  match minBy (fun x => x.2.cause * 32 + x.1) fs with
  | none => none
  | some x =>
    some { preciseTrap w p x.2.cause x.2.sub e (maskOf (fun l => fs.any (fun y => y.1 == l && y.2.cause == x.2.cause)))
             x.2.addr with scr := x.2.scr, xkind := x.2.xkind }

/-- A pending deferred trap may be taken now: in handler mode only one of an access made in that mode (R262). -/
def deferredReady (w : Wave) (d : DefTrap) : Bool := w.handler.isNone || d.hnd

/-- The oldest deferred trap that is ready is taken at the wave's boundary (R201, R253). -/
def takeDeferred (s : State) (id : Nat) : State :=
  let w := getWave s id
  match indexWhere (deferredReady w) w.deferred with
  | none => s
  | some k => match w.deferred[k]?, boundaryPath w with
    | some d, some p =>
      takeTrap (setWave s id { w with deferred := listErase w.deferred k }) id
        { cause := d.cause, sub := d.sub, pc := pathPc p, fmask := laneBit d.lane, pmask := p.mask, addr := d.addr,
          deferred := true, emask := p.mask, slot := w.cur }
    | _, _ => s

/-- A deferred trap is due: one is ready, and the wave runs (R201, R262, R264). It comes before an instruction that waits
at the head, unless lanes of that one have been performed (R200, R380). -/
def deferredDue (w : Wave) : Bool :=
  w.deferred.any (deferredReady w) && w.run == .run && (boundaryPath w).isSome && w.arrive.isNone && w.op.vals.isEmpty

/-! ## Returning from a trap (R261, R278, R433) -/

/-- The trapped path with the entry mask that the return names, or moved past the instruction. -/
def resumePath (p : Path) (t : TrapInfo) (mode : Nat) : Option Mask × DWord :=
  let after := t.pc + (if t.fed then 24 else 12)
  if t.deferred ∨ t.restored then (p.cut, p.pc)
  else if t.atomDone then (if mode = 0 then (some t.fmask, t.pc) else (none, after))
  else match mode with
    | 0 => (some t.emask, t.pc)
    | 1 => if t.emask &&& ~~~t.fmask = 0 then (none, after) else (some (t.emask &&& ~~~t.fmask), t.pc)
    | _ => (none, after)

/-- `tret` of a compute wave: the bank and `fpctl` of the interrupted state return, and the trapped path resumes. -/
def leaveHandler (w : Wave) (h : Handler) (mode : Nat) : Wave :=
  let w1 := { w with handler := none, op := {}, cur := h.trap.slot,
                     mon := h.mon0.map (fun m => { m with fired := some (m.fired.getD 1) }) }
  if h.restored ∨ h.trap.deferred then w1
  else match getSlot w1 w1.cur with
    | none => w1
    | some p =>
      let r := resumePath p h.trap mode
      match r.1 with
      | some m => setSlot w1 w1.cur (some { p with cut := some m })
      | none => movePath w1 r.2

/-- `tret` of a general-core thread: user mode at the trapped instruction or after it. -/
def leaveSupervisor (w : Wave) (t : TrapInfo) (mode : Nat) : Wave :=
  let r := resumePath { pc := t.pc, mask := 1 } t mode
  { w with sup := false, trapped := none, op := {}, slot0 := some { pc := r.2, mask := 1, cut := r.1 } }

/-! ## The frame of an instruction's meaning -/

/-- An instruction of the current wave: the checks at rename, then its own effect `k` on the wave's number, state and
path. A turn of a wave that has no path to run does nothing. -/
def gate (i : Instr) (s : State) (k : Nat → Wave → Path → Out) : Out :=
  let w := getWave s s.cur
  match curPath w with
  | none => .next s
  | some p =>
    match renameBad w i with
    | some c =>
      if !readCheck c then .next (trapNow s c.1 c.2 p.mask p.mask 0)
      else
        let x : Rd := ⟨s, w, p⟩
        let e := workMask x (instrGuard i)
        if e = 0 then (if queueWaits w i then .next s else k s.cur w p)
        else .next (trapNow s c.1 c.2 (entryMask w p (instrGuard i)) e 0)
    | none => if queueWaits w i then .next s else k s.cur w p

/-- An instruction that only retires. -/
def retireOnly (i : Instr) (s : State) : Out := gate i s (fun id w _ => .next (retire s id w))

end Sys2Proof.Machine
end

