-- ==== Sys2Proof/Machine/Trans.lean ====
section
/-! DEFINITION. The correctly rounded functions fex2, flg2, fsin, fcos and ftanh (R340). Each is computed in
fixed point as an interval that holds the exact value; the precision grows until both ends round to the same result.
Their values at nonzero arguments, but for whole powers, are irrational, so a rounded result is always inexact. -/

namespace Sys2Proof.Machine

/-! ## Series in fixed point with p fraction bits -/

/-- Sum of y^k / k!, from term `t` number `k` on. -/
def expTerms : Nat → Nat → Nat → Nat → Nat → Nat
  | 0, _, _, _, _ => 0
  | fuel + 1, p, y, k, t => t + expTerms fuel p y (k + 1) (t * y / 2 ^ p / (k + 1))

/-- e^y for 0 ≤ y < 1. -/
def expFix (p y : Nat) : Nat := expTerms (p / 2 + 24) p y 0 (2 ^ p)

/-- Sum of s / (2k + 1) * d^(-2k), from term k on: the series of the inverse tangent of 1 / d with its signs when
`alt`, and of its hyperbolic counterpart otherwise. -/
def atanTerms : Nat → Bool → Nat → Nat → Nat → Int
  | 0, _, _, _, _ => 0
  | fuel + 1, alt, d, k, s =>
    let x : Int := (s / (2 * k + 1) : Nat)
    (if alt && k % 2 == 1 then -x else x) + atanTerms fuel alt d (k + 1) (s / (d * d))

/-- pi by Machin's formula. -/
def piFix (p : Nat) : Nat :=
  (16 * atanTerms (p / 4 + 4) true 5 0 (2 ^ p / 5) - 4 * atanTerms (p / 8 + 4) true 239 0 (2 ^ p / 239)).toNat

/-- ln 2 as twice the inverse hyperbolic tangent of 1/3. -/
def ln2Fix (p : Nat) : Nat := (2 * atanTerms (p / 3 + 4) false 3 0 (2 ^ p / 3)).toNat

/-- Sum of z^(2k+1) / (2k+1) for |z| ≤ 1/5. -/
def atanhTerms : Nat → Nat → Int → Nat → Int → Int
  | 0, _, _, _, _ => 0
  | fuel + 1, p, z2, k, t => t / ((2 * k + 1 : Nat) : Int) + atanhTerms fuel p z2 (k + 1) (t * z2 / ((2 ^ p : Nat) : Int))

/-- Alternating terms of sine and cosine: t, then t * r^2 / ((k + 1)(k + 2)), with changing signs. -/
def sinTerms : Nat → Nat → Nat → Nat → Nat → Int
  | 0, _, _, _, _ => 0
  | fuel + 1, p, r2, k, t => (t : Int) - sinTerms fuel p r2 (k + 2) (t * r2 / 2 ^ p / ((k + 1) * (k + 2)))

def sinFix (p r : Nat) : Int := sinTerms (p / 2 + 24) p (r * r / 2 ^ p) 1 r
def cosFix (p r : Nat) : Int := sinTerms (p / 2 + 24) p (r * r / 2 ^ p) 0 (2 ^ p)

/-- m * 2^e in fixed point, rounded down. -/
def toFix (p m : Nat) (e : Int) : Nat :=
  let s := e + (p : Int)
  if 0 ≤ s then m * 2 ^ s.toNat else m / 2 ^ (-s).toNat

/-! ## Enclosures: value in units of 2^e -/

/-- An approximation v * 2^e whose error is below the bound. -/
structure Approx where
  v : Int
  e : Int
  err : Nat
  deriving DecidableEq, Repr

/-- 2^x for a number that is not whole. -/
def exp2Approx (neg : Bool) (m : Nat) (e : Int) (p : Nat) : Approx :=
  let x : Int := intOfSign neg (toFix p m e)
  let n := x / ((2 ^ p : Nat) : Int)
  let f := (x - n * ((2 ^ p : Nat) : Int)).toNat
  { v := expFix p (f * ln2Fix p / 2 ^ p), e := n - (p : Int), err := 1024 * p }

/-- log2 of a positive number that is no power of two. -/
def log2Approx (m : Nat) (e : Int) (p : Nat) : Approx :=
  let l := m.log2
  -- the number is f * 2^k with 2/3 ≤ f ≤ 4/3, and f = m / d
  let half := decide (4 * 2 ^ l < 3 * m)
  let d := if half then 2 ^ (l + 1) else 2 ^ l
  let k := e + (l : Int) + (if half then 1 else 0)
  let z := ((m : Int) - (d : Int)) * ((2 ^ p : Nat) : Int) / ((m : Int) + (d : Int))
  let a := atanhTerms (p / 4 + 8) p (z * z / ((2 ^ p : Nat) : Int)) 0 z
  { v := k * ((2 ^ p : Nat) : Int) + 2 * a * ((2 ^ p : Nat) : Int) / (ln2Fix p : Int), e := -(p : Int), err := 1024 * p }

/-- Sine or cosine in radians. -/
def trigApprox (cosine neg : Bool) (m : Nat) (e : Int) (p : Nat) : Approx :=
  let q := p + (e + (m.log2 : Int) + 1).toNat + 10
  let h := piFix q / 2
  let x := toFix q m e
  let k := x / h
  let r := (x - k * h) / 2 ^ (q - p)
  let j := (k + if cosine then 1 else 0) % 4
  let v := if j = 0 then sinFix p r else if j = 1 then cosFix p r else if j = 2 then -(sinFix p r) else -(cosFix p r)
  { v := if neg && !cosine then -v else v, e := -(p : Int), err := 1024 * p }

/-- The hyperbolic tangent of a positive number below 128. -/
def tanhApprox (m : Nat) (e : Int) (p : Nat) : Approx :=
  let y := 2 * toFix p m e
  let l := ln2Fix p
  let n := y / l + 1
  let q := expFix p (n * l - y) / 2 ^ n
  { v := (((2 ^ p - q) * 2 ^ p / (2 ^ p + q) : Nat) : Int), e := -(p : Int), err := 1024 * p }

/-- Rounds an enclosed irrational value; the precision doubles while the two ends differ. -/
def zivRound (f : Fmt) (mode : RMode) (approx : Nat → Approx) : Nat → Nat → Nat × Exc
  | 0, _ => (fmtNan f, excNone)
  | fuel + 1, p =>
    let a := approx p
    let lo := a.v - (a.err : Int)
    let hi := a.v + (a.err : Int)
    let neg := decide (hi < 0)
    let mlo := if neg then hi.natAbs else lo.natAbs
    let mhi := if neg then lo.natAbs else hi.natAbs
    let ra := roundMag f mode neg mlo a.e true
    if (decide (0 < lo) || neg) && decide (64 ≤ mlo.log2) && ra == roundMag f mode neg (mhi - 1) a.e true then ra
    else zivRound f mode approx fuel (2 * p)

def zivStart (f : Fmt) (mode : RMode) (approx : Nat → Approx) : Nat × Exc := zivRound f mode approx 8 128

/-- Whether m * 2^e is a whole number, and which. -/
def wholeOf (neg : Bool) (m : Nat) (e : Int) : Option Int :=
  if 0 ≤ e then some (intOfSign neg (m * 2 ^ e.toNat))
  else
    let s := min (-e).toNat (m.log2 + 1)
    if m % 2 ^ s = 0 ∧ s = (-e).toNat then some (intOfSign neg (m / 2 ^ s)) else none

/-- fex2 (R340). -/
def exp2Round (f : Fmt) (mode : RMode) (a : Val) : Nat × Exc :=
  match a with
  | .nan s => roundOp f mode (.nan false, s)
  | .inf neg => roundOp f mode (if neg then valZero false else .inf false, false)
  | .num neg m e =>
    if m = 0 then roundOp f mode (.num false 1 0, false)
    else match wholeOf neg m e with
      | some n => roundMag f mode false 1 n false
      | none => zivStart f mode (exp2Approx neg m e)

/-- flg2 (R340). -/
def log2Round (f : Fmt) (mode : RMode) (a : Val) : Nat × Exc :=
  match a with
  | .nan s => roundOp f mode (.nan false, s)
  | .inf neg => if neg then roundOp f mode (.nan false, true) else roundOp f mode (.inf false, false)
  | .num neg m e =>
    if m = 0 then
      let r := roundVal f mode (.inf true)
      (r.1, excOr r.2 { dz := true })
    else if neg then roundOp f mode (.nan false, true)
    else if m = 2 ^ m.log2 then
      let k := e + (m.log2 : Int)
      roundVal f mode (.num (decide (k < 0)) k.natAbs 0)
    else zivStart f mode (log2Approx m e)

/-- fsin and fcos (R340). -/
def trigRound (cosine : Bool) (f : Fmt) (mode : RMode) (a : Val) : Nat × Exc :=
  match a with
  | .nan s => roundOp f mode (.nan false, s)
  | .inf _ => roundOp f mode (.nan false, true)
  | .num neg m e =>
    if m = 0 then roundOp f mode (if cosine then .num false 1 0 else valZero neg, false)
    else zivStart f mode (trigApprox cosine neg m e)

/-- ftanh (R340). At 64 and above the value lies between 1 - 2^(-160) and 1. -/
def tanhRound (f : Fmt) (mode : RMode) (a : Val) : Nat × Exc :=
  match a with
  | .nan s => roundOp f mode (.nan false, s)
  | .inf neg => roundOp f mode (.num neg 1 0, false)
  | .num neg m e =>
    if m = 0 then roundOp f mode (valZero neg, false)
    else if 64 ≤ toFix 0 m e then roundMag f mode neg (2 ^ 160 - 1) (-160) true
    else zivStart f mode (fun p => let x := tanhApprox m e p; { x with v := if neg then -x.v else x.v })

end Sys2Proof.Machine
end

