-- ==== Sys2Proof/Machine/Alu.lean ====
section
/-! DEFINITION. The frame that every lane instruction shares (R325-R328, R197), and the sources of ARITH words. -/

namespace Sys2Proof.Machine

/-- What a lane instruction writes: a register destination of n words, by a shape rule from sources, or a
predicate. -/
inductive AluDst where
  | reg (n : Nat) (rule : ShapeRule)
  | pred
  deriving DecidableEq, Repr

/-- The operands that decide the shape of a result: predicate sources and register sources. -/
structure AluSrc where
  preds : List Opnd := []
  srcs : List Src := []
  deriving DecidableEq, Repr

/-- The wave with the results of a lane instruction in the lanes of its entry mask (R325, R327). -/
def aluWrite (x : Rd) (h : Head) (d : AluDst) (a : AluSrc) (r : Nat → Nat) : Wave :=
  let e := workMask x h.g
  match d with
  | .reg n rule => writeDst x.w h.dst n (resultShape x h.g rule a.preds a.srcs) e r
  | .pred => writePredDst x.w h.dst e (maskOf (fun l => e.getLsbD l && r l != 0))

/-- A lane instruction that raises no exception. -/
def aluPure (i : Instr) (h : Head) (d : AluDst) (a : AluSrc) (r : Rd → Nat → Nat) (s : State) : Out :=
  gate i s (fun id w p => .next (retire s id (aluWrite ⟨s, w, p⟩ h d a (r ⟨s, w, p⟩))))

/-- A lane instruction whose lanes may raise floating-point exceptions: an enabled one traps with none of the effects,
else the flags are set (R197, R200, R252). -/
def aluExc (i : Instr) (h : Head) (d : AluDst) (a : AluSrc) (r : Rd → Nat → Nat × Exc) (s : State) : Out :=
  gate i s (fun id w p =>
    let x : Rd := ⟨s, w, p⟩
    let e := workMask x h.g
    match excTrap (readFpctl w) (fun l => (r x l).2) e with
    | some (c, m) => .next (trapNow s c 0 (entryMask w p h.g) m 0)
    | none =>
      let w1 := aluWrite x h d a (fun l => (r x l).1)
      .next (retire s id (writeFpctl w1 (excFlags (readFpctl w) (fun l => (r x l).2) e))))

/-! ## Sources of ARITH words -/

def src1 (f : ArithF) : List Src := [⟨f.h.sa, tyWords f.ty⟩]
def src2 (f : ArithF) : List Src := [⟨f.h.sa, tyWords f.ty⟩, ⟨f.h.sb, tyWords f.ty⟩]
def src3 (f : ArithF) : List Src := src2 f ++ [⟨f.h.sc, tyWords f.ty⟩]

/-- An integer or bit source in the operation type (R330): its bits. -/
def bitsA (f : ArithF) (x : Rd) (l : Nat) : Nat := opnd x f.ty f.hi f.h.sa l
def bitsB (f : ArithF) (x : Rd) (l : Nat) : Nat := opnd x f.ty f.hi f.h.sb l
def bitsC (f : ArithF) (x : Rd) (l : Nat) : Nat := opnd x f.ty f.hi f.h.sc l

/-- The number that bits stand for in an integer type (R330). -/
def intIn (t : Ty) (v : Nat) : Int := if tySigned t then signedOf v (tyWidth t) else (v : Int)

def intA (f : ArithF) (x : Rd) (l : Nat) : Int := intIn f.ty (bitsA f x l)
def intB (f : ArithF) (x : Rd) (l : Nat) : Int := intIn f.ty (bitsB f x l)
def intC (f : ArithF) (x : Rd) (l : Nat) : Int := intIn f.ty (bitsC f x l)

/-- A 32-bit count or selector, read as `.n32` (R326, R334). -/
def cntB (f : ArithF) (x : Rd) (l : Nat) : Nat := opnd x .n32 f.hi f.h.sb l
def cntC (f : ArithF) (x : Rd) (l : Nat) : Nat := opnd x .n32 f.hi f.h.sc l

/-- Reduction to the destination width (R331). -/
def reduceInt (t : Ty) (sat : Bool) (r : Int) : Nat :=
  let w := tyWidth t
  if !sat then natOfInt r w
  else if tySigned t then natOfInt (satInt r (-(2 ^ (w - 1) : Nat)) ((2 ^ (w - 1) : Nat) - 1)) w
  else (satInt r 0 ((2 ^ w : Nat) - 1)).toNat

/-- The rule under which iadd, isub, lea, imul and shl give affine results: 32-bit types only, and no saturation,
which would change values (R191, R192). -/
def affineRule (f : ArithF) (r : ShapeRule) : ShapeRule := if tyWidth f.ty = 32 ∧ !f.sat then r else .plain

end Sys2Proof.Machine
end

