-- ==== Sys2Proof/Machine/FloatOps.lean ====
section
/-! DEFINITION. Floating point in the lanes (R338-R345). -/

namespace Sys2Proof.Machine

/-! ## Sources: SRCMOD, then FTZ (R310, R326) -/

def hasImm (h : Head) : Bool := h.sa == .imm || h.sb == .imm || h.sc == .imm

/-- SRCMOD of operand field `pos` on an element code: ABS clears the sign, and NEG then inverts it. -/
def srcMod (f : ArithF) (pos : Nat) (bits : Nat) (code : Nat) : Nat :=
  if hasImm f.h then code
  else
    let top := 2 ^ (bits - 1)
    let c := if f.hi.getLsbD (2 * pos + 1) then code % top else code
    if f.hi.getLsbD (2 * pos) then (if top ≤ c then c - top else c + top) else c

/-- Element j of a source in a floating-point type. -/
def fpElem (f : ArithF) (t : Ty) (pos : Nat) (o : Opnd) (x : Rd) (l j : Nat) : Nat :=
  flushIn (tyFmt t) f.ftz (srcMod f pos (tyElemBits t) (elemOf t (opnd x t f.hi o l) j))

def codeA (f : ArithF) (x : Rd) (l j : Nat) : Nat := fpElem f f.ty 0 f.h.sa x l j
def codeB (f : ArithF) (x : Rd) (l j : Nat) : Nat := fpElem f f.ty 1 f.h.sb x l j
def codeC (f : ArithF) (x : Rd) (l j : Nat) : Nat := fpElem f f.ty 2 f.h.sc x l j

def valA (f : ArithF) (x : Rd) (l j : Nat) : Val := valOf (tyFmt f.ty) (codeA f x l j)
def valB (f : ArithF) (x : Rd) (l j : Nat) : Val := valOf (tyFmt f.ty) (codeB f x l j)
def valC (f : ArithF) (x : Rd) (l j : Nat) : Val := valOf (tyFmt f.ty) (codeC f x l j)

/-- The rounding of element j of lane l; only RS uses the hash (R285, R289). -/
def laneMode (rnd : Rnd) (sat ftz : Bool) (x : Rd) (l j : Nat) : RMode :=
  { rnd := rnd, sat := sat, ftz := ftz, hash := if rnd = .rs then srHash x.w.rseed (8 * l + j) else 0 }

def modeOf (f : ArithF) (x : Rd) (l j : Nat) : RMode := laneMode f.rnd f.sat f.ftz x l j

/-- Results of type RS always have shape G (R289). -/
def roundRule (rnd : Rnd) : ShapeRule := if rnd = .rs then .general else .plain

/-- A scalar or packed instruction: element j of the result and its exceptions. -/
def packElems (t : Ty) (r : Nat → Nat × Exc) : Nat × Exc :=
  (List.range (tyCount t)).foldl (fun a j =>
    let y := r j
    (a.1 + y.1 * 2 ^ (tyElemBits t * j), excOr a.2 y.2)) (0, excNone)

/-- A floating-point instruction on every element of its type. -/
def aluFloat (i : Instr) (f : ArithF) (srcs : List Src) (r : Rd → Nat → Nat → Nat × Exc) (s : State) : Out :=
  aluExc i f.h (.reg 1 (roundRule f.rnd)) { srcs := srcs } (fun x l => packElems f.ty (r x l)) s

/-! ## The basic operations (R339) -/

def addElem (f : ArithF) (x : Rd) (l j : Nat) : Nat × Exc :=
  roundOp (tyFmt f.ty) (modeOf f x l j) (sumVal f.rnd [valA f x l j, valB f x l j])

def subElem (f : ArithF) (x : Rd) (l j : Nat) : Nat × Exc :=
  roundOp (tyFmt f.ty) (modeOf f x l j) (sumVal f.rnd [valA f x l j, valNeg (valB f x l j)])

def mulElem (f : ArithF) (x : Rd) (l j : Nat) : Nat × Exc :=
  roundOp (tyFmt f.ty) (modeOf f x l j) (mulVal (valA f x l j) (valB f x l j))

def fmaElem (f : ArithF) (x : Rd) (l j : Nat) : Nat × Exc :=
  roundOp (tyFmt f.ty) (modeOf f x l j) (fmaVal f.rnd (valA f x l j) (valB f x l j) (valC f x l j))

def minMaxElem (max nan : Bool) (f : ArithF) (x : Rd) (l j : Nat) : Nat × Exc :=
  minMaxCode (tyFmt f.ty) max nan (codeA f x l j) (codeB f x l j)

def execFadd (f : ArithF) (s : State) : Out := aluFloat (.fadd f) f (src2 f) (addElem f) s
def execFsub (f : ArithF) (s : State) : Out := aluFloat (.fsub f) f (src2 f) (subElem f) s
def execFmul (f : ArithF) (s : State) : Out := aluFloat (.fmul f) f (src2 f) (mulElem f) s
def execFfma (f : ArithF) (s : State) : Out := aluFloat (.ffma f) f (src3 f) (fmaElem f) s
def execFmin (nan : Bool) (f : ArithF) (s : State) : Out := aluFloat (.fmin nan f) f (src2 f) (minMaxElem false nan f) s
def execFmax (nan : Bool) (f : ArithF) (s : State) : Out := aluFloat (.fmax nan f) f (src2 f) (minMaxElem true nan f) s

/-! ## Comparison and classification (R342, R343) -/

/-- The condition and whether it is invalid. -/
def fcondHolds (c : FCond) (fm : Fmt) (a b : Nat) : Bool × Bool :=
  let va := valOf fm a
  let vb := valOf fm b
  let un := valIsNan va || valIsNan vb
  let sig := valSig va || valSig vb
  let ka := compareKey fm a
  let kb := compareKey fm b
  match c with
  | .eq => (!un && decide (ka = kb), sig)
  | .ne => (un || decide (ka ≠ kb), sig)
  | .lt => (!un && decide (ka < kb), un)
  | .le => (!un && decide (ka ≤ kb), un)
  | .gt => (!un && decide (kb < ka), un)
  | .ge => (!un && decide (kb ≤ ka), un)
  | .num => (!un, sig)
  | .nan => (un, sig)

def execFcmp (c : FCond) (f : ArithF) (s : State) : Out :=
  aluExc (.fcmp c f) f.h .pred {} (fun x l =>
    let r := fcondHolds c (tyFmt f.ty) (codeA f x l 0) (codeB f x l 0)
    (b2n (r.1 && predBit x f.h.sc l), excIv r.2)) s

def fclassVal (fm : Fmt) (c : Nat) : Nat :=
  let neg := bitOf c (fmtWidth fm - 1)
  match valOf fm c with
  | .nan sig => if sig then 2 ^ 8 else 2 ^ 9
  | .inf n => if n then 2 ^ 0 else 2 ^ 7
  | .num _ m _ =>
    if m = 0 then (if neg then 2 ^ 3 else 2 ^ 4)
    else if isSubnormal fm c then (if neg then 2 ^ 2 else 2 ^ 5)
    else (if neg then 2 ^ 1 else 2 ^ 6)

def execFclass (f : ArithF) (s : State) : Out :=
  aluPure (.fclass f) f.h (.reg 1 .plain) { srcs := src1 f } (fun x l => fclassVal (tyFmt f.ty) (codeA f x l 0)) s

/-- floor(log2 |a|) as a 32-bit integer (R343). -/
def fexpoVal (v : Val) : Nat × Exc :=
  match v with
  | .nan _ => (0x80000000, excIv true)
  | .inf _ => (0x7FFFFFFF, excIv true)
  | .num _ m e => if m = 0 then (0x80000000, { dz := true }) else (natOfInt (e + (m.log2 : Int)) 32, excNone)

def execFexpo (f : ArithF) (s : State) : Out :=
  aluExc (.fexpo f) f.h (.reg 1 .plain) { srcs := src1 f } (fun x l => fexpoVal (valA f x l 0)) s

/-! ## Scaling, rounding, division (R339) -/

/-- The exponent of `fscale`, read as `.s32`. -/
def scaleN (f : ArithF) (x : Rd) (l : Nat) : Int := signedOf (opnd x .s32 f.hi f.h.sb l) 32

def fscaleElem (f : ArithF) (x : Rd) (l j : Nat) : Nat × Exc :=
  let v := valA f x l j
  roundOp (tyFmt f.ty) (modeOf f x l j) (scaleVal v (scaleN f x l), valSig v)

def execFscale (f : ArithF) (s : State) : Out :=
  aluFloat (.fscale f) f (src1 f ++ [⟨f.h.sb, 1⟩]) (fscaleElem f) s

/-- a - trunc(a), exact; a zero has the sign of a. -/
def ffractVal (fm : Fmt) (v : Val) : Nat × Exc :=
  match v with
  | .nan s => roundOp fm rneMode (.nan false, s)
  | .inf _ => roundOp fm rneMode (.nan false, true)
  | .num n m e =>
    if 0 ≤ e then (signCode fm n, excNone)
    else
      let k := min (-e).toNat (m.log2 + 1)
      let r := if (-e).toNat ≤ m.log2 + 1 then m % 2 ^ k else m
      roundVal fm rneMode (.num n r e)

def execFfract (f : ArithF) (s : State) : Out :=
  aluFloat (.ffract f) f (src1 f) (fun x l j =>
    let r := ffractVal (tyFmt f.ty) (valA f x l j)
    -- FTZ acts on the result (R287)
    if f.ftz && isSubnormal (tyFmt f.ty) r.1 then
      (signCode (tyFmt f.ty) (bitOf r.1 (fmtWidth (tyFmt f.ty) - 1)), excOr r.2 { uf := true, ix := true })
    else r) s

/-- a rounded to a whole number in its format. -/
def froundVal (fm : Fmt) (mode : RMode) (v : Val) : Nat × Exc :=
  match v with
  | .nan s => roundOp fm mode (.nan false, s)
  | .inf n => roundOp fm mode (.inf n, false)
  | .num n m e =>
    if m = 0 then (signCode fm n, excNone)
    else
      let r := roundInt mode n m e
      let y := roundVal fm mode (.num n r.1.natAbs 0)
      (y.1, excOr y.2 { ix := r.2 })

def execFround (f : ArithF) (s : State) : Out :=
  aluFloat (.fround f) f (src1 f) (fun x l j => froundVal (tyFmt f.ty) (modeOf f x l j) (valA f x l j)) s

def execFdiv (f : ArithF) (s : State) : Out :=
  aluFloat (.fdiv f) f (src2 f)
    (fun x l j => divRound (tyFmt f.ty) (modeOf f x l j) (valA f x l j) (valB f x l j)) s

/-! ## Roots and transcendental functions (R340) -/

/-- A function of one source. -/
def aluFun (i : Instr) (f : ArithF) (r : Fmt → RMode → Val → Nat × Exc) (s : State) : Out :=
  aluFloat i f (src1 f) (fun x l j => r (tyFmt f.ty) (modeOf f x l j) (valA f x l j)) s

def rcpRound (fm : Fmt) (mode : RMode) (a : Val) : Nat × Exc := divRound fm mode (.num false 1 0) a

def execFsqrt (f : ArithF) (s : State) : Out := aluFun (.fsqrt f) f sqrtRound s
def execFrcp (f : ArithF) (s : State) : Out := aluFun (.frcp f) f rcpRound s
def execFrsq (f : ArithF) (s : State) : Out := aluFun (.frsq f) f rsqrtRound s
def execFex2 (f : ArithF) (s : State) : Out := aluFun (.fex2 f) f exp2Round s
def execFlg2 (f : ArithF) (s : State) : Out := aluFun (.flg2 f) f log2Round s
def execFsin (f : ArithF) (s : State) : Out := aluFun (.fsin f) f (trigRound false) s
def execFcos (f : ArithF) (s : State) : Out := aluFun (.fcos f) f (trigRound true) s
def execFtanh (f : ArithF) (s : State) : Out := aluFun (.ftanh f) f tanhRound s

/-! ## Packed pairs (R344) -/

def execHadd2 (f : ArithF) (s : State) : Out := aluFloat (.hadd2 f) f (src2 f) (addElem f) s
def execHmul2 (f : ArithF) (s : State) : Out := aluFloat (.hmul2 f) f (src2 f) (mulElem f) s
def execHfma2 (f : ArithF) (s : State) : Out := aluFloat (.hfma2 f) f (src3 f) (fmaElem f) s
def execHmin2 (nan : Bool) (f : ArithF) (s : State) : Out :=
  aluFloat (.hmin2 nan f) f (src2 f) (minMaxElem false nan f) s
def execHmax2 (nan : Bool) (f : ArithF) (s : State) : Out :=
  aluFloat (.hmax2 nan f) f (src2 f) (minMaxElem true nan f) s

/-! ## Dot products (R293, R345) -/

/-- The FP32 addend. -/
def dotC (f : ArithF) (x : Rd) (l : Nat) : Val := valOf .fp32 (fpElem f .f32 2 f.h.sc x l 0)

/-- The exact sum of n products of elements of types ta, tb, and c, rounded once to FP32. -/
def dotElem (f : ArithF) (ta tb : Ty) (n : Nat) (x : Rd) (l : Nat) : Nat × Exc :=
  let ps := (List.range n).map (fun j =>
    (valOf (tyFmt ta) (fpElem f ta 0 f.h.sa x l j), valOf (tyFmt tb) (fpElem f tb 1 f.h.sb x l j)))
  roundOp .fp32 (modeOf f x l 0) (dotVal f.rnd ps [dotC f x l])

def execFdot2 (f : ArithF) (s : State) : Out :=
  aluExc (.fdot2 f) f.h (.reg 1 (roundRule f.rnd)) { srcs := src3 f } (dotElem f f.ty f.ty 2) s

/-- The other FP8 format. -/
def otherFp8 (t : Ty) : Ty := if t = .e4m3 then .e5m2 else .e4m3

def execFdot4 (mix : Bool) (f : ArithF) (s : State) : Out :=
  aluExc (.fdot4 mix f) f.h (.reg 1 (roundRule f.rnd)) { srcs := src3 f }
    (dotElem f f.ty (if mix then otherFp8 f.ty else f.ty) 4) s

end Sys2Proof.Machine
end

