-- ==== Sys2Proof/Machine/MemAcc.lean ====
section
/-! DEFINITION. What memory instructions share: addresses, checks, reads through the caches, stores, and the scratchpad
(R203, R224-R229, R232, R242, R366-R372). -/

namespace Sys2Proof.Machine

/-! ## Operands (R306, R366, R367) -/

def sizeBytes : Size → Nat
  | .b8 => 1 | .b16 => 2 | .b32 => 4 | .b64 => 8 | .b128 => 16

/-- Registers of an access width (R370). -/
def sizeWords (n : Nat) : Nat := if n ≤ 4 then 1 else n / 4

/-- An operand that reads OFF leaves the address offset 0 (R306). -/
def memHasImm (f : MemF) : Bool := f.h.sa == .imm || f.h.sb == .imm || f.h.sc == .imm

/-- sext(OFF) times the access size, 0 where an operand reads OFF. -/
def memOffset (f : MemF) : Int := if memHasImm f then 0 else f.off.toInt * (sizeBytes f.size : Nat)

/-- The base that SA names, in 64 bits; null gives 0. -/
def memBase (f : MemF) (x : Rd) (l : Nat) : DWord :=
  match f.h.sa with
  | .imm => f.off.signExtend 64
  | o => BitVec.ofNat 64 (opnd64 x o l)

/-- The global address of a lane (R367). -/
def globalAddr (f : MemF) (x : Rd) (l : Nat) : DWord := memBase f x l + BitVec.ofInt 64 (memOffset f)

/-- The scratchpad offset of a lane, modulo 2^32 (R367). -/
def scratchAddr (f : MemF) (x : Rd) (l : Nat) : Nat :=
  match f.h.sa with
  | .imm => (f.off.signExtend 32).toNat
  | o => (BitVec.ofNat 32 (opnd32 x o l) + BitVec.ofInt 32 (memOffset f)).toNat

/-- A data operand of `n` bytes, read as a `.b` type of the access width (R366). -/
def dataOpnd (f : MemF) (n : Nat) (o : Opnd) (x : Rd) (l : Nat) : Nat :=
  match o with
  | .v r => (List.range (sizeWords n)).foldl (fun a i => a + regWord x r.toNat i l * 2 ^ (32 * i)) 0 % 2 ^ (8 * n)
  | .imm => natOfInt f.off.toInt (8 * n)
  | .konst k => natOfInt (constInt k.toNat) (8 * n)
  | .fed => (x.p.fed.getD 0).toNat % 2 ^ (8 * n)
  | _ => 0

/-- The registers that decide the shape of a load's or atomic's result. -/
def addrSrc (f : MemF) (scratch : Bool) : Src := ⟨f.h.sa, if scratch then 1 else 2⟩

/-- A loaded value placed in d: zero-extended, or sign-extended from 8 or 16 bits (R371). -/
def extendLoad (sx : Bool) (n v : Nat) : Nat := if sx then natOfInt (signedOf v (8 * n)) 32 else v

/-! ## Checks in the core (R113, R118, R225, R368) -/

/-- The outcome of a check: the access may go on, waits, or traps. -/
inductive Chk where
  | ok
  | wait
  | trap (t : TrapInfo)
  deriving DecidableEq, Repr

/-- The bytes of an access, for the pages it touches: its first and its last. -/
def pageEnds (va : DWord) (n : Nat) : List DWord :=
  let last := va + BitVec.ofNat 64 (n - 1)
  if va.toNat / 65536 = last.toNat / 65536 then [va] else [va, last]

/-- The check of a general core's access (R118): a translation fault stalls the thread while it is routed. -/
def threadCheck (s : State) (id : Nat) (p : Path) (e : Mask) (kind : LKind) (pages : List DWord) : State × Chk :=
  let w := getWave s id
  let r := permRange s w.node w.unit w.asid (accOf kind) w.sup pages
  let deny := fun (t : State) (k : Nat) (va : DWord) =>
    (setWave t id { getWave t id with stall := none },
      Chk.trap { preciseTrap w p cLeaseViolation (kindCode kind) e 1 va with xkind := k })
  match r.2 with
  | none => (setWave r.1 id { getWave r.1 id with stall := none }, .ok)
  | some (k, va) =>
    match w.stall with
    | some (_, none) => (r.1, .wait)
    | some (_, some false) => deny r.1 k va
    | _ =>
      let q := routeFault r.1 2 (kindCode kind) k w.asid (va54 va) (waveAgent r.1 w) w.task (.thread id)
      match q.2 with
      | some n => (setWave q.1 id { getWave q.1 id with stall := some (n, none) }, .wait)
      | none => deny q.1 k va

/-- A lane's access: its lane and address. -/
abbrev LaneAddr := Nat × DWord

/-- The fault of one lane of a compute core's access of `n` bytes. -/
def laneCheck (s : State) (w : Wave) (kind : LKind) (align : Bool) (n : Nat) (va : DWord) : Option LaneFault :=
  if align ∧ va.toNat % n ≠ 0 then some { cause := cMisaligned, sub := n, addr := va }
  else (leaseCheck s w.asid w.taskId kind va n).map (fun x =>
    { cause := x.1, sub := if x.1 = cLeaseViolation then kindCode kind else 0, addr := va })

/-- The faults of the lanes of an access. -/
def laneFaults (ls : List LaneAddr) (f : DWord → Option LaneFault) : List (Nat × LaneFault) :=
  ls.filterMap (fun x => (f x.2).map (fun y => (x.1, y)))

/-- The checks of R368 on global or constant addresses. -/
def checkGlobal (s : State) (id : Nat) (w : Wave) (p : Path) (e : Mask) (kind : LKind) (align : Bool) (n : Nat)
    (ls : List LaneAddr) : State × Chk :=
  if w.general then
    match lanesTrap w p e (laneFaults ls (fun va =>
        if align ∧ va.toNat % n ≠ 0 then some { cause := cMisaligned, sub := n, addr := va } else none)) with
    | some t => (s, .trap t)
    | none => threadCheck s id p e kind (ls.flatMap (fun x => pageEnds x.2 n))
  else match lanesTrap w p e (laneFaults ls (laneCheck s w kind align n)) with
    | some t => (s, .trap t)
    | none => (s, .ok)

/-- The scratchpad allocation of a wave: its offset in the core and its bytes; a resumed wave has none (R178). -/
def scrAlloc (s : State) (w : Wave) : Nat × Nat :=
  match w.wg.bind (getWg s) with
  | some g => (g.off, g.scratch)
  | none => (0, 0)

/-- The faults of scratchpad addresses (R217, R225, R242). -/
def checkScratch (s : State) (w : Wave) (p : Path) (e : Mask) (write align : Bool) (n : Nat → Nat)
    (ls : List (Nat × Nat)) : Option TrapInfo :=
  let size := (scrAlloc s w).2
  lanesTrap w p e (ls.filterMap (fun x =>
    if align ∧ x.2 % n x.1 ≠ 0 then
      some (x.1, { cause := cMisaligned, sub := n x.1, addr := BitVec.ofNat 64 x.2, scr := true })
    else if w.home.isSome then some (x.1, { cause := cMigrate })
    else if size < x.2 + n x.1 ∧ 0 < n x.1 then
      some (x.1, { cause := cLeaseViolation, sub := b2n write, addr := BitVec.ofNat 64 x.2, scr := true })
    else none))

/-! ## Waiting at the head of the wave -/

/-- The instruction waits and executes again at the wave's next turn. -/
def opWait (s : State) (id : Nat) : State :=
  let w := getWave s id
  if w.op.id ≠ 0 then s
  else
    let r := freshReq s
    setWave r.1 id { w with op := { w.op with id := r.2, rset := some (getCtx s w.asid).rset } }

/-! ## Bytes by line (R242) -/

/-- The bytes of an access by line: line key and mask. -/
def accParts (asid : Nat) (va : DWord) (n : Nat) : List (Nat × BitVec 128) :=
  let v := va54 va
  let a := asidOf asid va
  (List.range ((v + n - 1) / 128 - v / 128 + 1)).map (fun i =>
    let line := v / 128 + i
    let lo := max v (line * 128)
    let hi := min (v + n) ((line + 1) * 128)
    (lineKey a line, (lineOfBytes (lo - line * 128) (List.replicate (hi - lo) 0)).valid))

/-- The bytes that the lanes of an instruction need, each line once. -/
def needMap (asid n : Nat) (ls : List LaneAddr) : Tab (BitVec 128) :=
  ls.foldl (fun t x => (accParts asid x.2 n).foldl (fun u y => Tab.put u y.1 (Tab.get 0 u y.1 ||| y.2)) t) []

/-- The value of an access from the lines read. -/
def lineValue (asid : Nat) (lines : Tab Line) (va : DWord) (n : Nat) : Nat :=
  natOfBytes ((List.range n).map (fun i =>
    let v := va54 va + i
    lineByte (Tab.get {} lines (lineKey (asidOf asid va) (v / 128))) (v % 128)))

/-- The error that completed a word of an access. -/
def accErr (errs : Tab AccErr) (asid : Nat) (va : DWord) (n : Nat) : Option AccErr :=
  firstSome (fun y => firstSome (fun w => Tab.find errs (y.1 * 32 + w)) (maskLanes (wordMask y.2))) (accParts asid va n)

/-- A lane's bytes cut by line. -/
def storeParts (asid : Nat) (va : DWord) (l : List Byte) : List (Nat × Line) :=
  (cutAll (va54 va) l).map (fun x => (lineKey (asidOf asid va) (x.1 / 128), lineOfBytes (x.1 % 128) x.2))

/-! ## The store queue (R186, R203, R204) -/

/-- Entries of a wave's store queue. -/
def storeQueue : Nat := 32

/-- The bytes of a line that an entry of the queue stores. -/
def entLine (asid k : Nat) (e : SqEnt) : Line :=
  match e.k with
  | .glb _ _ => (e.lanes.flatMap (fun x => storeParts asid x.2.1 x.2.2)).foldl (fun l y =>
      if y.1 = k then lineOver l y.2 y.2.valid false else l) {}
  | _ => {}

/-- The bytes of a line that stand in the store queue of a wave: of two stores of a byte the later one's. -/
def sqLine (w : Wave) (k : Nat) : Line :=
  w.sq.foldl (fun l e => let b := entLine w.asid k e; lineOver l b b.valid false) {}

/-- Whether the store queue holds bytes of a word of a line, or an ordered store to the line. -/
def sqWords (w : Wave) (k : Nat) (m : Mask) : Bool := wordMask (sqLine w k).valid &&& m != 0
def sqOrd (w : Wave) (k : Nat) : Bool :=
  w.sq.any (fun e => (match e.k with
    | .glb (some _) _ => true
    | _ => false) && (entLine w.asid k e).valid != 0)

/-- The byte of the scratchpad at an offset of the allocation that stands in the store queue. -/
def sqScr (w : Wave) (o : Nat) : Option Byte :=
  firstSome (fun (e : SqEnt) => match e.k with
    | .scr => firstSome (fun (x : Nat × DWord × List Byte) =>
        if x.2.1.toNat ≤ o then x.2.2[o - x.2.1.toNat]? else none) e.lanes.reverse
    | _ => none) w.sq.reverse

/-- Whether full/empty marks stand in the store queue. -/
def sqMarks (w : Wave) : Bool := w.sq.any (fun e => match e.k with
  | .mark _ => true
  | _ => false)

/-! ## Reading (R75, R77, R85, R232, R371) -/

/-- Where a read looks first: the L1, the quad L2, the die LLC, the home. -/
inductive Level where
  | l1 | l2 | llc | home
  deriving DecidableEq, Repr

/-- The level of a relaxed load's point of coherence (R79). -/
def scopeLevel : Scope → Level
  | .wg => .l1 | .quad => .l2 | .die => .llc | _ => .home

/-- Words of a foreign line that another core of the die holds (R68). -/
def dieHeld (s : State) (node unit k : Nat) (m : Mask) : Mask :=
  if s.proxies.isEmpty then 0
  else maskOf (fun w => m.getLsbD w && (match proxyCore s node k w with
    | some u => u != unit
    | none => false))

/-- What a core reads from its L1, its quad's L2 and its die's LLC, nearest first from a level outward. Dirty bytes of its own
quad are always its latest (R204); a read at the home takes no copy. -/
def nearOf (lv : Level) (foreign : Bool) (l q far : Line) : Line :=
  let own := fun (b : Line) => lineOver b q q.dirty false
  match lv with
  | .l1 => lineOver (lineOver far q q.valid false) l (l.valid &&& ~~~q.dirty) false |> own
  | .l2 => lineOver far q q.valid false
  | .llc => if foreign then own far else {}
  | .home => {}

/-- The copies of a line in a core's L1 and L2 and, for a foreign line, in its die's LLC. What stands in the LLC for a word
that another core of the die holds is not its value (R68). -/
def nearCopies (s : State) (node unit k home : Nat) : Line × Line × Line :=
  (getLine s.l1 (l1Of node unit) k, getLine s.l2 (l2Of node unit) k,
    if home = node then {} else lineDrop (getLine s.llc node k) (byteMask (dieHeld s node unit k (BitVec.allOnes 32))))

/-- The copies that a core sees of a line, nearest first, from a level outward. -/
def nearLine (s : State) (node unit k home : Nat) (lv : Level) : Line :=
  let c := nearCopies s node unit k home
  nearOf lv (home != node) c.1 c.2.1 c.2.2

/-- A copy of a token region that an agent which may not access the region finds: one that it cached before CREATE stays
readable; one in a cache that it shares with the holder is the holder's, and the holder itself, giving the token up, reads none
(R89, R90, R92). -/
def tokenCopy (s : State) (node unit k home i : Nat) (lv : Level) : Line :=
  let c := nearCopies s node unit k home
  match (findToken s home (lineAsid k) (lineNo k * 128 + 4 * i) 4).bind (·.holder) with
  | none => nearOf lv (home != node) c.1 c.2.1 c.2.2
  | some a =>
    let here := agentNode a == node
    if a = agentId s node unit then {}
    else nearOf lv (home != node) (if here && l1Of node (agentUnit a) == l1Of node unit then {} else c.1)
      (if here && l2Of node (agentUnit a) == l2Of node unit then {} else c.2.1) (if here then {} else c.2.2)

/-- The copies of a line that a core may read, with the words `tok` that its tokens bar. -/
def usableNear (s : State) (node unit k home : Nat) (lv : Level) (tok : Mask) : Line :=
  (maskLanes tok).foldl (fun l i =>
    let m := byteMask (laneBit i)
    let c := tokenCopy s node unit k home i lv
    lineOver (lineDrop l m) c (c.valid &&& m) false) (nearLine s node unit k home lv)

/-- A line without the groups of which a needed byte is missing: one access reads all of its bytes from one place (R241).
Bytes that the core has stored stay. -/
def wholeGroups (l : Line) (need own : BitVec 128) (grp : Nat) : Line :=
  if grp ≤ 1 then l
  else lineDrop l (byteMask (groupSpan grp (wordMask (need &&& ~~~l.valid))) &&& ~~~own)

/-- A foreign line at the die's LLC: words that another core of the die holds come from that core (R68, R85). A plain
access is a race. The bytes missing from `have_` are looked for. -/
def readAtDie (s : State) (id k : Nat) (need have_ : BitVec 128) (plain : Bool) : State × Line :=
  let w := getWave s id
  let miss := need &&& ~~~have_
  let held := dieHeld s w.node w.unit k (wordMask miss)
  let llc := getLine s.llc w.node k
  let da := agentId s w.node 127
  let l := ownerLine s da k held (lineOnly llc (llc.valid &&& miss))
  let lw := (maskLanes held).head?.getD 0
  let owner := agentId s w.node ((proxyCore s w.node k lw).getD 0)
  if held = 0 ∨ !plain then (s, l)
  else
    let s1 := raceReport s w.node w.asid (lineNo k * 128 + 4 * lw) 0 (waveAgent s w) owner
    if raceTraps s1 w.asid then (modOp s1 id (fun o => putErr o k held eRace), l) else (s1, l)

/-- Whether stores of a wave to words of a line, or with `ord` ordered accesses of it to the line, are outstanding (R204,
R232). -/
def pendsWords (w : Wave) (k : Nat) (m : Mask) : Bool := w.pend.any (fun x => x.line == k && x.words &&& m != 0)
def pendsOrd (w : Wave) (k : Nat) : Bool := w.pend.any (fun x => x.line == k && x.ord)

/-- How a load of a wave reads a line: plain or not, from which level, the words that one access reads together, and whether
what it fetches is kept in the L1 and L2 (R241, R313). -/
structure ReadHow where
  plain : Bool
  lv : Level
  grp : Nat := 1
  fill : Bool := true
  deriving DecidableEq, Repr

/-- The operation's phase says where fetched bytes are kept: 0 in every cache, 1 in none, 2 in the die's LLC alone. -/
def readPhase (how : ReadHow) : Nat := if !how.plain then 1 else if how.fill then 0 else 2

/-- A read of the core misses, and an acquire holds the core's misses of the line (R81). -/
def readHeld (s : State) (w : Wave) (k : Nat) (need got : BitVec 128) (how : ReadHow) : Bool :=
  let near := match how.lv with
    | .l1 => (getLine s.l1 (l1Of w.node w.unit) k).valid
    | _ => (getLine s.l2 (l2Of w.node w.unit) k).valid
  (how.plain || how.lv == .l1 || how.lv == .l2) && need &&& ~~~(near ||| got) != 0 && missHeld s (waveCore w) k

/-- Outstanding memory requests of a core: the entries in use of its 1,024 (R186). -/
def coreRequests (s : State) (ck : Nat) : Nat :=
  sumNat ((s.waves.filter (fun e => waveCore e.2 == ck)).map (fun e =>
    e.2.pend.length + (e.2.op.sent.filter (fun k => (Tab.find e.2.op.resp k).isNone)).length))

/-- A memory instruction that needs an entry waits to issue (R186). -/
def requestsFull (s : State) (w : Wave) : Bool := decide (1024 ≤ coreRequests s (waveCore w))

/-- RD of the words of a line that a read misses, sent once. It waits for the wave's own stores to them. -/
def askLine (s : State) (id k h : Nat) (left : BitVec 128) (how : ReadHow) : State :=
  let t := opWait s id
  let w := getWave t id
  if w.op.sent.contains k ∨ pendsWords w k (wordMask left) ∨ sqWords w k (wordMask left) ∨ requestsFull t w then t
  else
    let req : Req := { agent := waveAgent t w, wave := id, id := w.op.id, sup := w.sup,
                       grant := carriedGrant t w.asid w.taskId .read (lineNo k * 128 +
                         4 * ((maskLanes (wordMask left)).head?.getD 0)) }
    let own := if how.plain then {} else (let q := getLine t.l2 (l2Of w.node w.unit) k; lineOnly q q.dirty)
    let t1 := modOp t id (fun o => { o with sent := k :: o.sent, phase := readPhase how })
    sendReq t1 w.node h .req (lineAsid k) (lineNo k * 128) w.op.id
      (.rd req (lineAsid k) (lineNo k) (wordMask left) how.plain own how.grp)

/-- The bytes of a line that an access needs, from the caches or the answers so far; none while they are awaited. A
missing line is asked for once (R77). -/
def readLine (s : State) (id k : Nat) (need : BitVec 128) (how : ReadHow) : State × Option Line :=
  let w0 := getWave s id
  match homeAt s w0.node (lineAsid k) (lineNo k * 128) with
  | none => (modOp s id (fun o => putErr o k (wordMask need) eLeaseLost), some {})
  | some h =>
    let tok := tokenBars s h k (wordMask need) (waveAgent s w0)
    let q := getLine s.l2 (l2Of w0.node w0.unit) k
    let ans := Tab.get {} w0.op.resp k
    let near0 := usableNear s w0.node w0.unit k h how.lv tok
    let held := lineOver near0 ans (ans.valid &&& ~~~(if how.lv = .home then 0 else q.dirty &&& near0.valid)) false
    let barred := tok &&& wordMask (need &&& ~~~held.valid)
    let s := if barred = 0 then s else modOp s id (fun o => putErr o k barred eToken)
    let w := getWave s id
    let bad := maskOf (fun i => (Tab.find w.op.errs (k * 32 + i)).isSome)
    let near := wholeGroups held (need &&& ~~~byteMask bad) q.dirty how.grp
    let have1 := near.valid ||| byteMask bad
    if readHeld s w k need (ans.valid ||| byteMask bad) how then (opWait s id, none)
    else if need &&& ~~~have1 = 0 then (s, some near)
    else
      let foreign := h != w.node && !(decide (how.lv = .home))
      let d := if foreign then readAtDie s id k need have1 how.plain else (s, {})
      let l := lineOver near d.2 (d.2.valid &&& ~~~near.valid) false
      let left := need &&& ~~~(l.valid ||| byteMask bad)
      let errs2 := (getWave d.1 id).op.errs
      let left2 := left &&& ~~~byteMask (maskOf (fun i => (Tab.find errs2 (k * 32 + i)).isSome))
      if left2 = 0 then
        -- what came from the LLC is kept in the nearer caches
        let t := modOp d.1 id (fun o => { o with resp := Tab.put o.resp k (lineOver (Tab.get {} o.resp k) d.2 d.2.valid false) })
        (if readPhase how = 0 then fillCaches t w.node w.unit k h d.2 else t, some l)
      else (askLine d.1 id k h left2 how, none)

/-- Every line that an access needs; none while one is awaited. -/
def readLines (id : Nat) (how : ReadHow) : Tab (BitVec 128) → State → State × Option (Tab Line)
  | [], s => (s, some [])
  | (k, m) :: t, s =>
    let a := readLine s id k m how
    let b := readLines id how t a.1
    match a.2, b.2 with
    | some l, some r => (b.1, some (Tab.put r k l))
    | _, _ => (b.1, none)

/-- Every line that a plain load needs: bytes that stand in the wave's store queue come from there (R204). -/
def loadQueued (id : Nat) (how : ReadHow) (need : Tab (BitVec 128)) (s : State) : State × Option (Tab Line) :=
  let w := getWave s id
  let left := (need.map (fun y => (y.1, y.2 &&& ~~~(sqLine w y.1).valid))).filter (fun y => y.2 != 0)
  let r := readLines id how left s
  (r.1, r.2.map (fun ls => need.map (fun y =>
    (y.1, let q := sqLine w y.1; lineOver (Tab.get {} ls y.1) q q.valid false))))

/-- The faults that lanes met beyond the core. -/
def homeFaults (errs : Tab AccErr) (asid n : Nat) (ls : List LaneAddr) : List (Nat × LaneFault) :=
  laneFaults ls (fun va => (accErr errs asid va n).map (fun e => { cause := e.cause, sub := e.sub, addr := va }))

/-! ## Storing (R75, R203, R232, R372) -/

/-- A store's registration is outstanding (R75). -/
def addPend (s : State) (id : Nat) (r : PendReg) : State := modWave s id (fun w => { w with pend := w.pend ++ [r] })

/-- The bytes of a store enter the L1 and, dirty, the quad L2 (R75). -/
def storeNear (s : State) (w : Wave) (k : Nat) (b : Line) : State :=
  let q := getLine s.l2 (l2Of w.node w.unit) k
  let l := getLine s.l1 (l1Of w.node w.unit) k
  { s with l2 := setLine s.l2 (l2Of w.node w.unit) k (lineOver q b b.valid true),
           l1 := setLine s.l1 (l1Of w.node w.unit) k { lineOver l b b.valid false with dirty := 0 } }

/-- How a store acts beyond its core: plain; relaxed or made by a release at a scope, which writes through (R232). -/
inductive StKind where
  | plain
  | ordered (sc : Scope)
  deriving DecidableEq, Repr

def stPlain : StKind → Bool
  | .plain => true
  | _ => false

/-- Whether a store writes through to the home, or to the die's LLC. -/
def stThru (k : StKind) (foreign : Bool) : Bool :=
  match k with
  | .plain => false
  | .ordered sc => decide ((if foreign then 3 else 2) ≤ scopeRank sc)

/-- A lane's access that stores: the lane, its address, and whether it was made in handler mode (R253, R262). -/
abbrev StoreAt := Nat × DWord × Bool

/-- The accesses of a wave's store now. -/
def storeAt (w : Wave) (y : LaneAddr) : StoreAt := (y.1, y.2, w.handler.isSome)

/-- A deferred trap of a store of a lane (R253): the access's lane and address. -/
def storeTrap (s : State) (id : Nat) (y : StoreAt) (cause sub : Nat) : State :=
  addDeferred s id { cause := cause, sub := sub, lane := y.1, hnd := y.2.2, addr := y.2.1 }

/-- REG_REQ of words of a line, with the bytes that write-through needs. -/
def sendReg (s : State) (id : Nat) (y : StoreAt) (k h agent : Nat) (m : Mask) (b : Line) (plain thru die : Bool) : State :=
  let w := getWave s id
  let r := freshReq s
  let v := lineNo k * 128 + 4 * ((lowestLane m).getD 0)
  let req : Req := { agent := agent, wave := id, id := r.2, sup := w.sup,
                     grant := carriedGrant r.1 w.asid w.taskId .write v }
  let s1 := addPend r.1 id { id := r.2, die := die, lane := y.1, addr := y.2.1, hnd := y.2.2, line := k, words := m,
                             ord := !plain }
  sendReq s1 w.node h .reg (lineAsid k) (lineNo k * 128) r.2
    (.regReq req (lineAsid k) (lineNo k) m (lineOnly b (byteMask m)) plain thru)

/-- The dirty bytes of words of a foreign line that other cores of the die hold enter its LLC, and are clean there: bytes
that the next holder does not write stand (R85, R240). -/
def gatherAtDie (s : State) (node unit k : Nat) (m : Mask) : State :=
  (maskLanes m).foldl (fun t i =>
    let bm := byteMask (laneBit i)
    match proxyCore t node k i with
    | none => t
    | some u =>
      if l2Of node u = l2Of node unit then t
      else
        let q := getLine t.l2 (l2Of node u) k
        { t with llc := setLine t.llc node k (lineOver (getLine t.llc node k) q (q.dirty &&& bm) true),
                 l2 := setLine t.l2 (l2Of node u) k { q with dirty := q.dirty &&& ~~~bm } }) s

/-- A store to a foreign word is recorded at the die's LLC (R68): a word of another core of the die is a race. -/
def storeAtDie (s : State) (id : Nat) (y : StoreAt) (k : Nat) (m : Mask) (plain : Bool) : State :=
  let w := getWave s id
  let held := dieHeld s w.node w.unit k m
  let s1 := if held ≠ 0 ∧ plain then
      let lw := (lowestLane held).getD 0
      let t := raceReport s w.node w.asid (lineNo k * 128 + 4 * lw) 1 (waveAgent s w)
        (agentId s w.node ((proxyCore s w.node k lw).getD 0))
      if raceTraps t w.asid then storeTrap t id y cRace 0 else t
    else s
  let s2 := gatherAtDie s1 w.node w.unit k held
  modNode { s2 with proxies := (maskLanes m).foldl (fun t i => Tab.put t (wordKey w.node k i) w.unit) s2.proxies } w.node
    (fun n => { n with proxyLru := proxyRegion k :: n.proxyLru.filter (fun x => x != proxyRegion k) })

/-- A die's registration of a word is on its way to the home: a store of another wave of the die to it counts it as its own
too (R79). -/
def dieAsks (s : State) (node k i : Nat) : Bool :=
  s.net.outst.any (fun o => o.pkt.src == node && (match o.pkt.msg with
    | .regReq r a l m _ _ _ => isDieAgent r.agent && lineKey a l == k && m.getLsbD i
    | _ => false))

/-- Words of a line at the home `h` enter the caches, and are registered or written through where that is due. -/
def storeWords (s : State) (id : Nat) (y : StoreAt) (k h : Nat) (b : Line) (sk : StKind) : State :=
  let w := getWave s id
  let m := wordMask b.valid
  if lineUncached s h k then sendReg s id y k h (waveAgent s w) m b (stPlain sk) false true
  else
    let s1 := storeNear s w k b
    if h = w.node then
      let un := maskOf (fun i => m.getLsbD i && !coreRegistered s1 w.node w.unit k i h)
      let thru := stThru sk false
      if un = 0 ∧ !thru then s1
      else sendReg s1 id y k h (waveAgent s1 w) (if thru then m else un) b (stPlain sk) thru true
    else
      let un := maskOf (fun i => m.getLsbD i && (!dieOwns s1 w.node k i || dieAsks s1 w.node k i))
      let s2 := storeAtDie s1 id y k m (stPlain sk)
      let thru := stThru sk true
      let s3 := match sk with
        | .plain => s2
        | .ordered sc => if scopeRank sc < 2 then s2
          else { s2 with llc := setLine s2.llc w.node k (lineOver (getLine s2.llc w.node k) b b.valid true) }
      if un = 0 ∧ !thru then s3
      else sendReg s3 id y k h (agentId s3 w.node 127) (if thru then m else un) b (stPlain sk) thru false

/-- A store whose words lie in regions that its core holds no token of is refused: a deferred token violation, the bytes
and the core's copy of the line discarded (R90, R92). The result keeps the other bytes. -/
def storeBarred (s : State) (id : Nat) (y : StoreAt) (k h : Nat) (b : Line) : State × Line :=
  let w := getWave s id
  let a := waveAgent s w
  let tok := tokenBars s h k (wordMask b.valid) a
  if tok = 0 then (s, b)
  else (storeTrap (dropCopies s a k (BitVec.allOnes 32) h) id y cToken 0, lineOnly b (~~~byteMask tok))

/-- One line's part of a lane's store. -/
def storePart (s : State) (id : Nat) (y : StoreAt) (k : Nat) (b : Line) (sk : StKind) : State :=
  let w := getWave s id
  match homeAt s w.node (lineAsid k) (lineNo k * 128) with
  | none => storeTrap s id y cLeaseLost 0
  | some h =>
    let r := storeBarred s id y k h b
    if r.2.valid = 0 then r.1 else storeWords r.1 id y k h r.2 sk

/-- A lane's store. -/
def storeLane (s : State) (id : Nat) (y : StoreAt) (l : List Byte) (sk : StKind) : State :=
  (storeParts (getWave s id).asid y.2.1 l).foldl (fun t x => storePart t id y x.1 x.2 sk) s

/-! ## The proxy table (R68) -/

/-- Regions in a die's proxy table. -/
def proxyTable : Nat := 16384

/-- The regions of a die's proxy table in which it owns a word, most recently used first. -/
def proxyRegions (s : State) (node : Nat) : List Nat :=
  (getNode s node).proxyLru.filter (fun x =>
    s.proxies.any (fun e => e.1 / 32 / 2 ^ 61 == node && proxyRegion (e.1 / 32 % 2 ^ 61) == x))

/-- A store to a foreign line must wait for room in its die's proxy table (R68). -/
def proxyWaits (s : State) (node : Nat) (keys : List Nat) : Bool :=
  decide (proxyTable ≤ (getNode s node).proxyLru.length)
    && keys.any (fun k => !(getNode s node).proxyLru.contains (proxyRegion k)
      && homeAt s node (lineAsid k) (lineNo k * 128) != some node)
    && decide (proxyTable ≤ (proxyRegions s node).length)

/-- The die drains its least recently used proxy region in full, once (R68, R81). -/
def proxyDrain (s : State) (node : Nat) : State :=
  match (proxyRegions s node).getLast? with
  | none => s
  | some x =>
    let lo := x % 2 ^ 38 * 65536
    let rs : Option (List Range) := some [{ lo := lo, hi := lo + 65536 }]
    let a := agentId s node 127
    if s.drains.any (fun d => d.agent == a && d.ranges == rs) then s
    else
      let r := freshReq s
      startDrain r.1 a true (x / 2 ^ 38) rs a r.2

/-! ## Releases (R79, R82, R232, R234) -/

/-- Whether a release of a wave must still wait (R79, R82). -/
def releaseWaits (s : State) (id : Nat) (sc : Scope) : Bool :=
  let w := getWave s id
  let carry := (getCore s (waveCore w)).carryTag.any (fun t => armsTag s (waveCore w) t)
  match sc with
  | .wg | .quad => false
  | .die => w.pend.any (·.die) || carry
  | _ => !w.pend.isEmpty || carry

/-- A release of a wave is made: the drains of its overflowed carried lists have been awaited, and one of `die` scope or
wider is a progress event (R82, R180). -/
def releaseMade (s : State) (id : Nat) (sc : Scope) : State :=
  if scopeRank sc < 2 then s
  else
    let w := getWave s id
    progress (modCore s (waveCore w) (fun c => { c with carryTag := [] })) w.taskId

/-- The bytes of a release enter the L1 and the L2, where they stand for what its point of record will hold: an earlier
store's dirty bytes are superseded (R79). -/
def releaseNear (s : State) (w : Wave) (k : Nat) (b : Line) : State :=
  let q := getLine s.l2 (l2Of w.node w.unit) k
  let l := getLine s.l1 (l1Of w.node w.unit) k
  { s with l2 := setLine s.l2 (l2Of w.node w.unit) k (lineOver q b b.valid false),
           l1 := setLine s.l1 (l1Of w.node w.unit) k { lineOver l b b.valid false with dirty := 0 } }

/-- The words of a release store of `die` scope or wider at their point of record: the die's LLC, or the home (R79, R80). -/
def releaseWords (s : State) (id : Nat) (y : StoreAt) (k h : Nat) (b : Line) (sc : Scope) : State :=
  let w := getWave s id
  let m := wordMask b.valid
  let ents := releaseEntries s w.node w.unit sc
  if sc = .die ∧ h ≠ w.node then
    (maskLanes m).foldl (fun t i => recordRel t w.node k i ents) (storeWords s id y k h b (.ordered sc))
  else
    let r := freshReq s
    let s1 := if lineUncached r.1 h k then r.1 else releaseNear r.1 w k b
    let s2 := addPend s1 id { id := r.2, die := decide (h = w.node), lane := y.1, addr := y.2.1, hnd := y.2.2, line := k,
                              words := m, ord := true }
    let req : Req := { agent := waveAgent s2 w, wave := id, id := r.2, sup := w.sup,
                       grant := carriedGrant s2 w.asid w.taskId .write (va54 y.2.1) }
    sendReq s2 w.node h .syn (lineAsid k) (lineNo k * 128) r.2 (.rel req (lineAsid k) (lineNo k) b ents)

/-- A release store of one line's part (R79, R80). -/
def releasePart (s : State) (id : Nat) (y : StoreAt) (k : Nat) (b : Line) (sc : Scope) : State :=
  if scopeRank sc < 2 then storePart s id y k b (.ordered sc)
  else
    let h := (homeAt s (getWave s id).node (lineAsid k) (lineNo k * 128)).getD (getWave s id).node
    let q := storeBarred s id y k h b
    if q.2.valid = 0 then q.1 else releaseWords q.1 id y k h q.2 sc

def releaseLane (s : State) (id : Nat) (y : StoreAt) (l : List Byte) (sc : Scope) : State :=
  (storeParts (getWave s id).asid y.2.1 l).foldl (fun t x => releasePart t id y x.1 x.2 sc) s

/-- A relaxed store after a release fence of its scope records its wave as a releaser (R234). -/
def relaxedReleases (w : Wave) (sc : Scope) : Bool := w.relFence == some sc

/-! ## Acquires (R81-R83, R232) -/

/-- The drains of an acquire's releasers are counted under the wave's tag. -/
def acquireStart (s : State) (id : Nat) (ranges : Option (List Range)) : State :=
  let w := getWave s id
  if w.op.due ≠ 0 then s
  else
    let r := freshReq s
    modOp (armStart r.1 (waveCore w) r.2 w.asid ranges) id (fun o => { o with due := r.2 })

/-- The effects after an acquire's reads: self-invalidation and the carried list, over the region set as it stood when the
acquire issued (R81-R84). -/
def acquireEffects (s : State) (id : Nat) (sc : Scope) (set : Nat) (es : List RelEnt) : State :=
  let w := getWave s id
  let s1 := if w.op.due = 0 then s else armKnown s (waveCore w) w.op.due
  let s2 := selfInvalidate s1 w.node w.unit w.asid sc (waveRanges s1 w set)
  if scopeRank sc < 2 then s2
  else carryUpdate s2 (waveCore w) w.node w.unit w.asid (set == 0) es

/-- Drains that the core of an acquire asks for itself: at its own die's LLC, or for an atomic at the home. -/
def acquireDrains (s : State) (id src : Nat) (es : List RelEnt) (ranges : Option (List Range)) (v : Nat) : State :=
  let w := getWave s id
  let new := es.filter (fun e => !w.op.relEnts.any (fun x => x.agent == e.agent))
  let s1 := acqDrains s src w.asid new ranges (waveAgent s w) w.op.due v
  let s2 := armNeed s1 (waveCore w) w.op.due new.length
  modOp s2 id (fun o => { o with relEnts := o.relEnts ++ new })

/-! ## Scratchpad (R225-R229, R248, R372) -/

/-- Scratchpad bytes of a core from address a. -/
def scrRead (s : State) (ck a n : Nat) : Nat :=
  natOfBytes ((List.range n).map (fun i => Tab.get 0 (getCore s ck).scr (a + i)))

/-- Scratchpad bytes of a wave's allocation from offset o, those in its store queue from there (R204). -/
def scrReadQueued (s : State) (w : Wave) (o n : Nat) : Nat :=
  natOfBytes ((List.range n).map (fun i =>
    (sqScr w (o + i)).getD (Tab.get 0 (getCore s (waveCore w)).scr ((scrAlloc s w).1 + o + i))))

/-- Monitors of the core's waves on bytes [a, a + n) fire (R248, R249). -/
def fireScr (s : State) (ck a n : Nat) : State :=
  let hit := s.waves.filter (fun e => waveCore e.2 == ck && (match e.2.mon with
    | some m =>
      let o := (scrAlloc s e.2).1 + m.addr.toNat
      m.scr && decide (o < a + n) && decide (a < o + m.size)
    | none => false))
  hit.foldl (fun t e => fireMon t e.1 0) s

/-- Bytes written to the scratchpad of a core, by any source. -/
def scrWrite (s : State) (ck a : Nat) (l : List Byte) : State :=
  let s1 := modCore s ck (fun c =>
    { c with scr := (List.range l.length).foldl (fun t i => Tab.set 0 t (a + i) (byteAt l i)) c.scr,
             badScr := c.badScr.filter (fun b => !(decide (a ≤ b) && decide (b < a + l.length))),
             latch := if c.latch.any (fun x => x.2.any (fun r => decide (r.lo < a + l.length) && decide (a < r.hi)))
               then none else c.latch })
  fireScr s1 ck a l.length

/-- Whether bytes [a, a + n) touch an empty line (R228). -/
def touchesEmpty (c : Core) (a n : Nat) : Bool :=
  n != 0 && (List.range ((a + n - 1) / 128 - a / 128 + 1)).any (fun i => (Tab.find c.empty (a / 128 + i)).isSome)

/-- Whether bytes [a, a + n) overlap a locked range (R229). -/
def touchesLock (c : Core) (a n : Nat) : Bool :=
  n != 0 && c.locks.any (fun x => decide (x.lo < a + n) && decide (a < x.hi))

/-- A scratchpad word in parity error that a read meets (R269). -/
def scrParity (c : Core) (a n : Nat) : Bool := c.badScr.any (fun b => decide (a ≤ b) && decide (b < a + n))

/-- The faults that scratchpad accesses meet at retirement: the range lock for one that writes, parity for one that
reads (R229, R269). -/
def scrRetireTrap (s : State) (w : Wave) (p : Path) (e : Mask) (reads writes : Bool) (n : Nat → Nat)
    (ls : List (Nat × Nat)) : Option TrapInfo :=
  let c := getCore s (waveCore w)
  let off := (scrAlloc s w).1
  lanesTrap w p e (ls.filterMap (fun x =>
    if writes ∧ touchesLock c (off + x.2) (n x.1) then
      some (x.1, { cause := cRangeLock, addr := BitVec.ofNat 64 x.2, scr := true })
    else if reads ∧ scrParity c (off + x.2) (n x.1) then
      some (x.1, { cause := cEcc, sub := 4, addr := BitVec.ofNat 64 x.2, scr := true })
    else none))

/-! ## Frames -/

/-- The node's egress has no room for the requests of an access to a granule that moves: the wave stalls (R56). -/
def egressFull (s : State) (w : Wave) (n : Nat) (ls : List LaneAddr) : Bool :=
  s.rehome.isSome && ls.any (fun y => egressStalls s w.node (needMap w.asid n ls).length (asidOf w.asid y.2) (va54 y.2))

/-- The frame of an instruction that accesses global memory: the checks of R368, once, then `k` on the lanes'
addresses. -/
def memGate (i : Instr) (s : State) (h : Head) (kind : LKind) (align : Bool) (n : Nat) (addr : Rd → Nat → DWord)
    (k : State → Nat → Wave → Path → List LaneAddr → State) : Out :=
  gate i s (fun id w p =>
    let x : Rd := ⟨s, w, p⟩
    let e := workMask x h.g
    let ls := (maskLanes e).map (fun l => (l, addr x l))
    if e = 0 then .next (retireEmpty i s id w)
    else if w.op.id ≠ 0 then .next (k s id w p ls)
    else
      let c := checkGlobal s id w p (entryMask w p h.g) kind align n ls
      match c.2 with
      | .ok => .next (if egressFull c.1 w n ls then c.1 else k c.1 id (getWave c.1 id) p ls)
      | .wait => .next c.1
      | .trap t => .next (takeTrap c.1 id t))

/-- The frame of an instruction that accesses the scratchpad. `n` gives a lane's bytes. -/
def scrGateAt (i : Instr) (s : State) (h : Head) (write align : Bool) (n : Rd → Nat → Nat) (addr : Rd → Nat → Nat)
    (k : State → Nat → Wave → Path → List (Nat × Nat) → State) : Out :=
  gate i s (fun id w p =>
    let x : Rd := ⟨s, w, p⟩
    let e := workMask x h.g
    let ls := (maskLanes e).map (fun l => (l, addr x l))
    if e = 0 then .next (retireEmpty i s id w)
    else match checkScratch s w p (entryMask w p h.g) write align (n x) ls with
      | some t => .next (takeTrap s id t)
      | none => .next (k s id w p ls))

def scrGate (i : Instr) (s : State) (f : MemF) (write align : Bool) (n : Rd → Nat → Nat)
    (k : State → Nat → Wave → Path → List (Nat × Nat) → State) : Out :=
  scrGateAt i s f.h write align n (scratchAddr f) k

end Sys2Proof.Machine
end

