-- ==== Sys2Proof/Machine/MemOps.lean ====
section
/-! DEFINITION. Loads, stores, prefetches and full/empty bits (R370-R376). -/

namespace Sys2Proof.Machine

/-! ## Control space (R126): reached by supervisor code on general cores alone -/

/-- The physical address of an access that a KIND 10 page maps. -/
def ctrlTarget (s : State) (w : Wave) (va : DWord) : Option Nat :=
  if !w.general then none
  else
    let asid := asidOf w.asid va
    match homeAt s w.node asid (va54 va) with
    | none => none
    | some h => match xlatePeek s h asid (va54 va) .read w.sup with
      | .ok p => if p.kind = 2 then some p.addr else none
      | .error _ => none

/-! ## Loads (R371) -/

/-- The instruction ends with the faults that its lanes met beyond the core, or goes on. -/
def endOrTrap (s : State) (id : Nat) (p : Path) (e : Mask) (fs : List (Nat × LaneFault)) (k : Wave → State) : State :=
  let w := getWave s id
  match lanesTrap w p e fs with
  | some t => takeTrap s id t
  | none => k w

/-- The loaded value goes to d, and the instruction retires. -/
def loadDone (s : State) (id : Nat) (p : Path) (f : MemF) (sx : Bool) (ls : List LaneAddr) (lines : Tab Line) : State :=
  let n := sizeBytes f.size
  let w0 := getWave s id
  endOrTrap s id p (entryMask w0 p f.h.g) (homeFaults w0.op.errs w0.asid n ls) (fun w =>
    let x : Rd := ⟨s, w, p⟩
    let val := fun l => match ls.find? (fun y => y.1 == l) with
      | some y => extendLoad sx n (lineValue w.asid lines y.2 n)
      | none => 0
    let sh := resultShape x f.h.g .plain [] [addrSrc f false]
    retire s id (writeDst w f.h.dst (sizeWords n) sh (workMask x f.h.g) val))

/-- Entries that a relaxed load at `die` scope finds at its die's LLC (R234). -/
def keepAtDie (s : State) (id : Nat) (sc : Scope) (need : Tab (BitVec 128)) : State :=
  let w := getWave s id
  if sc ≠ .die then s
  else need.foldl (fun t y =>
    if homeAt t w.node (lineAsid y.1) (lineNo y.1 * 128) = some w.node then t
    else keepEntries t id (lineEntries t w.node y.1 (wordMask y.2))) s

/-- Words that one access of `n` bytes reads together (R241). -/
def accGroup (n : Nat) : Nat := n / 4

/-- An uncached line to which a store of the wave is still on its way (R105, R204). -/
def uncachedBusy (s : State) (w : Wave) (h k : Nat) (m : Mask) : Bool := pendsWords w k m && lineUncached s h k

/-- One line of an acquire load at `die` scope or wider: read at its point of record, which drains (R81). -/
def acquireLine (s : State) (id k : Nat) (need : BitVec 128) (sc : Scope) (grp : Nat) (r : Option (List Range)) :
    State × Option Line :=
  let w := getWave s id
  let v := lineNo k * 128
  match homeAt s w.node (lineAsid k) v with
  | none => (modOp s id (fun o => putErr o k (wordMask need) eLeaseLost), some {})
  | some h =>
    if sc = .die ∧ h ≠ w.node then
      let a := readLine s id k need { plain := false, lv := .llc, grp := grp }
      match a.2 with
      | none => a
      | some l =>
        (acquireDrains a.1 id w.node (acqSelect a.1 w.node k (wordMask need) sc (waveAgent a.1 w)) r v, some l)
    else if (Tab.find w.op.vals k).isSome then (s, some (Tab.get {} w.op.resp k))
    else
      let t := opWait s id
      let w1 := getWave t id
      if w1.op.sent.contains k ∨ uncachedBusy t w1 h k (wordMask need) ∨ requestsFull t w1 then (t, none)
      else
        let q := getLine t.l2 (l2Of w1.node w1.unit) k
        let req : Req := { agent := waveAgent t w1, wave := id, id := w1.op.id, sup := w1.sup,
                           grant := carriedGrant t w1.asid w1.taskId .read v }
        let t1 := modOp t id (fun o => { o with sent := k :: o.sent, phase := 1 })
        (sendReq t1 w1.node h .req (lineAsid k) v w1.op.id
          (.acq req (lineAsid k) (lineNo k) (wordMask need) sc r w1.op.due (lineOnly q q.dirty)), none)

def acquireLines (id : Nat) (sc : Scope) (grp : Nat) (r : Option (List Range)) : Tab (BitVec 128) → State →
    State × Option (Tab Line)
  | [], s => (s, some [])
  | (k, m) :: t, s =>
    let a := acquireLine s id k m sc grp r
    let b := acquireLines id sc grp r t a.1
    match a.2, b.2 with
    | some l, some x => (b.1, some (Tab.put x k l))
    | _, _ => (b.1, none)

/-- How the load of an instruction reads (R232, R241, R313): LLC only keeps what it fetches out of the L1 and L2. -/
def loadHow (f : MemF) (plain : Bool) (lv : Level) : ReadHow :=
  { plain := plain, lv := lv, grp := accGroup (sizeBytes f.size), fill := f.cache != .llc }

/-- An ordered or atomic access of a wave waits while one of its own to a line is outstanding (R232). -/
def ordBusy (w : Wave) (need : Tab (BitVec 128)) : Bool := need.any (fun y => pendsOrd w y.1 || sqOrd w y.1)

/-- An ordered load waits until the wave's stores to its words have left the store queue (R204). -/
def queueBusy (w : Wave) (need : Tab (BitVec 128)) : Bool := need.any (fun y => sqWords w y.1 (wordMask y.2))

/-- A load of global or constant memory, in its ordering (R232, R371). -/
def loadRun (f : MemF) (sx : Bool) (s : State) (id : Nat) (w : Wave) (p : Path) (ls : List LaneAddr) : State :=
  let need := needMap w.asid (sizeBytes f.size) ls
  if f.ord ≠ .plain ∧ (ordBusy w need ∨ queueBusy w need) then opWait s id
  else match f.ord with
  | .plain =>
    let r := loadQueued id (loadHow f true .l1) need s
    match r.2 with
    | none => r.1
    | some lines => loadDone r.1 id p f sx ls lines
  | .rlx =>
    let r := readLines id (loadHow f false (scopeLevel f.scope)) need s
    match r.2 with
    | none => r.1
    | some lines => loadDone (keepAtDie r.1 id f.scope need) id p f sx ls lines
  | _ =>
    let rs := waveRanges s w f.rset.toNat
    if scopeRank f.scope < 2 then
      let r := readLines id (loadHow f false (scopeLevel f.scope)) need s
      match r.2 with
      | none => r.1
      | some lines => loadDone (acquireEffects r.1 id f.scope f.rset.toNat []) id p f sx ls lines
    else
      let r := acquireLines id f.scope (accGroup (sizeBytes f.size)) rs need (acquireStart s id rs)
      match r.2 with
      | none => r.1
      | some lines =>
        loadDone (acquireEffects r.1 id f.scope f.rset.toNat (getWave r.1 id).op.relEnts) id p f sx ls lines

/-- Reads and writes of control space by a general core, at a physical address: the registers themselves are in
`Regs` (R126). -/
structure CtrlIo where
  read : State → Nat → Nat → State × Nat
  write : State → Nat → List Byte → State

/-- A load of control space reads a register (R126). -/
def ctrlLoad (io : CtrlIo) (f : MemF) (sx : Bool) (s : State) (id : Nat) (p : Path) (pa : Nat) : State :=
  let n := sizeBytes f.size
  let r := io.read s pa n
  let w := getWave r.1 id
  let x : Rd := ⟨r.1, w, p⟩
  retire r.1 id (writeDst w f.h.dst (sizeWords n) .u (workMask x f.h.g) (fun _ => extendLoad sx n r.2))

def loadOp (io : CtrlIo) (i : Instr) (sx : Bool) (f : MemF) (s : State) : Out :=
  memGate i s f.h .read (f.ord != .plain) (sizeBytes f.size) (globalAddr f) (fun t id w p ls =>
    match (ls.head?).bind (fun y => ctrlTarget t w y.2) with
    | some pa => ctrlLoad io f sx t id p pa
    | none => loadRun f sx t id w p ls)

/-! ## Stores (R372, R373) -/

/-- The bytes that a lane stores. -/
def storeBytes (f : MemF) (x : Rd) (l : Nat) : List Byte :=
  bytesOfNat (sizeBytes f.size) (dataOpnd f (sizeBytes f.size) f.h.sb x l)

/-- A multicast store of one line's part to a replicated page (R95): the home applies it and forwards it to every other
copy in ascending node order. `ents` are recorded at its words. -/
def replicate (s : State) (id : Nat) (y : StoreAt) (k h : Nat) (p : Phys) (b : Line) (ord : Bool) (ents : List RelEnt) : State :=
  let w := getWave s id
  let m := wordMask b.valid
  let s0 := (maskLanes m).foldl (fun t i => fireWatches t h (lineAsid k) (lineNo k * 128 + 4 * i) 4 0) s
  let s1 := memPut s0 (homeCopy p h) b b.valid
  let s2 := (maskLanes m).foldl (fun t i => if ents.isEmpty then t else recordRel t h k i ents) s1
  let others := cdies.filter (fun d => bitOf p.repl d && d != h)
  let r := freshReq s2
  let req : Req := { agent := waveAgent r.1 w, wave := id, id := r.2 }
  let s3 := if others.isEmpty then r.1
    else addPend r.1 id { id := r.2, die := true, lane := y.1, addr := y.2.1, hnd := y.2.2, line := k, words := m, ord := ord }
  others.foldl (fun t d => send t h d .reg (lineNo k * 128) (.replWr (lineAsid k) (lineNo k) b d req)) s3

/-- One line's part of an `stm`: as `st` where the page is not replicated (R373). -/
def multicastPart (s : State) (id : Nat) (y : StoreAt) (k : Nat) (b : Line) (ord : Bool) (ents : List RelEnt)
    (other : State → State) : State :=
  let w := getWave s id
  let v := lineNo k * 128
  match homeAt s w.node (lineAsid k) v with
  | none => other s
  | some h =>
    match xlatePeek s h (lineAsid k) v .write w.sup with
    | .error _ => other s
    | .ok p =>
      if p.repl = 0 then other s
      else
        let req : Req := { agent := waveAgent s w, wave := id, id := 0, sup := w.sup,
                           grant := carriedGrant s w.asid w.taskId .write v }
        let a := homeAccess s h req (lineAsid k) (lineNo k) .write
        match a.2 with
        | .error e => storeTrap a.1 id y e.cause e.sub
        | .ok q => replicate a.1 id y k h q b ord ents

def multicastLane (s : State) (id : Nat) (y : StoreAt) (l : List Byte) (sk : StKind) : State :=
  (storeParts (getWave s id).asid y.2.1 l).foldl (fun t x =>
    multicastPart t id y x.1 x.2 (!stPlain sk) [] (fun u => storePart u id y x.1 x.2 sk)) s

def multicastRel (s : State) (id : Nat) (y : StoreAt) (l : List Byte) (sc : Scope) : State :=
  let w := getWave s id
  let ents := if scopeRank sc < 2 then [] else releaseEntries s w.node w.unit sc
  (storeParts w.asid y.2.1 l).foldl (fun t x =>
    multicastPart t id y x.1 x.2 true ents (fun u => releasePart u id y x.1 x.2 sc)) s

/-! ## Draining (R203) -/

/-- The lines, counted from the core's scratchpad base, that bytes [a, a + n) touch. -/
def linesOf (a n : Nat) : List Nat :=
  if n = 0 then [] else (List.range ((a + n - 1) / 128 - a / 128 + 1)).map (fun i => a / 128 + i)

/-- `sete` marks lines empty; tag 0 stands for it. -/
def markEmpty (s : State) (ck a n tag : Nat) : State :=
  modCore s ck (fun c => { c with empty := (linesOf a n).foldl (fun t i =>
    Tab.put t i (tag :: (Tab.get [] t i))) c.empty })

def markFull (s : State) (ck a n : Nat) : State :=
  modCore s ck (fun c => { c with empty := (linesOf a n).foldl (fun t i => Tab.erase t i) c.empty })

/-- One lane of a queued store is written. -/
def drainLane (s : State) (id : Nat) (e : SqEnt) (x : Nat × DWord × List Byte) : State :=
  let w := getWave s id
  let a := (scrAlloc s w).1 + x.2.1.toNat
  match e.k with
  | .glb sc multi =>
    let sk : StKind := match sc with
      | none => .plain
      | some c => .ordered c
    if multi then multicastLane s id (x.1, x.2.1, e.hnd) x.2.2 sk else storeLane s id (x.1, x.2.1, e.hnd) x.2.2 sk
  | .scr => scrWrite s (waveCore w) a x.2.2
  | .mark full => if full then markFull s (waveCore w) a (natOfBytes x.2.2) else markEmpty s (waveCore w) a (natOfBytes x.2.2) 0

/-- The lowest lane of the oldest queued store leaves the queue. -/
def drainOne (s : State) (id : Nat) : State :=
  match (getWave s id).sq with
  | [] => s
  | e :: r => match e.lanes with
    | [] => modWave s id (fun w => { w with sq := r })
    | x :: l => drainLane (modWave s id (fun w => { w with sq := if l.isEmpty then r else { e with lanes := l } :: r })) id e x

/-- Lanes in a wave's store queue. -/
def sqLanes (w : Wave) : Nat := sumNat (w.sq.map (fun e => max 1 e.lanes.length))

/-- The first `n` lanes of a wave's store queue leave it. -/
def drainLanes (n : Nat) (s : State) (id : Nat) : State := n.repeat (fun t => drainOne t id) s

/-- A wave's store queue drains in full. -/
def drainQueue (s : State) (id : Nat) : State := drainLanes (sqLanes (getWave s id)) s id

/-- The head of a wave's store queue cannot drain: its requests find no entry of the core (R186) or no room in the node's egress
(R56), or its line none in the die's proxy table (R68). -/
def drainStalled (s : State) (w : Wave) : Bool :=
  match w.sq.head? with
  | some e => (match e.k, e.lanes.head? with
    | .glb _ _, some x => requestsFull s w || (s.rehome.isSome && (storeParts w.asid x.2.1 x.2.2).any (fun y =>
          egressStalls s w.node 1 (lineAsid y.1) (lineNo y.1 * 128)))
        || proxyWaits s w.node ((storeParts w.asid x.2.1 x.2.2).map Prod.fst)
    | _, _ => false)
  | none => false

/-- `n` lanes of a wave's store queue drain, as far as they may; a full proxy table is drained first (R68, R203). -/
def drainStores (s : State) (id n : Nat) : State :=
  n.repeat (fun t =>
    let w := getWave t id
    if drainStalled t w then
      (if proxyWaits t w.node ((w.sq.head?.toList.flatMap (fun e => e.lanes.head?.toList)).flatMap
          (fun x => (storeParts w.asid x.2.1 x.2.2).map Prod.fst)) then proxyDrain t w.node else t)
    else drainOne t id) s

/-- A retired store enters its wave's store queue; a general-core thread has none, and stores at once. -/
def queueStore (s : State) (id : Nat) (e : SqEnt) : State :=
  let s1 := modWave s id (fun w => { w with sq := w.sq ++ [e] })
  if (getWave s id).general then drainQueue s1 id else s1

/-- The wave's store queue has no room (R203). -/
def queueFull (w : Wave) : Bool := decide (storeQueue ≤ w.sq.length)

/-- A store in its ordering: a plain or relaxed one enters the store queue, a release is made lane by lane. A thread waits for
room in the proxy table of its die (R68), and an ordered store for the wave's ordered accesses to its lines (R232). -/
def storeOrder (f : MemF) (multi : Bool) (s : State) (id : Nat) (w : Wave) (ls : List LaneAddr) (bytes : Nat → List Byte) :
    State :=
  let need := needMap w.asid (sizeBytes f.size) ls
  let put := fun (sc : Option Scope) =>
    if queueFull w then opWait s id
    else
      let t := queueStore s id { k := .glb sc multi, hnd := w.handler.isSome, lanes := ls.map (fun y => (y.1, y.2, bytes y.1)) }
      retire t id (getWave t id)
  let rel := ls.foldl (fun t y => if multi then multicastRel t id (storeAt w y) (bytes y.1) f.scope
    else releaseLane t id (storeAt w y) (bytes y.1) f.scope) s
  if w.general ∧ proxyWaits s w.node (need.map Prod.fst) then proxyDrain (opWait s id) w.node
  else if f.ord ≠ .plain ∧ ordBusy w need then opWait s id
  else match f.ord with
  | .plain => put none
  | .rlx =>
    if !relaxedReleases w f.scope then put (some f.scope)
    else if !w.sq.isEmpty then opWait s id else retire rel id (getWave rel id)
  | _ =>
    if !w.sq.isEmpty ∨ releaseWaits s id f.scope ∨ requestsFull s w then opWait s id
    else let t := releaseMade rel id f.scope; retire t id (getWave t id)

def storeOp (io : CtrlIo) (f : MemF) (s : State) : Out :=
  memGate (.st f) s f.h .write (f.ord != .plain) (sizeBytes f.size) (globalAddr f) (fun t id w p ls =>
    let x : Rd := ⟨t, w, p⟩
    match (ls.head?).bind (fun y => ctrlTarget t w y.2) with
    | some pa => io.write (retire t id w) pa (storeBytes f x 0)
    | none => storeOrder f false t id w ls (storeBytes f x))

def multicastOp (io : CtrlIo) (f : MemF) (s : State) : Out :=
  memGate (.stm f) s f.h .write (f.ord != .plain) (sizeBytes f.size) (globalAddr f) (fun t id w p ls =>
    let x : Rd := ⟨t, w, p⟩
    match (ls.head?).bind (fun y => ctrlTarget t w y.2) with
    | some pa => io.write (retire t id w) pa (storeBytes f x 0)
    | none => storeOrder f true t id w ls (storeBytes f x))

/-! ## Prefetch (R374) -/

/-- Whether a prefetch of a line is dropped: a word in state Z or G, a token region of another, an uncached page, an
error, or a miss that an acquire holds. -/
def prefDropped (s : State) (w : Wave) (h k : Nat) : Bool :=
  let v := lineNo k * 128
  nodeLost s h || lineUncached s h k || missHeld s (waveCore w) k
    || lanes32.any (fun i => wordSt s k i == .z || wordSt s k i == .g
        || !tokenAllows s h (lineAsid k) (v + 4 * i) 4 (waveAgent s w))
    || !grantLive s (carriedGrant s w.asid w.taskId .read v)

/-- Fills a line toward a level. -/
def prefLine (s : State) (w : Wave) (lvl : PrefLevel) (k : Nat) : State :=
  match homeAt s w.node (lineAsid k) (lineNo k * 128) with
  | none => s
  | some h =>
    if prefDropped s w h k then s
    else match xlate s h (lineAsid k) (lineNo k * 128) .read w.sup with
      | (t, .error _) => t
      | (t, .ok p0) =>
        if (physReach t p0).isSome then t
        else
          let p := readCopy p0 h w.node
          let r := homeRead t h k p (BitVec.allOnes 32)
          let put := fun (x : Tab Line) (c : Nat) =>
            let o := getLine x c k
            let y := lineOver o r.2 (r.2.valid &&& ~~~o.dirty) false
            setLine x c k { y with dirty := o.dirty }
          let l2 := { r.1 with l2 := put r.1.l2 (l2Of w.node w.unit) }
          match lvl with
          | .l1 =>
            -- the L1 takes what the L2 now holds, its dirty bytes with it
            let q := getLine l2.l2 (l2Of w.node w.unit) k
            let near := lineOver (getLine l2.l1 (l1Of w.node w.unit) k) q q.valid false
            { l2 with l1 := setLine l2.l1 (l1Of w.node w.unit) k { near with dirty := 0 } }
          | .l2 => l2
          | .llc => if h = w.node then r.1 else { r.1 with llc := put r.1.llc w.node }

/-- Whether the line of an address may be read by the wave (R113, R118). -/
def prefAllowed (s : State) (w : Wave) (va : DWord) : Bool :=
  if w.general then (permCheck s w.node w.unit w.asid va .read w.sup).2.isNone
  else (leaseCheck s w.asid w.taskId .read va 1).isNone

def execPref (lvl : PrefLevel) (f : MemF) (s : State) : Out :=
  gate (.pref lvl f) s (fun id w p =>
    let x : Rd := ⟨s, w, p⟩
    let s1 := (maskLanes (workMask x f.h.g)).foldl (fun t l =>
      let va := globalAddr f x l
      if prefAllowed t w va then prefLine t w lvl (lineKey (asidOf w.asid va) (va54 va / 128)) else t) s
    .next (retire s1 id (getWave s1 id)))

/-! ## Scratchpad (R371, R372) -/

def execLds (sx : Bool) (f : MemF) (s : State) : Out :=
  let n := sizeBytes f.size
  scrGate (.lds sx f) s f false (f.ord != .plain) (fun _ _ => n) (fun t id w p ls =>
    let x : Rd := ⟨t, w, p⟩
    let ck := waveCore w
    let off := (scrAlloc t w).1
    if sqMarks w ∨ ls.any (fun y => touchesEmpty (getCore t ck) (off + y.2) n) then opWait t id
    else match scrRetireTrap t w p (entryMask w p f.h.g) true false (fun _ => n) ls with
      | some tr => takeTrap t id tr
      | none =>
        let val := fun l => match ls.find? (fun y => y.1 == l) with
          | some y => extendLoad sx n (scrReadQueued t w y.2 n)
          | none => 0
        let sh := resultShape x f.h.g .plain [] [addrSrc f true]
        let w1 := writeDst w f.h.dst (sizeWords n) sh (workMask x f.h.g) val
        let u := setWave t id w1
        let u1 := match f.ord with
          | .plain | .rlx => u
          | _ => acquireEffects u id .wg f.rset.toNat []
        retire u1 id (getWave u1 id))

def execSts (f : MemF) (s : State) : Out :=
  let n := sizeBytes f.size
  scrGate (.sts f) s f true (f.ord != .plain) (fun _ _ => n) (fun t id w p ls =>
    let x : Rd := ⟨t, w, p⟩
    match scrRetireTrap t w p (entryMask w p f.h.g) false true (fun _ => n) ls with
    | some tr => takeTrap t id tr
    | none =>
      if queueFull w ∨ (f.ord = .rel ∧ !w.sq.isEmpty) then opWait t id
      else
        let u := queueStore t id { k := .scr, hnd := w.handler.isSome,
                                   lanes := ls.map (fun y => (y.1, BitVec.ofNat 64 y.2, storeBytes f x y.1)) }
        retire u id (getWave u id))

/-! ## Full/empty bits (R376) -/

/-- The byte count of `sete` and `setf`. -/
def feCount (f : MemF) (x : Rd) (l : Nat) : Nat := dataOpnd f 4 f.h.sb x l

def fullEmpty (i : Instr) (f : MemF) (full : Bool) (s : State) : Out :=
  scrGate i s f true false (feCount f) (fun t id w p ls =>
    let x : Rd := ⟨t, w, p⟩
    match scrRetireTrap t w p (entryMask w p f.h.g) false true (feCount f x) ls with
    | some tr => takeTrap t id tr
    | none =>
      if queueFull w then opWait t id
      else
        let u := queueStore t id { k := .mark full, hnd := w.handler.isSome,
                                   lanes := ls.map (fun y => (y.1, BitVec.ofNat 64 y.2, bytesOfNat 4 (feCount f x y.1))) }
        retire u id (getWave u id))

def execSete (f : MemF) (s : State) : Out := fullEmpty (.sete f) f false s
def execSetf (f : MemF) (s : State) : Out := fullEmpty (.setf f) f true s

/-- The mark that a lane of the store queue will give a line of the core: of two, the later one's. -/
def queuedMark (s : State) (w : Wave) (line : Nat) : Option Bool :=
  firstSome (fun (e : SqEnt) => match e.k with
    | .mark full =>
      if e.lanes.any (fun x => (linesOf ((scrAlloc s w).1 + x.2.1.toNat) (natOfBytes x.2.2)).contains line) then some full
      else none
    | _ => none) w.sq.reverse

/-- The full bits of 32 lines from the line of an offset, as the wave's queued marks will leave them; lines at or beyond
SCRATCH read 0. -/
def fullBits (s : State) (w : Wave) (a : Nat) : Nat :=
  let al := scrAlloc s w
  let c := getCore s (waveCore w)
  (maskOf (fun i =>
    let line := al.1 / 128 + a / 128 + i
    decide ((a / 128 + i) * 128 < al.2) && (queuedMark s w line).getD (Tab.find c.empty line).isNone)).toNat

def execLdfe (f : MemF) (s : State) : Out :=
  gate (.ldfe f) s (fun id w p =>
    let x : Rd := ⟨s, w, p⟩
    let e := workMask x f.h.g
    if w.home.isSome ∧ e ≠ 0 then .next (trapNow s cMigrate 0 (entryMask w p f.h.g) e 0)
    else
      let sh := resultShape x f.h.g .plain [] [addrSrc f true]
      .next (retire s id (writeDst w f.h.dst 1 sh e (fun l => fullBits s w (scratchAddr f x l)))))

end Sys2Proof.Machine
end

