-- ==== Sys2Proof/Machine/AtomOps.lean ====
section
/-! DEFINITION. Atomics (R88, R232, R233, R377-R380). -/

namespace Sys2Proof.Machine

/-! ## New values (R378) -/

/-- Elementwise addition of a packed type, rounded to nearest even, subnormals kept. -/
def atomAdd2 (t : Ty) (a b : Nat) : Nat :=
  (packElems t (fun j => roundOp (tyFmt t) rneMode
    (sumVal .rne [valOf (tyFmt t) (elemOf t a j), valOf (tyFmt t) (elemOf t b j)]))).1

/-- The value that an operation writes to a word of `w` bits. -/
def atomNew (op : AtomOp) (w a b : Nat) : Nat :=
  match op with
  | .add => (a + b) % 2 ^ w
  | .smin => if signedOf b w < signedOf a w then b else a
  | .smax => if signedOf a w < signedOf b w then b else a
  | .umin => min a b
  | .umax => max a b
  | .and => a &&& b
  | .or => a ||| b
  | .xor => a ^^^ b
  | .exch => b
  | .inc => if b ≤ a then 0 else a + 1
  | .dec => if a = 0 ∨ b < a then b else a - 1
  | .fadd => (roundOp .fp32 rneMode (sumVal .rne [valOf .fp32 a, valOf .fp32 b])).1
  | .fmin => (minMaxCode .fp32 false false a b).1
  | .fmax => (minMaxCode .fp32 true false a b).1
  | .hadd2 => atomAdd2 .f16x2 a b
  | .badd2 => atomAdd2 .bf16x2 a b

/-- The type in which an operation reads a constant (R366). -/
def atomTy (op : AtomOp) : Option Ty :=
  match op with
  | .fadd | .fmin | .fmax => some .f32
  | .hadd2 => some .f16x2
  | .badd2 => some .bf16x2
  | _ => none

/-- The data operand of an atomic. -/
def atomData (op : AtomOp) (f : MemF) (x : Rd) (l : Nat) : Nat :=
  match atomTy op, f.h.sb with
  | some t, .konst k => constOf t k.toNat
  | _, o => dataOpnd f (sizeBytes f.size) o x l

/-- What an atomic makes of the old value of a lane. -/
abbrev AtomFn := Rd → Nat → Nat → Nat

def atomFn (op : AtomOp) (f : MemF) : AtomFn := fun x l old => atomNew op (8 * sizeBytes f.size) old (atomData op f x l)

/-- Compare and swap: b where the old value equals c in every bit. -/
def casFn (f : MemF) : AtomFn := fun x l old =>
  if old = dataOpnd f (sizeBytes f.size) f.h.sc x l then dataOpnd f (sizeBytes f.size) f.h.sb x l else old

/-! ## Orderings -/

def ordAcquires : Ord → Bool
  | .acq | .ar => true
  | _ => false

def ordReleases : Ord → Bool
  | .rel | .ar => true
  | _ => false

/-! ## One lane at its home (R88, R379, R380) -/

/-- An owner of a word whose copy the issuing core itself writes back: the core, or its die. -/
def ownHolder (s : State) (w : Wave) (a : Nat) : Bool := a == waveAgent s w || a == agentId s w.node 127

/-- The words of a mask that another agent owns. -/
def awayWords (s : State) (w : Wave) (h k : Nat) (m : Mask) : Mask :=
  match wordOwner s h (lineAsid k) (lineNo k) with
  | none => 0
  | some a => if ownHolder s w a then 0 else maskOf (fun i => m.getLsbD i && wordSt s k i == .g)

/-- A RECALL of a word, or a write-back of its line, is under way. -/
def recallBusy (s : State) (k i : Nat) : Bool :=
  inFlight s (fun m => match m with
    | .recall a l j _ => lineKey a l == k && j == i
    | .wb _ a l ws _ _ => lineKey a l == k && ws.getLsbD i
    | _ => false)

/-- RECALL of the words that another agent owns, one message a word (R74). -/
def recallAway (s : State) (h k : Nat) (m : Mask) : State :=
  match wordOwner s h (lineAsid k) (lineNo k) with
  | none => s
  | some a => (maskLanes m).foldl (fun t i => if recallBusy t k i then t
      else send t h (agentNode a) .reg (lineNo k * 128) (.recall (lineAsid k) (lineNo k) i a)) s

/-- The issuing core's own dirty bytes of words that its home does not hold as registered go there first (R88). -/
def flushOwn (s : State) (w : Wave) (h k : Nat) (p : Phys) (m : Mask) : State :=
  let bm := byteMask (m &&& ~~~lineG s k)
  let q := getLine s.l2 (l2Of w.node w.unit) k
  let c := if h = w.node then {} else getLine s.llc w.node k
  let b := lineOver (lineOnly c (c.dirty &&& bm)) q (q.dirty &&& bm) true
  if b.valid = 0 then s
  else
    let s1 := { s with l2 := setLine s.l2 (l2Of w.node w.unit) k { q with dirty := q.dirty &&& ~~~bm } }
    let s2 := if h = w.node then s1 else { s1 with llc := setLine s1.llc w.node k { c with dirty := c.dirty &&& ~~~bm } }
    homeWrite s2 h k p b b.valid

/-- What a lane's atomic at its home comes to. -/
inductive LaneRes where
  | wait
  | err (e : AccErr)
  | done (old : Nat)
  deriving DecidableEq, Repr

/-- The atomic itself at the home, every word being there: the old value, the write, the releasers recorded, and the
drains of the acquire. -/
def atomPerform (s : State) (id h k : Nat) (p : Phys) (f : MemF) (va : DWord) (new : Nat → Nat) : State × Nat :=
  let w := getWave s id
  let n := sizeBytes f.size
  let o := va54 va % 128
  let b0 := lineOfBytes o (List.replicate n 0)
  let m := wordMask b0.valid
  let r := homeRead (recallWords (flushOwn s w h k p m) h k p m) h k p m
  let old := natOfBytes ((List.range n).map (fun i => lineByte r.2 (o + i)))
  let es := if ordAcquires f.ord then acqSelect r.1 h k m f.scope (waveAgent s w) else []
  let b := lineOfBytes o (bytesOfNat n (new old))
  let s1 := dropCopies (homeWrite r.1 h k p b b.valid) (waveAgent s w) k m h
  let s2 := if ordReleases f.ord then
      (maskLanes m).foldl (fun t i => recordRel t h k i (releaseEntries t w.node w.unit f.scope)) s1 else s1
  let s3 := if ordAcquires f.ord then acquireDrains s2 id h es (waveRanges s2 w f.rset.toNat) (lineNo k * 128)
    else if f.ord = .rlx ∧ 2 ≤ scopeRank f.scope then keepEntries s2 id (lineEntries r.1 h k m) else s2
  (s3, old)

/-- One lane's atomic. -/
def atomLane (s : State) (id : Nat) (f : MemF) (va : DWord) (new : Nat → Nat) : State × LaneRes :=
  let w := getWave s id
  let v := va54 va
  let k := lineKey (asidOf w.asid va) (v / 128)
  let n := sizeBytes f.size
  let m := wordMask (lineOfBytes (v % 128) (List.replicate n 0)).valid
  match homeAt s w.node (lineAsid k) v with
  | none => (s, .err eLeaseLost)
  | some h =>
    if nodeLost s h then (s, .err eDieLost)
    else if homeHolds s w.node h k then (s, .wait)
    else if !tokenAllows s h (lineAsid k) v n (waveAgent s w) then (s, .err eToken)
    else
      let req : Req := { agent := waveAgent s w, wave := id, id := w.op.id, sup := w.sup,
                         grant := if w.general then none else carriedGrant s w.asid w.taskId .write v }
      let a := homeAccess s h req (lineAsid k) (lineNo k) .write
      match a.2 with
      | .error e => (a.1, .err e)
      | .ok p =>
        if p.repl ≠ 0 then (a.1, .err eReplica)
        else if (maskLanes m).any (fun i => wordSt a.1 k i == WordSt.z) then
          ((zError a.1 k m).1, .err (zError a.1 k m).2)
        else
          let away := awayWords a.1 w h k m
          if away ≠ 0 then (recallAway a.1 h k away, .wait)
          else
            let r := atomPerform a.1 id h k p f va new
            (r.1, .done r.2)

/-- The lanes not yet performed, in ascending order, up to one that waits. -/
def atomLanes (id : Nat) (p : Path) (f : MemF) (fn : AtomFn) : List LaneAddr → State → State × Bool
  | [], s => (s, true)
  | y :: t, s =>
    let o := (getWave s id).op
    if (Tab.find o.vals y.1).isSome ∨ (Tab.find o.errs y.1).isSome then atomLanes id p f fn t s
    else
      let x : Rd := ⟨s, getWave s id, p⟩
      let r := atomLane s id f y.2 (fn x y.1)
      match r.2 with
      | .wait => (r.1, false)
      | .err e => atomLanes id p f fn t (modOp r.1 id (fun o => { o with errs := Tab.put o.errs y.1 e }))
      | .done v => atomLanes id p f fn t (modOp r.1 id (fun o => { o with vals := Tab.put o.vals y.1 v }))

/-! ## The whole instruction -/

/-- The trap of the lanes that met an error at their homes; the instruction counts as performed for the others
(R380). -/
def atomTrap (w : Wave) (p : Path) (e : Mask) (ls : List LaneAddr) : Option TrapInfo :=
  (lanesTrap w p e (ls.filterMap (fun y => (Tab.find w.op.errs y.1).map (fun x =>
    (y.1, { cause := x.cause, sub := x.sub, addr := y.2 }))))).map (fun t =>
      { t with fmask := maskOf (fun l => (Tab.find w.op.errs l).isSome), atomDone := true })

/-- Old values go to the lanes performed, and the instruction retires or traps. -/
def atomDone (s : State) (id : Nat) (p : Path) (f : MemF) (ls : List LaneAddr) : State :=
  let w := getWave s id
  let x : Rd := ⟨s, w, p⟩
  let okMask := maskOf (fun l => (Tab.find w.op.vals l).isSome)
  let sh : Shape := if oneLane w then .u else .g
  let w1 := writeDst w f.h.dst (sizeWords (sizeBytes f.size)) sh (workMask x f.h.g &&& okMask) (fun l => Tab.get 0 w.op.vals l)
  match atomTrap w p (entryMask w p f.h.g) ls with
  | some t => takeTrap (setWave s id w1) id t
  | none => retire s id w1

/-- `red` returns nothing: the errors of its lanes are deferred (R380). -/
def redDone (s : State) (id : Nat) (ls : List LaneAddr) : State :=
  let w := getWave s id
  let s1 := ls.foldl (fun t y => match Tab.find w.op.errs y.1 with
    | none => t
    | some e => addDeferred t id { cause := e.cause, sub := e.sub, lane := y.1, addr := y.2, hnd := w.handler.isSome }) s
  retire s1 id (getWave s1 id)

/-- An atomic of control space: the register is read and written (R126). -/
def ctrlAtom (io : CtrlIo) (s : State) (id : Nat) (p : Path) (f : MemF) (fn : AtomFn) (pa : Nat) (ls : List LaneAddr)
    (ret : Bool) : State :=
  let n := sizeBytes f.size
  let r := io.read s pa n
  let x : Rd := ⟨r.1, getWave r.1 id, p⟩
  let s1 := modOp r.1 id (fun o => { o with vals := Tab.put o.vals 0 r.2 })
  io.write (if ret then atomDone s1 id p f ls else redDone s1 id ls) pa (bytesOfNat n (fn x 0 r.2))

/-- An ordered access of the wave to one of the lines is outstanding, or a store to an uncached one (R105, R204, R232). -/
def atomHeld (s : State) (w : Wave) (f : MemF) (ls : List LaneAddr) : Bool :=
  let need := needMap w.asid (sizeBytes f.size) ls
  ordBusy w need || need.any (fun y => match homeAt s w.node (lineAsid y.1) (lineNo y.1 * 128) with
    | some h => uncachedBusy s w h y.1 (wordMask y.2)
    | none => false)

/-- A global atomic: the release part waits, every lane is performed at its home, and the acquire part takes effect
(R232, R233, R379). It waits for the wave's ordered accesses to its lines, and for stores of the wave that are performed at
the home. -/
def atomRun (io : CtrlIo) (f : MemF) (fn : AtomFn) (ret : Bool) (s : State) (id : Nat) (w : Wave) (p : Path)
    (ls : List LaneAddr) : State :=
  match (ls.head?).bind (fun y => ctrlTarget s w y.2) with
  | some pa => ctrlAtom io s id p f fn pa ls ret
  | none =>
    if atomHeld s w f ls ∨ requestsFull s w ∨ (ordReleases f.ord ∧ releaseWaits s id f.scope) then opWait s id
    else
      let s0 := opWait s id
      let s1 := if ordAcquires f.ord then acquireStart s0 id (waveRanges s0 (getWave s0 id) f.rset.toNat) else s0
      let r := atomLanes id p f fn ls s1
      if !r.2 then r.1
      else
        let s2 := if ordReleases f.ord then releaseMade r.1 id f.scope else r.1
        let s3 := if ordAcquires f.ord then
            acquireEffects s2 id f.scope f.rset.toNat (getWave s2 id).op.relEnts else s2
        if ret then atomDone s3 id p f ls else redDone s3 id ls

def atomGlobal (io : CtrlIo) (i : Instr) (f : MemF) (fn : AtomFn) (ret : Bool) (s : State) : Out :=
  memGate i s f.h .write true (sizeBytes f.size) (globalAddr f) (atomRun io f fn ret)

/-! ## Scratchpad atomics (R379) -/

/-- The lanes of a scratchpad atomic in ascending order: the state and the old values. -/
def scrAtomLanes (ck off n : Nat) (new : Nat → Nat → Nat) : List (Nat × Nat) → State → State × Tab Nat
  | [], s => (s, [])
  | y :: t, s =>
    let old := scrRead s ck (off + y.2) n
    let r := scrAtomLanes ck off n new t (scrWrite s ck (off + y.2) (bytesOfNat n (new y.1 old)))
    (r.1, Tab.put r.2 y.1 old)

/-- A scratchpad atomic; its ordered forms act at `wg` scope with the scratchpad as point of record. -/
def atomScratch (i : Instr) (f : MemF) (fn : AtomFn) (ret : Bool) (s : State) : Out :=
  let n := sizeBytes f.size
  scrGate i s f true true (fun _ _ => n) (fun t id w p ls =>
    let x : Rd := ⟨t, w, p⟩
    let ck := waveCore w
    let off := (scrAlloc t w).1
    if ls.any (fun y => touchesEmpty (getCore t ck) (off + y.2) n) then
      opWait t id
    else match scrRetireTrap t w p (entryMask w p f.h.g) true true (fun _ => n) ls with
      | some tr => takeTrap t id tr
      | none =>
        let r := scrAtomLanes ck off n (fn x) ls t
        let sh : Shape := if oneLane w then .u else .g
        let w1 := if ret then writeDst w f.h.dst (sizeWords n) sh (workMask x f.h.g) (fun l => Tab.get 0 r.2 l) else w
        -- monitors may have fired on the wave itself
        let u := setWave r.1 id { w1 with mon := (getWave r.1 id).mon }
        let u1 := if ordAcquires f.ord then acquireEffects u id .wg f.rset.toNat [] else u
        retire u1 id (getWave u1 id))

def execAtoms (op : AtomOp) (f : MemF) (s : State) : Out := atomScratch (.atoms op f) f (atomFn op f) true s
def execAcass (f : MemF) (s : State) : Out := atomScratch (.acass f) f (casFn f) true s
def execReds (op : AtomOp) (f : MemF) (s : State) : Out := atomScratch (.reds op f) f (atomFn op f) false s

end Sys2Proof.Machine
end

