-- ==== Sys2Proof/Machine/CvtOps.lean ====
section
/-! DEFINITION. Conversions and microscaled blocks (R282-R284, R292, R346-R352). -/

namespace Sys2Proof.Machine

/-! ## Shared conversions -/

/-- Conversion of a value to an integer type (R292): saturated; NaN gives 0. -/
def toInt (t : Ty) (mode : RMode) (v : Val) : Nat × Exc :=
  let w := tyWidth t
  let lo : Int := if tySigned t then -((2 ^ (w - 1) : Nat) : Int) else 0
  let hi : Int := if tySigned t then ((2 ^ (w - 1) : Nat) : Int) - 1 else ((2 ^ w : Nat) : Int) - 1
  match v with
  | .nan _ => (0, excIv true)
  | .inf n => (natOfInt (if n then lo else hi) w, { iv := true, ix := true })
  | .num n m e =>
    let r := roundInt mode n m e
    if r.1 < lo ∨ hi < r.1 then (natOfInt (satInt r.1 lo hi) w, { iv := true, ix := true })
    else (natOfInt r.1 w, { ix := r.2 })

/-- The symmetric clamp of an MXINT8 element, 64 units to 1 (R284, R348). -/
def mxInt8 (mode : RMode) (neg : Bool) (m : Nat) (e : Int) : Nat × Exc :=
  let r := roundInt mode neg m (e + 6)
  let c := satInt r.1 (-127) 127
  (natOfInt c 8, { ix := r.2 || decide (c ≠ r.1) })

/-- Conversion to an element format (R348): floating point by R286, `.mxi8` by its own list. -/
def toElem (t : Ty) (mode : RMode) (v : Val) : Nat × Exc :=
  match t with
  | .mxi8 => match v with
    | .nan _ => (0, excIv true)
    | .inf n => (natOfInt (if n then -127 else 127) 8, excIv true)
    | .num n m e => mxInt8 mode n m e
  | _ => roundVal (tyFmt t) mode v

/-- The exponent of the largest element (R283). -/
def mxEmax : Ty → Int
  | .e4m3 => 8 | .e5m2 => 15 | .e2m1 => 2 | _ => 0

/-- The largest magnitude of the finite values; none when one is NaN or infinite. Compared as m * 2^e (R283). -/
def valLess (a b : Val) : Bool :=
  match a, b with
  | .num _ m e, .num _ m' e' =>
    let q := min e e'
    decide (m * 2 ^ (e - q).toNat < m' * 2 ^ (e' - q).toNat)
  | _, _ => false

def maxAbs (l : List Val) : Val := l.foldl (fun a v => if valLess a v then valAbs v else a) (valZero false)

def valFinite : Val → Bool
  | .num .. => true
  | _ => false

/-- MxScale (R283). -/
def mxScale (t : Ty) (l : List Val) : Nat × Exc :=
  if l.any (fun v => !valFinite v) then (0xFF, excIv true)
  else match maxAbs l with
    | .num _ m e =>
      if m = 0 then (0, excNone) else ((satInt (e + (m.log2 : Int) - mxEmax t + 127) 0 254).toNat, excNone)
    | _ => (0, excNone)

/-- The element code of the largest magnitude. -/
def mxMax (t : Ty) (neg : Bool) : Nat :=
  match t with
  | .mxi8 => natOfInt (if neg then -127 else 127) 8
  | _ => signCode (tyFmt t) neg + fmtMax (tyFmt t)

/-- MxElem (R284); `zero` says that the whole block is zero. A clamp raises inexact only. -/
def mxElem (t : Ty) (mode : RMode) (c : Nat) (zero : Bool) (v : Val) : Nat × Exc :=
  if c = 0xFF then (0, excNone)
  else if c = 0 ∧ zero then (0, excNone)
  else match v with
    | .nan _ => (if t = .mxi8 then 0 else fmtNan (tyFmt t), excIv true)
    | .inf n => (mxMax t n, excIv true)
    | .num n m e =>
      let q := e - ((c : Int) - 127)
      match t with
      | .mxi8 => mxInt8 mode n m q
      | _ =>
        let r := roundVal (tyFmt t) { mode with sat := true } (.num n m q)
        (r.1, { r.2 with ov := false })

/-- 2^(C - 127) times an element; NaN in a NaN block (R282, R352). -/
def mxValue (t : Ty) (c code : Nat) : Val :=
  let e := elemVal t code
  if c = 0xFF ∨ valIsNan e then .nan false else scaleVal e ((c : Int) - 127)

/-! ## The instructions -/

def cvtBits (f : CvtF) (x : Rd) (l : Nat) : Nat := opnd x f.sty 0 f.h.sa l

/-- A floating-point or element source with FTZ; element ESEL of a packed one (R347). -/
def cvtVal (f : CvtF) (j : Nat) (x : Rd) (l : Nat) : Val :=
  let code := elemOf f.sty (cvtBits f x l) j
  if f.sty = .mxi8 then elemVal .mxi8 code else valOf (tyFmt f.sty) (flushIn (tyFmt f.sty) f.ftz code)

def cvtMode (f : CvtF) (x : Rd) (i : Nat) : RMode :=
  { rnd := f.rnd, sat := f.sat, ftz := f.ftz, hash := if f.rnd = .rs then srHash x.w.rseed i else 0 }

def intVal (v : Int) : Val := .num (decide (v < 0)) v.natAbs 0

/-- `cvt` of one lane (R347). -/
def cvtLane (f : CvtF) (x : Rd) (l : Nat) : Nat × Exc :=
  if tyIsInt f.sty then
    let v := intIn f.sty (cvtBits f x l)
    if tyIsInt f.dty then (reduceInt f.dty f.sat v, excNone)
    else roundVal (tyFmt f.dty) (cvtMode f x (8 * l)) (intVal v)
  else
    let v := cvtVal f f.esel.toNat x l
    if tyIsInt f.dty then toInt f.dty (cvtMode f x (8 * l)) v
    else roundVal (tyFmt f.dty) (cvtMode f x (8 * l)) v

def cvtSrc (f : CvtF) : Src := ⟨f.h.sa, tyWords f.sty⟩

def execCvt (f : CvtF) (s : State) : Out :=
  aluExc (.cvt f) f.h (.reg (tyWords f.dty) (roundRule f.rnd)) { srcs := [cvtSrc f] } (cvtLane f) s

/-- Element j of a word replaced by a code. -/
def putElem (t : Ty) (w j c : Nat) : Nat :=
  w - elemOf t w j * 2 ^ (tyElemBits t * j) + c * 2 ^ (tyElemBits t * j)

/-- `cvtp` of one lane: elements 2k and 2k + 1 of c replaced by the conversions of a and b (R348). -/
def cvtpLane (k : BitVec 2) (f : CvtF) (x : Rd) (l : Nat) : Nat × Exc :=
  let j := 2 * k.toNat
  let src := fun o => valOf (tyFmt f.sty) (flushIn (tyFmt f.sty) f.ftz (opnd x f.sty 0 o l))
  let a := toElem f.dty (cvtMode f x (8 * l + j)) (src f.h.sa)
  let b := toElem f.dty (cvtMode f x (8 * l + j + 1)) (src f.h.sb)
  (putElem f.dty (putElem f.dty (opnd x f.dty 0 f.h.sc l) j a.1) (j + 1) b.1, excOr a.2 b.2)

def execCvtp (k : BitVec 2) (f : CvtF) (s : State) : Out :=
  aluExc (.cvtp k f) f.h (.reg 1 (roundRule f.rnd)) { srcs := [cvtSrc f, ⟨f.h.sb, tyWords f.sty⟩, ⟨f.h.sc, tyWords f.dty⟩] }
    (cvtpLane k f) s

/-- `cvtx` of one lane: elements ESEL and ESEL + 1 into elements 0 and 1 (R348). -/
def cvtxLane (f : CvtF) (x : Rd) (l : Nat) : Nat × Exc :=
  packElems f.dty (fun j =>
    roundVal (tyFmt f.dty) { sat := f.sat } (elemVal f.sty (elemOf f.sty (cvtBits f x l) (f.esel.toNat + j))))

def execCvtx (f : CvtF) (s : State) : Out :=
  aluExc (.cvtx f) f.h (.reg 1 .plain) { srcs := [cvtSrc f] } (cvtxLane f) s

/-- The reduction of `mxamax` over the lanes of E, and its invalid mark (R349). -/
def amaxVal (l : List Val) : Nat × Exc :=
  let exc := excIv (l.any valSig)
  if l.any valIsNan then (fmtNan .fp32, exc)
  else if l.any (fun v => !valFinite v) then (fmtInfCode .fp32, exc)
  else ((roundVal .fp32 rneMode (maxAbs l)).1, exc)

def execMxamax (f : CvtF) (s : State) : Out :=
  aluExc (.mxamax f) f.h (.reg 1 .plain) { srcs := [cvtSrc f] }
    (fun x _ => amaxVal ((maskLanes (workMask x f.h.g)).map (cvtVal f 0 x))) s

def execMxscale (f : CvtF) (s : State) : Out :=
  aluExc (.mxscale f) f.h (.reg 1 .plain) { srcs := [cvtSrc f] } (fun x l => mxScale f.dty [cvtVal f 0 x l]) s

/-- The scale code: bits [7:0] of a `.n32` operand. -/
def scaleCode (f : CvtF) (x : Rd) (l : Nat) : Nat := opnd x .n32 0 f.h.sb l % 256

/-- `mxq` of one lane; the element index of RS is the lane (R351). -/
def mxqLane (f : CvtF) (x : Rd) (l : Nat) : Nat × Exc :=
  let v := cvtVal f 0 x l
  mxElem f.dty (cvtMode f x l) (scaleCode f x l) (valIsZero v) v

def execMxq (f : CvtF) (s : State) : Out :=
  aluExc (.mxq f) f.h (.reg 1 (roundRule f.rnd)) { srcs := [cvtSrc f, ⟨f.h.sb, 1⟩] } (mxqLane f) s

def mxdqLane (f : CvtF) (x : Rd) (l : Nat) : Nat × Exc :=
  roundVal (tyFmt f.dty) (cvtMode f x (8 * l))
    (mxValue f.sty (scaleCode f x l) (elemOf f.sty (cvtBits f x l) f.esel.toNat))

def execMxdq (f : CvtF) (s : State) : Out :=
  aluExc (.mxdq f) f.h (.reg 1 (roundRule f.rnd)) { srcs := [cvtSrc f, ⟨f.h.sb, 1⟩] } (mxdqLane f) s

end Sys2Proof.Machine
end

