-- ==== Sys2Proof/WellFormed.lean ====
section
/-! DEFINITION. Which terms of Instr are instructions of the machine: those whose fields pass every check of R315
in a place where the instruction may be used. An event has no word, and nothing is asked of it here. -/

namespace Sys2Proof

/-- The decode checks of R315 on the fields of the instruction, unfed and in a place that its row allows. -/
def wellFormed (i : Instr) : Bool :=
  match Machine.rawOf i with
  | none => true
  | some r =>
    match Machine.formOf r with
    | none => false
    | some f => Machine.rawBad (Machine.anyCtx f) r == none

/-- A row of the table that is an event, not an instruction word. -/
def isEvent (i : Instr) : Bool := (Machine.rawOf i).isNone

end Sys2Proof
end

