-- ==== Sys2Proof/Decode.lean ====
section
/-! DEFINITION. Decoding (R315, R316): total on every 96-bit word; a word that is no instruction is refused with
the trap that R315 gives. After it the encoder, from the same tables of chapters 11 to 14. -/

namespace Sys2Proof

/-- Decoding of a word in its context: the first check of R315 that fails, or the instruction. -/
def decode (c : Machine.DecCtx) (w : BitVec 96) : Except Machine.Bad Instr :=
  let r := Machine.rawOfBits w
  match Machine.rawBad c r with
  | some b => .error b
  | none =>
    match Machine.instrOf r with
    | some i => .ok i
    | none => .error (.ins 0)

/-- Decoding in a place that the word's row allows, unfed. -/
def decodeAny (w : BitVec 96) : Except Machine.Bad Instr :=
  match Machine.formOf (Machine.rawOfBits w) with
  | none => .error (.ins 0)
  | some f => decode (Machine.anyCtx f) w

/-- The word of an instruction (R297, R298); none for an event. -/
def encode (i : Instr) : Option (BitVec 96) := (Machine.rawOf i).map Machine.rawBits

/-- A word from its three 32-bit words w0, w1, w2 (R297). -/
def wordOf (w0 w1 w2 : BitVec 32) : BitVec 96 := w2 ++ w1 ++ w0

/-- The 12 bytes of a word at ascending addresses (R297). -/
def wordBytes (w : BitVec 96) : List Byte := Machine.bytesOfNat 12 w.toNat

/-- The word that 12 bytes at ascending addresses hold (R297). -/
def bytesWord (l : List Byte) : BitVec 96 := BitVec.ofNat 96 (Machine.natOfBytes l)

/-- The decoder on a word numbered as the opcode table numbers bits: the low `nbits` bits of `w`, zeros above. -/
def decodeTableWord (nbits w : Nat) : Option Instr :=
  match decodeAny (bytesWord (wordBytes (BitVec.ofNat 96 (w % 2 ^ nbits)))) with
  | .ok i => some i
  | .error _ => none

end Sys2Proof
end

