-- ==== Sys2Proof/Machine/CtlOps.lean ====
section
/-! DEFINITION. Control instructions (R307, R308, R360-R365). -/

namespace Sys2Proof.Machine

/-! ## Branches (R361, R362) -/

/-- IMM26 times 4, sign-extended. -/
def ctlOffset (f : CtlF) : DWord := (f.imm.signExtend 64) * 4#64

/-- The target of a lane: from the instruction's own address, or from SA. -/
def branchTarget (pcRel : Bool) (f : CtlF) (x : Rd) (l : Nat) : DWord :=
  (if pcRel then x.p.pc else BitVec.ofNat 64 (opnd64 x f.h.sa l)) + ctlOffset f

/-- Lanes whose target is not a multiple of 4. -/
def badTargets (e : Mask) (t : Nat → DWord) : Mask := maskOf (fun l => e.getLsbD l && (t l).toNat % 4 != 0)

/-- The next PCs of a branch's threads: lanes of E go to their target, the rest of the path past the branch. -/
def branchGroups (p : Path) (e : Mask) (t : Nat → DWord) : List (DWord × Mask) :=
  (p.pc + 12, p.mask &&& ~~~e) :: (maskLanes e).map (fun l => (t l, laneBit l))

/-- The executing path takes the next PCs of a branch: it moves, or it splits (R207). One lane never splits. -/
def goTo (w : Wave) (p : Path) (e : Mask) (t : Nat → DWord) : Wave :=
  if oneLane w then movePath w (if e = 0 then p.pc + 12 else t 0)
  else match branchGroups p e t |> pathGroups with
    | [g] => movePath w g.1
    | gs => splitPath w w.cur gs

/-- A branch; `link` is the source list of a call, which writes the return address (R361). -/
def branch (i : Instr) (pcRel : Bool) (link : Option (List Src)) (f : CtlF) (s : State) : Out :=
  gate i s (fun id w p =>
    let x : Rd := ⟨s, w, p⟩
    let e := workMask x f.h.g
    let t := branchTarget pcRel f x
    let bad := badTargets e t
    if bad ≠ 0 then .next (trapNow s cIllegalOpnd 4 (entryMask w p f.h.g) bad 0)
    else
      let w1 := countRetired w (retireCount p)
      let w2 := match link with
        | none => w1
        | some srcs => writeDst w1 f.h.dst 2 (resultShape x f.h.g .plain [] srcs) e (fun _ => (p.pc + 12).toNat)
      .next (setWave s id (goTo w2 p e t)))

def execBra (f : CtlF) (s : State) : Out := branch (.bra f) true none f s
def execBraAbs (f : CtlF) (s : State) : Out := branch (.braAbs f) false none f s
def execBrx (f : CtlF) (s : State) : Out := branch (.brx f) false none f s
def execCall (f : CtlF) (s : State) : Out := branch (.call f) true (some []) f s
def execCallAbs (f : CtlF) (s : State) : Out := branch (.callAbs f) false (some [⟨f.h.sa, 2⟩]) f s
def execCallx (f : CtlF) (s : State) : Out := branch (.callx f) false (some [⟨f.h.sa, 2⟩]) f s
def execRet (f : CtlF) (s : State) : Out := branch (.ret f) false none f s

/-! ## Other control -/

/-- The mask of `wsync`: SA, or IMM26 sign-extended, without threads that have ended (R363). -/
def wsyncMask (f : CtlF) (x : Rd) : Mask :=
  let m : Mask := match f.h.sa with
    | .imm => f.imm.signExtend 32
    | o => BitVec.ofNat 32 (opnd32 x o 0)
  m &&& maskAct x.w

/-- A path waits at `wsync`: at the `pfx` of a pair, so that the paths that arrive there merge with it (R208, R211). -/
def wsyncWait (w : Wave) (p : Path) (m : Mask) : Wave :=
  fillSlots (mergeAt (setSlot w w.cur (some { p with pc := pathPc p, fed := none, cut := none, st := .wsync m })) w.cur)

def execWsync (f : CtlF) (s : State) : Out :=
  gate (.wsync f) s (fun id w p =>
    let m := wsyncMask f ⟨s, w, p⟩
    let out := p.mask &&& ~~~m
    if out ≠ 0 then .next (trapNow s cIllegalOpnd 4 (entryMask w p f.h.g) out 0)
    else if m &&& ~~~p.mask = 0 then .next (retire s id w)
    else .next (setWave s id (wsyncWait w p m)))

/-- `yield` retires (R198, R364). -/
def execYld (f : CtlF) (s : State) : Out := retireOnly (.yld f) s

/-- The threads of E end (R212, R364). -/
def exitLanes (s : State) (id : Nat) (w : Wave) (p : Path) (e : Mask) : State :=
  let w1 := countRetired w (retireCount p)
  if p.mask &&& ~~~e = 0 then
    let w2 := dropPath w1 w1.cur
    if waveEnded w2 then endWave (setWave s id w2) id else setWave s id w2
  else
    setWave s id (movePath (wsyncRelease (setSlot w1 w1.cur (some { p with mask := p.mask &&& ~~~e }))) (p.pc + 12))

def execExit (f : CtlF) (s : State) : Out :=
  gate (.exit f) s (fun id w p =>
    let e := workMask ⟨s, w, p⟩ f.h.g
    if e = 0 then .next (retire s id w) else .next (exitLanes s id w p e))

/-- The software trap, SUB n (R364). -/
def execTrap (f : CtlF) (s : State) : Out :=
  gate (.trap f) s (fun id w p =>
    let e := workMask ⟨s, w, p⟩ f.h.g
    if e = 0 then .next (retire s id w) else .next (trapNow s cSoftTrap (f.imm.toNat % 256) e e 0))

def execBrkpt (f : CtlF) (s : State) : Out :=
  gate (.brkpt f) s (fun id w p =>
    let e := workMask ⟨s, w, p⟩ f.h.g
    if e = 0 then .next (retire s id w) else .next (trapNow s cBreakpoint 0 e e 0))

/-- `beat` with a nonempty E is a progress event (R180, R364). -/
def execBeat (f : CtlF) (s : State) : Out :=
  gate (.beat f) s (fun id w p =>
    let e := workMask ⟨s, w, p⟩ f.h.g
    let s1 := retire s id w
    .next (if e = 0 then s1 else progress s1 w.taskId))

/-- A word that is no instruction traps (R315). A second `pfx` lets the first retire alone (R308). -/
def decodeTrap (s : State) (b : Bad) : State :=
  let w := getWave s s.cur
  match curPath w with
  | none => s
  | some p =>
    match b with
    | .ins 3 =>
      let w1 := setCurPath (countRetired w 1) (some { p with fed := none })
      trapNow (setWave s s.cur w1) cIllegalInsn 3 p.mask p.mask 0
    | .ins k => trapNow s cIllegalInsn k p.mask p.mask 0
    | .opd k => trapNow s cIllegalOpnd k p.mask p.mask 0

/-- `pfx` feeds the instruction that starts 12 bytes after it; the PC between them merges with no other (R307,
R308). -/
def execPfx (imm : DWord) (s : State) : Out :=
  gate (.pfx imm) s (fun id w p =>
    if p.fed.isSome then .next (decodeTrap s (.ins 3))
    else .next (setWave s id (setCurPath w (some { p with pc := p.pc + 12, fed := some imm, st := .live }))))

end Sys2Proof.Machine
end

