-- ==== Sys2Proof/Machine/Time.lean ====
section
/-! DEFINITION. The passage of time: package time and its copies, core cycles, watchdog and pre-emption counts, and what
debug-hold stops (R22-R25, R53, R59, R115, R180, R182, R390, R438). -/

namespace Sys2Proof.Machine

/-- The package-time source has started (R36). -/
def timeStarted (s : State) : Bool :=
  match s.mods.boot with
  | .timeStarted | .nearWiped | .farWiped | .ready => true
  | _ => false

/-- The corrections of a copy in `dt` ns: at most one in each 16 ns, and none that would step it backward (R25). -/
def slewSteps (n : NodeSt) (dt : Nat) : Nat := min dt (min n.slew.natAbs ((n.slewAt + dt) / 16))

/-- A die's copy of package time after `dt` ns (R24, R25). -/
def slewNode (n : NodeSt) (dt : Nat) : NodeSt :=
  let k := slewSteps n dt
  let left := n.slew.natAbs - k
  let t := n.slewAt + dt - 16 * k
  { n with ptime := if n.slew < 0 then n.ptime + dt - k else n.ptime + dt + k,
           slew := if n.slew < 0 then -(left : Int) else (left : Int),
           slewAt := if left = 0 then min 16 t else t }

/-- Fortieths of a cycle that a node's core clock makes in a nanosecond (R20, R22): none during a relock. -/
def clockRate (n : Nat) (x : NodeSt) : Nat := if isHub n then 60 else if isCdie n ∧ !x.busy then x.cur else 0

/-- `ccyc` after `dt` ns (R23). -/
def countCycles (n : Nat) (x : NodeSt) (dt : Nat) : NodeSt :=
  let t := x.ccycFrac + dt * clockRate n x
  { x with ccyc := (x.ccyc + t / 40) % 2 ^ 64, ccycFrac := t % 40 }

def passNode (started : Bool) (dt n : Nat) (x : NodeSt) : NodeSt :=
  countCycles n (if started then slewNode x dt else x) dt

/-- The nodes after `dt` ns. -/
def passNodes (s : State) (dt : Nat) : Tab NodeSt :=
  allNodes.filterMap (fun n =>
    let x := passNode (timeStarted s) dt n (getNode s n)
    if x = {} then none else some (n, x))

/-- Whether a wave is idle for the watchdog: blocked in qpop, or in mwait with its monitor live (R180). -/
def watchIdle (w : Wave) : Bool :=
  waveBlocked w && (wavePaths w).all (fun p => match p.st with
    | .blocked (.qpop _ _) => true
    | .blocked (.mwait _ _) => (match w.mon with
      | some m => m.fired.isNone
      | none => false)
    | _ => false)

/-- Whether a task's watchdog counts (R180). -/
def watchCounts (s : State) (t : Task) : Bool :=
  t.st == .running && !(getNode s t.die).dbgHold &&
    (match t.wg.bind (getWg s) with
     | none => false
     | some g => (match g.st with
        | .resident => !(unended s g).any (fun x => match x.2.run with
            | .stopped _ => true
            | _ => false)
        | .halting _ _ _ => true
        | _ => false)
      && !(persistent t && (unended s g).all (fun x => watchIdle x.2)))

/-- A deadline in package time stands still under debug-hold (R390, R438). -/
def shiftBlock (dt : Nat) (b : Block) : Block :=
  match b with
  | .mwait f (some d) => .mwait f (some (d + dt))
  | .csleep f (some d) => .csleep f (some (d + dt))
  | b => b

def shiftPath (dt : Nat) (p : Path) : Path :=
  match p.st with
  | .blocked b => { p with st := .blocked (shiftBlock dt b) }
  | _ => p

def shiftWave (dt : Nat) (w : Wave) : Wave :=
  { w with slot0 := w.slot0.map (shiftPath dt), slot1 := w.slot1.map (shiftPath dt) }

/-- What debug-hold moves forward: deadlines, response timers, and the ends of leases (R53, R115). -/
def holdShift (s : State) (dt : Nat) : State :=
  let on := fun (n : Nat) => (getNode s n).dbgHold
  if !(homeNodes.any on) then s
  else
    let part := fun (n : Nat) (p : LeasePart) => if on n then { p with e := p.e + dt } else p
    { s with
      waves := Tab.mapVals (fun _ w => if on w.node then shiftWave dt w else w) s.waves
      net := { s.net with outst := s.net.outst.map (fun o =>
                 if on o.pkt.src then { o with since := o.since + dt } else o) }
      grants := s.grants.map (fun g => if on g.node then { g with e := g.e + dt } else g)
      tasks := Tab.mapVals (fun _ t => { t with parts := t.parts.map (part t.die) }) s.tasks
      ctxs := Tab.mapVals (fun _ c => { c with leases := Tab.mapVals (fun _ x =>
                { x with parts := x.parts.map (part (roleHub s)) }) c.leases }) s.ctxs }

/-- `dt` nanoseconds of package time pass. -/
def advance (s : State) (dt : Nat) : State :=
  if dt = 0 then s
  else
    let s1 := holdShift s dt
    { s1 with
      time := s1.time + dt
      nodes := passNodes s1 dt
      tasks := Tab.mapVals (fun _ t =>
        if watchCounts s1 t then
          { t with cycles := t.cycles + ((getNode s1 t.die).ccycFrac + dt * clockRate t.die (getNode s1 t.die)) / 40 }
        else t) s1.tasks
      preempts := s1.preempts.map (fun p =>
        if (getNode s1 (roleHub s1)).dbgHold then p else { p with count := p.count + dt }) }

end Sys2Proof.Machine
end

