-- ==== Sys2Proof/Machine/Fetch.lean ====
section
/-! DEFINITION. Instruction fetch and the turn of a wave up to the instruction that it executes (R198, R201, R205,
R209, R210, R223, R264). -/

namespace Sys2Proof.Machine

/-! ## Fetching bytes (R113, R205) -/

/-- What a fetch answers: it waits, it fails, or it gives data. -/
inductive Fetched (α : Type) where
  | wait
  | fail (e : AccErr)
  | got (x : α)
  deriving DecidableEq, Repr

/-- The line as memory's agents now hold it: the home's data under the owner's newer bytes, which stay where they
are. -/
def lineSnapshot (s : State) (h k : Nat) (p : Phys) : Line :=
  let g := maskOf (fun w => wordSt s k w == .g)
  match wordOwner s h (lineAsid k) (lineNo k) with
  | some a => ownerLine s a k g (homeData s h k p)
  | none => homeData s h k p

/-- A line of instructions from its home, which keeps it in its LLC as for any read. -/
def fetchHome (s : State) (id h k : Nat) (need : Mask) : State × Fetched (BitVec 1024) :=
  let w := getWave s id
  let req : Req := { agent := waveAgent s w, wave := id, id := 0, sup := w.sup,
                     grant := if w.general then none else carriedGrant s w.asid w.taskId .exec (lineNo k * 128) }
  let a := homeAccess s h req (lineAsid k) (lineNo k) .exec
  match a.2 with
  | .error e => (a.1, .fail e)
  | .ok p0 =>
    let p := readCopy p0 h w.node
    let z := maskOf (fun i => wordSt a.1 k i == .z)
    if need &&& z ≠ 0 then ((zError a.1 k need).1, .fail (zError a.1 k need).2)
    else
      let l := lineSnapshot a.1 h k p
      let t := if p.uc ∨ p.repl ≠ 0 then a.1
        else (homeRead a.1 h k p (maskOf (fun i => wordSt a.1 k i == .i))).1
      if p.uc ∨ z ≠ 0 then (t, .got l.data)
      else
        let t1 := if h = w.node then t
          else { t with llc := setLine t.llc w.node k (let o := getLine t.llc w.node k
                                                      { lineOver o l (l.valid &&& ~~~o.dirty) false with dirty := o.dirty }) }
        ({ t1 with icache := Tab.put t1.icache (cacheKey (l1Of w.node w.unit) k) l.data }, .got l.data)

/-- A line of instructions: from the instruction cache, the die's LLC, or the home (R205). -/
def fetchLine (s : State) (id k : Nat) (need : Mask) : State × Fetched (BitVec 1024) :=
  let w := getWave s id
  match Tab.find s.icache (cacheKey (l1Of w.node w.unit) k) with
  | some d => (s, .got d)
  | none =>
    match homeAt s w.node (lineAsid k) (lineNo k * 128) with
    | none => (s, .fail eLeaseLost)
    | some h =>
      let c := getLine s.llc w.node k
      if h ≠ w.node ∧ c.valid = BitVec.allOnes 128 then
        ({ s with icache := Tab.put s.icache (cacheKey (l1Of w.node w.unit) k) c.data }, .got c.data)
      else if nodeLost s h then (s, .fail eDieLost)
      else if homeHolds s w.node h k then (s, .wait)
      else fetchHome s id h k need

/-- The parts of 12 bytes at an address, by line. -/
def fetchParts (s : State) (id : Nat) : List (Nat × BitVec 128) → State × Fetched (Tab Line)
  | [] => (s, .got [])
  | (k, m) :: t =>
    match fetchLine s id k (wordMask m) with
    | (u, .wait) => (u, .wait)
    | (u, .fail e) => (u, .fail e)
    | (u, .got d) =>
      match fetchParts u id t with
      | (v, .got l) => (v, .got (Tab.put l k { valid := BitVec.allOnes 128, data := d }))
      | r => r

/-- The word at an address. -/
def fetchWord (s : State) (id : Nat) (pc : DWord) : State × Fetched (BitVec 96) :=
  let w := getWave s id
  match fetchParts s id (accParts w.asid pc 12) with
  | (t, .wait) => (t, .wait)
  | (t, .fail e) => (t, .fail e)
  | (t, .got l) => (t, .got (BitVec.ofNat 96 (lineValue w.asid l pc 12)))

/-- The EXEC check of a fetch, over its 12 bytes: by leases, or on a general core by pages (R113, R118). -/
def fetchCheck (s : State) (id : Nat) (p : Path) : State × Chk :=
  let w := getWave s id
  if w.general then threadCheck s id p p.mask .exec (pageEnds p.pc 12)
  else match leaseCheck s w.asid w.taskId .exec p.pc 12 with
    | none => (s, .ok)
    | some x => (s, .trap (preciseTrap w p x.1 (if x.1 = cLeaseViolation then kindCode .exec else 0) p.mask p.mask x.2))

/-! ## The turn of a wave -/

/-- The core of a wave issues: its node is up and not halted, its core clock runs, and the core is neither in
retention nor sweeping its parity (R22, R61, R221, R222). -/
def coreRuns (s : State) (w : Wave) : Bool :=
  let n := getNode s w.node
  let c := getCore s (waveCore w)
  !n.halt && !nodeLost s w.node && !n.busy && !c.retention && decide (c.sweepEnd ≤ s.time) && !s.mods.disconnected

/-- A halted sibling stops within 64 core cycles of the arrival, and retires no more than the 64 entries that its reorder
buffer can hold (R186, R264). -/
def skidOver (s : State) (w : Wave) : Bool :=
  match w.run with
  | .halting t k => decide (64 * 40 ≤ (s.time - t) * (getNode s w.node).cur) || decide (64 ≤ k)
  | .run => false
  | _ => true

/-- Whether a wave may take a turn. -/
def waveRuns (s : State) (id : Nat) : Bool :=
  let w := getWave s id
  waveExists s id && coreRuns s w && !skidOver s w && w.arrive.isNone
    && (w.ship == 0 || decide (w.ship < nodeTime s w.node))
    && (match w.wg.bind (getWg s) with
        | none => true
        | some g => (match g.st with
          | .resident | .halting _ _ _ => true
          | _ => false))

/-- The join hint, HNT[3] (R210, R317). -/
def joinHint (i : Instr) : Bool :=
  match rawOf i with
  | some r => r.hnt.getLsbD 3
  | none => false

/-- The slot whose turn it is: an instruction that waits at the head, a handler and a thread keep theirs. -/
def turnSlot (w : Wave) : Option Nat :=
  if w.op.id ≠ 0 then (if (curPath w).isSome then some w.cur else none)
  else if w.handler.isSome ∨ w.general then (if (curPath w).any pathRuns then some w.cur else none)
  else nextSlot w

/-- The path of a wave fetches and decodes: the instruction to execute, if one came. -/
def fetchDecode (s : State) (id : Nat) : State × Option Instr :=
  match curPath (getWave s id) with
  | none => (s, none)
  | some p =>
    match fetchCheck s id p with
    | (t, .wait) => (t, none)
    | (t, .trap x) => (takeTrap t id x, none)
    | (t, .ok) =>
      match fetchWord t id p.pc with
      | (u, .wait) => (u, none)
      | (u, .fail e) => (trapNow u e.cause e.sub p.mask p.mask p.pc, none)
      | (u, .got word) =>
        match decode (decCtx (getWave u id) p.fed.isSome) word with
        | .error b => (decodeTrap u b, none)
        | .ok i => (u, some i)

/-- The slot `i` fetches: the instruction, and the wave whose path waits at a join instead (R210). -/
def slotFetch (s : State) (id i : Nat) : State × Option (Instr × Option Wave) :=
  let w := getWave s id
  let r := fetchDecode (setWave s id { w with cur := i }) id
  (r.1, r.2.map (fun ins =>
    let w1 := getWave r.1 id
    (ins, if w.op.id == 0 && joinHint ins && !oneLane w1 then joinWait w1 i else none)))

/-- What a fetch gives is executed; a path that waits at a join has its turn counted. -/
def fetchedTurn (fresh : Bool) (id : Nat) (r : State × Option (Instr × Option Wave)) : State × Option Instr :=
  match r.2 with
  | none => (r.1, none)
  | some (_, some w) => (setWave r.1 id (countTurn w), none)
  | some (i, none) => (if fresh then setWave r.1 id (countTurn (getWave r.1 id)) else r.1, some i)

/-- The fetch turn of the slot `i` (R198, R206, R210): a path that begins to wait in its slot at a join gives the turn to the
other slot. -/
def slotTurn (s : State) (id i : Nat) : State × Option Instr :=
  let fresh := (getWave s id).op.id == 0
  let r := slotFetch s id i
  match r.2 with
  | some (_, some w) =>
    if joinHeld w i && slotReady w (1 - i) then fetchedTurn fresh id (slotFetch (setWave r.1 id w) id (1 - i))
    else fetchedTurn fresh id r
  | _ => fetchedTurn fresh id r

/-- The turn of a wave: a deferred trap, a promotion, or a fetch turn, which may give an instruction. -/
def waveTurn (s0 : State) (id : Nat) : State × Option Instr :=
  if !waveRuns s0 id then (s0, none)
  else
    let w := getWave s0 id
    let s : State := modCore { s0 with cur := id } (waveCore w) (fun c => { c with idleSince := s0.time })
    if deferredDue w then (takeDeferred s id, none)
    else if w.op.id = 0 ∧ w.handler.isNone ∧ promotionDue w then (setWave s id (promotePath w), none)
    else match turnSlot w with
      | none => (s0, none)
      | some i => slotTurn s id i

/-! ## Events of paths -/

/-- DEFERRED_TRAP_TAKEN (R201). -/
def execDeferredTrapTaken (w : Nat) (s : State) : Out :=
  if waveRuns s w ∧ deferredDue (getWave s w) then .next (takeDeferred { s with cur := w } w) else .next s

/-- PATH_PROMOTION (R209). -/
def execPathPromotion (w : Nat) (s : State) : Out :=
  if waveRuns s w ∧ (getWave s w).op.id = 0 ∧ (getWave s w).handler.isNone ∧ promotionDue (getWave s w) then
    .next (setWave s w (promotePath (getWave s w)))
  else .next s

/-- JOIN_TIMEOUT: a path that has waited 256 fetch turns at a join has the next turn, and fetches (R210). -/
def execJoinTimeout (w slot : Nat) (s : State) : Out :=
  match getSlot (getWave s w) slot with
  | some p => match p.st with
    | .join n => if 256 ≤ n ∧ (getWave s w).op.id = 0 ∧ waveExists s w ∧ slot < 2 then
        .next (modWave s w (fun x => { x with cur := 1 - slot })) else .next s
    | _ => .next s
  | none => .next s

end Sys2Proof.Machine
end

