-- ==== Sys2Proof/Machine/Sync.lean ====
section
/-! DEFINITION. Fences, self-invalidation, drains, tokens, monitors and barriers (R234, R243-R250, R381-R395). -/

namespace Sys2Proof.Machine

/-! ## Fences, self-invalidation, drains (R234, R381-R384) -/

/-- An acquire fence still waits for the drains of its overflowed kept entries (R234). -/
def keptWaits (s : State) (w : Wave) : Bool := w.keptTag.any (fun t => armsTag s (waveCore w) t)

/-- The acquire part of a fence: the kept entries are drained over the region set, then discarded. -/
def fenceAcquire (s : State) (id : Nat) (sc : Scope) (set : Nat) : State :=
  let w := getWave s id
  let r := waveRanges s w set
  let s1 := acquireDrains (acquireStart (opWait s id) id r) id w.node w.kept r 0
  let s2 := acquireEffects s1 id sc set (getWave s1 id).op.relEnts
  modWave s2 id (fun x => { x with kept := [], keptTag := [] })

def execFence (f : MemF) (s : State) : Out :=
  gate (.fence f) s (fun id w p =>
    if workMask ⟨s, w, p⟩ f.h.g = 0 then .next (retire s id w)
    else if (ordReleases f.ord && releaseWaits s id f.scope) || (ordAcquires f.ord && keptWaits s w) then .next (opWait s id)
    else
      let s1 := if ordReleases f.ord then releaseMade s id f.scope else s
      let s2 := modWave s1 id (fun x => { x with relFence := if ordReleases f.ord then some f.scope else none })
      let s3 := if ordAcquires f.ord then fenceAcquire s2 id f.scope f.rset.toNat else s2
      .next (retire s3 id (getWave s3 id)))

def execSinv (f : MemF) (s : State) : Out :=
  gate (.sinv f) s (fun id w p =>
    if workMask ⟨s, w, p⟩ f.h.g = 0 then .next (retire s id w)
    else
      let s1 := selfInvalidate s w.node w.unit w.asid f.scope (rsetRanges s w.asid f.rset.toNat)
      .next (retire s1 id (getWave s1 id)))

/-- The ranges of a `drain`. At `die` scope it clears no entry at a point of record, so `rset0` is taken there as a range
of every address. -/
def drainRanges (s : State) (w : Wave) (f : MemF) : Option (List Range) :=
  if f.scope = .die ∧ f.rset = 0 then some [{ lo := 0, hi := 2 ^ 54 }] else rsetRanges s w.asid f.rset.toNat

/-- What a `drain` sent is not yet acknowledged: its DMARKs, write-backs and RELINQs. -/
def drainBusy (s : State) (w : Wave) (tag : Nat) : Bool :=
  let a := waveAgent s w
  s.drains.any (fun d => d.agent == a && d.tag == tag)
    || inFlight s (fun m => match m with
      | .relinq o _ _ _ _ => o / 128 == a / 128
      | _ => false)

/-- `drain`: the core is a releaser that has received DRAIN over the region set. -/
def execDrainInsn (f : MemF) (s : State) : Out :=
  gate (.drainInsn f) s (fun id w p =>
    if workMask ⟨s, w, p⟩ f.h.g = 0 then .next (retire s id w)
    else if w.op.drains ≠ 0 then
      (if drainBusy s w w.op.drains then .next s else .next (retire s id w))
    else
      let r := freshReq (opWait s id)
      let s1 := modOp r.1 id (fun o => { o with drains := r.2 })
      let a := waveAgent s1 w
      .next (startDrain s1 a (decide (3 ≤ scopeRank f.scope)) w.asid (drainRanges s w f) a r.2))

/-! ## Tokens (R90, R91, R385-R388) -/

/-- The single address of an instruction whose address is uniform. -/
def oneAddr (f : MemF) (x : Rd) : DWord := globalAddr f x ((lowestLane (workMask x f.h.g)).getD 0)

/-- What `racq`, `rrel` and `rtst` find at the home of their address: the error, or the home and the token. -/
def tokenAt (s : State) (w : Wave) (va : DWord) : Except AccErr (Nat × Token) :=
  let v := va54 va
  let asid := asidOf w.asid va
  match homeAt s w.node asid v with
  | none => .error eToken
  | some h =>
    if nodeLost s h then .error eDieLost
    else match findToken s h asid v 1 with
      | none => .error eToken
      | some t => .ok (h, t)

/-- The home of a token does not answer now. -/
def tokenHolds (s : State) (w : Wave) (h : Nat) (va : DWord) : Bool :=
  homeHolds s w.node h (lineKey (asidOf w.asid va) (va54 va / 128))

/-- A path blocks (R198). -/
def blockPath (s : State) (id : Nat) (b : Block) : State :=
  match curPath (getWave s id) with
  | none => s
  | some p =>
    let w := setCurPath { getWave s id with op := {} } (some { p with st := .blocked b })
    setWave s id { w with blockedAt := if waveBlocked w then some s.time else none }

/-- The instruction traps for every lane of E with an error found at a home. -/
def errTrap (s : State) (id : Nat) (p : Path) (g : Guard) (e : AccErr) (va : DWord) : State :=
  let w := getWave s id
  let x : Rd := ⟨s, w, p⟩
  takeTrap s id (preciseTrap w p e.cause e.sub (entryMask w p g) (workMask x g) va)

/-- `racq` on a token that its core does not hold: TOK_ACQ goes to the home, and the path blocks. -/
def askToken (s : State) (id h : Nat) (va : DWord) : State :=
  let w := getWave s id
  let asid := asidOf w.asid va
  let r := freshReq s
  let req : Req := { agent := waveAgent s w, wave := id, id := r.2, sup := w.sup }
  blockPath (sendReq r.1 w.node h .syn asid (va54 va) r.2 (.tokAcq req asid (va54 va))) id (.racq r.2 none)

/-- The core holds the token: it self-invalidates the region at `pkg` scope, and carries the releasers of the last hand-over,
whose drain covered the region alone (R82, R90). -/
def holdToken (s : State) (id : Nat) (t : Token) : State :=
  let w := getWave s id
  let s1 := selfInvalidate s w.node w.unit w.asid .pkg (some [{ lo := t.base, hi := t.base + t.size }])
  let s2 := carryUpdate s1 (waveCore w) w.node w.unit w.asid false t.ents
  retire s2 id (getWave s2 id)

def execRacq (f : MemF) (s : State) : Out :=
  gate (.racq f) s (fun id w p =>
    let x : Rd := ⟨s, w, p⟩
    let va := oneAddr f x
    if workMask x f.h.g = 0 then .next (retireEmpty (.racq f) s id w)
    else match p.st with
      | .blocked (.racq _ (some e)) =>
        .next (errTrap (setWave s id (setCurPath w (some { p with st := .live }))) id { p with st := .live } f.h.g e va)
      | _ => match tokenAt s w va with
        | .error e => .next (errTrap s id p f.h.g e va)
        | .ok (h, t) =>
          if tokenHolds s w h va then .next s
          else if t.holder = some (waveAgent s w) ∧ !tokenLeaving s t then .next (holdToken s id t)
          else .next (askToken s id h va))

/-- A recipient that `rrel` refuses (R386). -/
def badRecipient (s : State) (t : Nat) : Bool :=
  decide (2 ^ 19 ≤ t) || !agentValid t || isDieAgent t || agentMod t != s.mods.podId

/-- The releasing core gives the token up: TOK_REL, and from now on it is not the holder's to use (R90). -/
def giveToken (s : State) (id h : Nat) (t : Token) (dest : Option Nat) : State :=
  let w := getWave s id
  let a := waveAgent s w
  let s1 := sendHome (releaseMade s id .pkg) w.node h .syn t.asid t.base
    (.tokRel a t.asid t.base dest (releaseEntries s w.node w.unit .pkg))
  retire s1 id (getWave s1 id)

def execRrel (f : MemF) (s : State) : Out :=
  gate (.rrel f) s (fun id w p =>
    let x : Rd := ⟨s, w, p⟩
    let va := oneAddr f x
    let dest := if f.h.sb = .null then none else some (dataOpnd f 4 f.h.sb x 0)
    if workMask x f.h.g = 0 then .next (retireEmpty (.rrel f) s id w)
    else if dest.any (badRecipient s) then .next (trapNow s cIllegalOpnd 4 (entryMask w p f.h.g) (workMask x f.h.g) 0)
    else match tokenAt s w va with
      | .error e => .next (errTrap s id p f.h.g e va)
      | .ok (h, t) =>
        if tokenHolds s w h va then .next s
        else if t.holder ≠ some (waveAgent s w) ∨ tokenLeaving s t then .next (errTrap s id p f.h.g eToken va)
        else if releaseWaits s id .pkg then .next (opWait s id)
        else .next (giveToken s id h t dest))

/-- The word that `rtst` reads (R388). -/
def tokenWord (a : Nat) (t : Token) : Nat :=
  (match t.holder with
   | none => 0
   | some h => (if h = a then 1 else 2) * 2 ^ 30 + h % 2 ^ 19) + t.waiters.length * 2 ^ 19

def execRtst (f : MemF) (s : State) : Out :=
  gate (.rtst f) s (fun id w p =>
    let x : Rd := ⟨s, w, p⟩
    let va := oneAddr f x
    if workMask x f.h.g = 0 then .next (retireEmpty (.rtst f) s id w)
    else match tokenAt s w va with
      | .error e => .next (errTrap s id p f.h.g e va)
      | .ok (h, t) =>
        if tokenHolds s w h va then .next s
        else
          let v := tokenWord (waveAgent s w) t
          let sh := resultShape x f.h.g .plain [] [addrSrc f false]
          .next (retire s id (writeDst w f.h.dst 1 sh (workMask x f.h.g) (fun _ => v))))

/-! ## Monitors (R248-R250, R389, R390) -/

/-- The wave's monitor goes, with its watch. -/
def disarm (s : State) (id : Nat) : State :=
  modWave { s with watches := s.watches.filter (fun x => x.wave != id) } id (fun w => { w with mon := none })

/-- A home's watch table holds 4,096 watches; the oldest makes room and fires (R248, R249). -/
def addWatch (s : State) (x : Watch) : State :=
  let mine := s.watches.filter (fun y => y.node == x.node)
  match mine with
  | o :: _ =>
    if 4096 ≤ mine.length then
      let t := fireMon { s with watches := s.watches.filter (fun y => y != o) } o.wave 1
      { t with watches := t.watches ++ [x] }
    else { s with watches := s.watches ++ [x] }
  | [] => { s with watches := s.watches ++ [x] }

/-- The word of a global `mon` at its home: it waits, fails, or is read (R248). -/
def monRead (s : State) (id : Nat) (n : Nat) (va : DWord) : State × LaneRes :=
  let w := getWave s id
  let v := va54 va
  let asid := asidOf w.asid va
  let k := lineKey asid (v / 128)
  let m := wordMask (lineOfBytes (v % 128) (List.replicate n 0)).valid
  match homeAt s w.node asid v with
  | none => (s, .err eLeaseLost)
  | some h =>
    if nodeLost s h then (s, .err eDieLost)
    else if homeHolds s w.node h k ∨ pendsOrd w k ∨ uncachedBusy s w h k m then (s, .wait)
    else if !tokenAllows s h asid v n (waveAgent s w) then (s, .err eToken)
    else
      let req : Req := { agent := waveAgent s w, wave := id, id := w.op.id, sup := w.sup,
                         grant := if w.general then none else carriedGrant s w.asid w.taskId .read v }
      let a := homeAccess s h req asid (v / 128) .read
      match a.2 with
      | .error e => (a.1, .err e)
      | .ok p =>
        if (maskLanes m).any (fun i => wordSt a.1 k i == WordSt.z) then
          ((zError a.1 k m).1, .err (zError a.1 k m).2)
        else
          let away := awayWords a.1 w h k m
          if away ≠ 0 then (recallAway a.1 h k away, .wait)
          else
            let r := homeRead (recallWords (flushOwn a.1 w h k p m) h k p m) h k (readCopy p h w.node) m
            let s1 := keepEntries r.1 id (lineEntries r.1 h k m)
            let s2 := addWatch { s1 with watches := s1.watches.filter (fun x => x.wave != id) }
              { node := h, asid := asid, addr := v, size := n, wave := id }
            (s2, .done (natOfBytes ((List.range n).map (fun i => lineByte r.2 (v % 128 + i)))))

/-- `mon` arms the monitor and returns the word. -/
def monDone (s : State) (id : Nat) (p : Path) (f : MemF) (mon : Monitor) (v : Nat) : State :=
  let w := { getWave s id with mon := some mon }
  let x : Rd := ⟨s, w, p⟩
  let sh := resultShape x f.h.g .plain [] [addrSrc f mon.scr]
  retire s id (writeDst w f.h.dst (sizeWords (sizeBytes f.size)) sh (workMask x f.h.g) (fun _ => v))

def monGlobal (io : CtrlIo) (f : MemF) (s : State) : Out :=
  let n := sizeBytes f.size
  memGate (.mon f) s f.h .read true n (globalAddr f) (fun t id w p ls =>
    match ls.head? with
    | none => retire t id w
    | some y => match ctrlTarget t w y.2 with
      | some pa =>
        let r := io.read t pa n
        monDone r.1 id p f { scr := false, addr := y.2, size := n } r.2
      | none =>
        let r := monRead (opWait t id) id n y.2
        match r.2 with
        | .wait => r.1
        | .err e => errTrap r.1 id p f.h.g e y.2
        | .done v => monDone r.1 id p f { scr := false, addr := y.2, size := n } v)

def monScratch (f : MemF) (s : State) : Out :=
  let n := sizeBytes f.size
  scrGate (.mon f) s f false true (fun _ _ => n) (fun t id w p ls =>
    match ls.head? with
    | none => retire t id w
    | some y =>
      match scrRetireTrap t w p (entryMask w p f.h.g) true false (fun _ => n) ls with
      | some tr => takeTrap t id tr
      | none =>
        monDone { t with watches := t.watches.filter (fun x => x.wave != id) } id p f
          { scr := true, addr := BitVec.ofNat 64 y.2, size := n }
          (scrRead t (waveCore w) ((scrAlloc t w).1 + y.2) n))

def monOp (io : CtrlIo) (f : MemF) (s : State) : Out :=
  match f.space with
  | .scr => monScratch f s
  | _ => monGlobal io f s

/-- `mwait` returns with a code and disarms the monitor (R390). -/
def mwaitReturn (s : State) (id : Nat) (p : Path) (f : MemF) (code : Nat) : State :=
  let s1 := disarm s id
  let w := getWave s1 id
  let x : Rd := ⟨s1, w, p⟩
  let sh := resultShape x f.h.g .plain [] [⟨f.h.sa, 1⟩]
  retire s1 id (writeDst w f.h.dst 1 sh (workMask x f.h.g) (fun _ => code))

/-- The deadline of a timeout operand; 0 means none. -/
def deadline (s : State) (w : Wave) (t : Nat) : Option Nat := if t = 0 then none else some (nodeTime s w.node + t)

def execMwait (f : MemF) (s : State) : Out :=
  gate (.mwait f) s (fun id w p =>
    let x : Rd := ⟨s, w, p⟩
    if workMask x f.h.g = 0 then .next (retireEmpty (.mwait f) s id w)
    else match w.mon with
      | none => .next (mwaitReturn s id p f 5)
      | some m => match m.fired with
        | some c => .next (mwaitReturn s id p f c)
        | none => .next (blockPath s id (.mwait f (deadline s w (dataOpnd f 4 f.h.sa x 0)))))

/-! ## Waking a blocked path -/

/-- The blocked path of a slot, the handler's in handler mode; none while an instruction waits at the head. -/
def blockedAt (s : State) (id slot : Nat) : Option (Path × Block) :=
  let w := getWave s id
  if !waveExists s id ∨ w.op.id ≠ 0 ∨ !coreRuns s w ∨ skidOver s w ∨ w.arrive.isSome ∨ !waveOnCore s w then none
  else
    let p := if w.handler.isSome then curPath w else getSlot w slot
    p.bind (fun q => match q.st with
      | .blocked b => some (q, b)
      | _ => none)

/-- The path of a slot runs on: `k` completes its instruction. -/
def wakePath (s : State) (id slot : Nat) (p : Path) (k : State → Path → State) : State :=
  let q := { p with st := .live }
  let w := getWave s id
  let w1 := if w.handler.isSome then w else { w with cur := slot }
  k { setWave s id (setCurPath { w1 with blockedAt := none } (some q)) with cur := id } q

/-- Whether a wake-up of R249 with a code is due for a wave blocked in `mwait`. A spurious one comes at most once per
4,096 core cycles. -/
def mwaitDue (s : State) (w : Wave) (dl : Option Nat) (code : Nat) : Bool :=
  match code with
  | 0 | 1 => (match w.mon with
    | some m => m.fired == some code
    | none => false)
  | 2 => (match dl with
    | some d => decide (d ≤ nodeTime s w.node)
    | none => false)
  | 3 => s.preempts.any (fun x => !x.saved && (match x.target with
    | .die d => d == w.node
    | .ctx a => a == w.asid
    | .halt _ => false))
  | 4 => (match w.spur with
    | none => true
    | some c => decide (c + 4096 ≤ (getNode s w.node).ccyc))
  | _ => w.mon.isNone && code == 5

/-- MWAIT_WAKE (R249, R390). -/
def execMwaitWake (w slot code : Nat) (s : State) : Out :=
  match blockedAt s w slot with
  | some (p, .mwait f dl) =>
    if !mwaitDue s (getWave s w) dl code then .next s
    else
      let s1 := if code = 4 then modWave s w (fun x => { x with spur := some (getNode s x.node).ccyc }) else s
      .next (wakePath s1 w slot p (fun t q => mwaitReturn t w q f code))
  | _ => .next s

/-! ## Hardware barriers (R243, R391, R392) -/

/-- A phase completes: every arrived wave may depart. -/
def barComplete (b : HwBar) : HwBar := { b with isOpen := false, arrived := 0, leaving := b.leaving ||| b.arrived }

/-- An arrival at a barrier with count `n` (0 is "all"); none when the count is not that of the open phase. -/
def barArrive (s : State) (g : Workgroup) (b : HwBar) (num n : Nat) : Option HwBar :=
  if b.isOpen ∧ b.count ≠ n then none
  else
    let b1 := { b with count := n, isOpen := true, arrived := b.arrived ||| laneBit num }
    some (if n ≠ 0 then (if (maskLanes b1.arrived).length = n then barComplete b1 else b1) else barCheck s g b1)

/-- The wave departs: an acquire at `wg` scope over the region set, and over the workgroup's scratchpad. -/
def barDepart (s : State) (id k i set : Nat) : State :=
  let w := getWave s id
  let s1 := modWg s k (fun g => { g with bars := Tab.modify {} g.bars i (fun b =>
    { b with leaving := b.leaving &&& ~~~laneBit w.num }) })
  let s2 := acquireEffects s1 id .wg set []
  retire s2 id (getWave s2 id)

/-- A barrier instruction is used by a wave whose path is not all of it (R391). -/
def notWhole (w : Wave) (p : Path) : Bool := p.mask != maskAct w

def execBar (f : MemF) (s : State) : Out :=
  gate (.bar f) s (fun id w p =>
    let x : Rd := ⟨s, w, p⟩
    let i := dataOpnd f 4 f.h.sa x 0
    let n := if f.h.sb = .null then 0 else dataOpnd f 4 f.h.sb x 0
    let bad : Out := .next (trapNow s cIllegalOpnd 4 p.mask p.mask 0)
    match w.wg.bind (fun k => (getWg s k).map (fun g => (k, g))) with
    | none => if notWhole w p ∨ 15 < i ∨ 1 < n then bad else .next (retire s id w)
    | some (k, g) =>
      if notWhole w p ∨ 15 < i ∨ 32 < n ∨ g.total < n then bad
      else if w.home.isSome then .next (trapNow s cMigrate 0 p.mask p.mask 0)
      else
        let b := Tab.get {} g.bars i
        if b.leaving.getLsbD w.num then .next (barDepart s id k i f.rset.toNat)
        else if b.isOpen ∧ b.arrived.getLsbD w.num then .next (opWait s id)
        else match barArrive s g b w.num n with
          | none => bad
          | some b1 =>
            let s1 := setWg s k { g with bars := Tab.set {} g.bars i b1 }
            if b1.leaving.getLsbD w.num then .next (barDepart s1 id k i f.rset.toNat) else .next (opWait s1 id))

/-! ## Barrier networks (R243, R391, R393) -/

def gbarLevel : Scope → Nat
  | .quad => 1 | .die => 2 | .pkg => 3 | _ => 4

/-- The instance that a participant at a scope joins: level, node and quad; 62 stands for the module task unit. -/
def gbarKey (node quad : Nat) (sc : Scope) : Nat × Nat × Nat :=
  match sc with
  | .quad => if isHub node then (2, node, 0) else (1, node, quad)
  | .die => (2, node, 0)
  | .pkg => (3, 62, 0)
  | _ => (4, 62, 0)

/-- An arrival leaves the wave: a release at the scope. -/
def gbarSend (s : State) (id i n : Nat) (sc : Scope) : State :=
  let w := getWave s id
  let s0 := opWait (releaseMade s id sc) id
  let rid := (getWave s0 id).op.id
  let ents := if scopeRank sc < 2 then [{ agent := waveAgent s w, scope := sc, die := false }]
    else releaseEntries s0 w.node w.unit sc
  let dst := if scopeRank sc ≤ 2 then w.node else roleHub s
  let m : Msg := .gbarArr w.asid i n sc id (waveAgent s w) rid ents
  let pkt : Pkt := { src := w.node, dst := dst, cls := .syn, msg := m,
                     mod := if sc = .sys ∧ s.mods.podId ≠ 0 then some 0 else none }
  let s1 := sendPkt s0 pkt 0
  let s2 : State := { s1 with net := { s1.net with outst := s1.net.outst ++
    [{ pkt := pkt, id := rid, since := nodeTime s w.node }] } }
  modOp s2 id (fun o => { o with phase := 1 })

/-- A participant departs: an acquire at the scope over the region set, from every arrival. -/
def gbarDepart (s : State) (id : Nat) (sc : Scope) (set : Nat) (es : List RelEnt) : State :=
  let w := getWave s id
  let s0 := modWave s id (fun x => { x with gdep := none })
  let s2 := if scopeRank sc < 2 then acquireEffects s0 id sc set []
    else
      let r := waveRanges s0 (getWave s0 id) set
      let sel := es.filter (fun e => e.agent != waveAgent s0 w && relSelected sc (waveAgent s0 w) e)
      let s1 := acquireDrains (acquireStart (opWait s0 id) id r) id w.node sel r 0
      acquireEffects s1 id sc set (getWave s1 id).op.relEnts
  retire s2 id (getWave s2 id)

def execGbar (f : MemF) (s : State) : Out :=
  gate (.gbar f) s (fun id w p =>
    let x : Rd := ⟨s, w, p⟩
    let i := dataOpnd f 4 f.h.sa x 0
    let n := dataOpnd f 4 f.h.sb x 0
    let bad : Out := .next (trapNow (modWave s id (fun x => { x with gdep := none })) cIllegalOpnd 4 p.mask p.mask 0)
    if notWhole w p ∨ 255 < i ∨ n = 0 ∨ 65535 < n then bad
    else if w.home.isSome then .next (trapNow s cMigrate 0 p.mask p.mask 0)
    else match w.gdep with
      | some d =>
        if d.code = 0 then .next (gbarDepart s id f.scope f.rset.toNat d.ents)
        else if d.code = 1 then bad
        else .next (errTrap (modWave s id (fun x => { x with gdep := none })) id p f.h.g
          (if d.code = 3 then eModule else eDieLost) 0)
      | none =>
        if w.op.phase = 1 then .next s
        else if releaseWaits s id f.scope then .next (opWait s id)
        else .next (gbarSend s id i n f.scope))

/-- The answer of an instance to a participant, here or on another module of the pod. -/
def gbarAnswer (s : State) (y : Nat × Nat × Nat × Nat) (d : GDep) : State :=
  let there := agentNode y.2.2.1
  sendPkt s { src := roleHub s, dst := if y.1 = s.mods.podId then there else roleHub s, cls := .syn,
              mod := if y.1 = s.mods.podId then none else some y.1, msg := .gbarDep y.2.1 y.2.2.2 d } 0

/-- An arrival at an instance: it waits for an entry, is refused, is counted, or completes the phase. A wave that comes
again after a save is counted once. The second part says whether the message is done with. -/
def gbarArrive (s : State) (m dst asid i n : Nat) (sc : Scope) (wave agent id : Nat) (ents : List RelEnt) : State × Bool :=
  let key := gbarKey dst (agentUnit agent / 4) sc
  let hit := fun (b : GBar) => (b.level, b.node, b.quad) == key && b.asid == asid && b.i == i
  let y := (m, wave, agent, id)
  match s.gbars.find? hit with
  | none =>
    if 64 ≤ (s.gbars.filter (fun b => (b.level, b.node, b.quad) == key)).length then (s, false)
    else if n = 1 then (gbarAnswer s y { code := 0, ents := ents }, true)
    else ({ s with gbars := s.gbars ++ [{ level := key.1, node := key.2.1, quad := key.2.2, asid := asid, i := i, n := n,
                                          arrived := [y], ents := ents }] }, true)
  | some b =>
    if b.n ≠ n then (gbarAnswer s y { code := 1 }, true)
    else if b.arrived.any (fun z => z.1 == m && z.2.1 == wave) then
      ({ s with gbars := s.gbars.map (fun c => if hit c then
          { c with arrived := c.arrived.map (fun z => if z.1 == m && z.2.1 == wave then y else z) } else c) }, true)
    else if b.arrived.length + 1 = n then
      let es := (b.ents ++ ents).eraseDups
      ((b.arrived ++ [y]).foldl (fun t z => gbarAnswer t z { code := 0, ents := es })
        { s with gbars := s.gbars.filter (fun c => !hit c) }, true)
    else ({ s with gbars := s.gbars.map (fun c => if hit c then
             { c with arrived := c.arrived ++ [y], ents := (c.ents ++ ents).eraseDups } else c) }, true)

def serveGbarArr (s : State) (n : Nat) : State :=
  match servable s n with
  | some p => match p.msg with
    | .gbarArr asid i cnt sc wave agent id ents =>
      let r := gbarArrive (takeMsg s n) (agentMod agent) p.dst asid i cnt sc wave agent id ents
      let held := fun (t : State) => sendPkt t { src := p.dst, dst := p.src, cls := .rsp, msg := .held id,
                                                 mod := if agentMod agent = s.mods.podId then none else some (agentMod agent) } 0
      if r.2 then retryHeld (held r.1) p.dst else held (holdMsg s n)
    | _ => s
  | none => s

/-- GBAR_ARRIVAL (R393). -/
def execGbarArrival (n : Nat) (s : State) : Out := .next (serveGbarArr s n)

def serveGbarDep (s : State) (n : Nat) : State :=
  match servable s n with
  | some p => match p.msg with
    | .gbarDep wave id d =>
      let s1 := answeredId (takeMsg s n) id
      if waveExists s1 wave then modWave s1 wave (fun x => { x with gdep := some d }) else s1
    | _ => s
  | none => s

/-- GBAR_DEPARTURE: the answer reaches the participant, which departs at its next turn (R393). -/
def execGbarDeparture (n : Nat) (s : State) : Out := .next (serveGbarDep s n)

/-! ## Transaction barriers (R244, R245, R394, R395) -/

/-- The fields of a barrier word: PHASE, EXPECT, PEND, TX. -/
structure TbWord where
  phase : Bool
  expect : Nat
  pend : Nat
  tx : Nat
  deriving DecidableEq, Repr

def tbWord (x : Nat) : TbWord := { phase := bitOf x 63, expect := bitsOf x 52 11, pend := bitsOf x 41 11, tx := bitsOf x 0 41 }

def tbBits (t : TbWord) : Nat := b2n t.phase * 2 ^ 63 + t.expect * 2 ^ 52 + t.pend * 2 ^ 41 + t.tx

/-- After an update that leaves PEND = 0 and TX = 0 the phase completes; the result says so. -/
def tbSettle (t : TbWord) : TbWord × Bool :=
  if t.pend = 0 ∧ t.tx = 0 then ({ t with phase := !t.phase, pend := t.expect, tx := 0 }, true) else (t, false)

/-- The arrivals of a workgroup's barrier word, moved on when the phase completes. -/
def tbRecord (s : State) (k off : Nat) (sc : Scope) (ents : List RelEnt) (done : Bool) : State :=
  modWg s k (fun g => { g with tbs := Tab.modify {} g.tbs off (fun i =>
    let j := { i with scope := scopeMax i.scope sc, ents := (i.ents ++ ents).eraseDups }
    if done then { lastScope := j.scope, lastEnts := j.ents } else j) })

/-- An update of the barrier word at an offset of a workgroup's allocation. -/
def tbUpdate (s : State) (k off : Nat) (sc : Scope) (ents : List RelEnt) (f : TbWord → TbWord) : State :=
  match getWg s k with
  | none => s
  | some g =>
    let ck := coreKey g.node g.unit
    let r := tbSettle (f (tbWord (scrRead s ck (g.off + off) 8)))
    tbRecord (scrWrite s ck (g.off + off) (bytesOfNat 8 (tbBits r.1))) k off sc ents r.2

def tbArrival (t : Nat) (x : TbWord) : TbWord := { x with pend := x.pend - 1, tx := (x.tx + t) % 2 ^ 41 }
def tbPost (n : Nat) (x : TbWord) : TbWord := { x with tx := (x.tx + 2 ^ 41 - n % 2 ^ 41) % 2 ^ 41 }

/-- The workgroup of a core and context in whose live allocation an aligned word at a physical offset lies. -/
def tbOwner (s : State) (node unit asid a : Nat) : Option (Nat × Nat) :=
  if a % 8 ≠ 0 then none
  else firstSome (fun e =>
    let g := e.2
    let live := match g.st with
      | .resident | .halting _ _ _ => true
      | _ => false
    if live && g.node == node && g.unit == unit && g.asid == asid && decide (g.off ≤ a) && decide (a + 8 ≤ g.off + g.scratch)
    then some (e.1, a - g.off) else none) s.wgs

/-- A wave's workgroup. -/
def waveGroup (w : Wave) : Nat := w.wg.getD 0

/-- The frame of an instruction on the wave's own barrier word; `a` is its offset. -/
def tbGate (i : Instr) (f : MemF) (write : Bool) (s : State) (k : State → Nat → Wave → Path → Nat → State) : Out :=
  scrGate i s f write true (fun _ _ => 8) (fun t id w p ls => k t id w p ((ls.head?.map Prod.snd).getD 0))

def execTbinit (f : MemF) (s : State) : Out :=
  tbGate (.tbinit f) f true s (fun t id w p a =>
    let x : Rd := ⟨t, w, p⟩
    let n := dataOpnd f 4 f.h.sb x 0
    if n = 0 ∨ 2047 < n then trapNow t cIllegalOpnd 4 (entryMask w p f.h.g) (workMask x f.h.g) 0
    else
      let al := scrAlloc t w
      let u := scrWrite t (waveCore w) (al.1 + a)
        (bytesOfNat 8 (tbBits { phase := false, expect := n, pend := n, tx := 0 }))
      let u1 := modWg u (waveGroup w) (fun g => { g with tbs := Tab.erase g.tbs a })
      let w1 := getWave u1 id
      let y : Rd := ⟨u1, w1, p⟩
      let sh := resultShape y f.h.g .plain [] [addrSrc f true, ⟨f.h.sb, 1⟩]
      retire u1 id (writeDst w1 f.h.dst 1 sh (workMask y f.h.g) (fun _ => al.1 + a)))

def execTbarr (f : MemF) (s : State) : Out :=
  tbGate (.tbarr f) f true s (fun t id w p a =>
    let x : Rd := ⟨t, w, p⟩
    let u := tbUpdate t (waveGroup w) a .wg [] (tbArrival (dataOpnd f 4 f.h.sb x 0))
    retire u id (getWave u id))

/-- The remote arrival's receiver: a core of the issuing die, within the quad at `quad` scope. -/
def tbRemoteBad (w : Wave) (sc : Scope) (c : Nat) : Bool :=
  decide (47 < c) || (sc == .quad && c / 4 != w.unit / 4)

def execTbarrRem (f : MemF) (s : State) : Out :=
  gate (.tbarrRem f) s (fun id w p =>
    let x : Rd := ⟨s, w, p⟩
    let c := dataOpnd f 4 f.h.sc x 0
    if workMask x f.h.g = 0 then .next (retire s id w)
    else if tbRemoteBad w f.scope c then .next (trapNow s cIllegalOpnd 4 (entryMask w p f.h.g) (workMask x f.h.g) 0)
    else if w.home.isSome then .next (trapNow s cMigrate 0 (entryMask w p f.h.g) (workMask x f.h.g) 0)
    else if releaseWaits s id f.scope then .next (opWait s id)
    else
      let ents := if scopeRank f.scope < 2 then [] else releaseEntries s w.node w.unit f.scope
      let s1 := send (releaseMade s id f.scope) w.node w.node .syn 0
        (.tbArr w.node c w.asid (scratchAddr f x 0) (BitVec.ofNat 32 (dataOpnd f 4 f.h.sb x 0)) f.scope ents)
      .next (retire s1 id (getWave s1 id)))

def serveTbArr (s : State) (n : Nat) : State :=
  match servable s n with
  | some p => match p.msg with
    | .tbArr node unit asid a t sc ents =>
      let s1 := takeMsg s n
      match tbOwner s1 node unit asid a with
      | none => s1
      | some (k, off) => tbUpdate s1 k off sc ents (tbArrival t.toNat)
    | _ => s
  | none => s

/-- TBARR_REMOTE_ARRIVAL (R245, R395). -/
def execTbarrRemoteArrival (n : Nat) (s : State) : Out := .next (serveTbArr s n)

/-- The acquire of a `tbwait`, at the widest scope of the phase's arrivals (R245). -/
def tbAcquire (s : State) (id set : Nat) (i : TbInfo) : State :=
  let w := getWave s id
  if scopeRank i.lastScope < 2 then acquireEffects s id i.lastScope set []
  else
    let r := waveRanges s w set
    let sel := i.lastEnts.filter (fun e => e.agent != waveAgent s w && relSelected i.lastScope (waveAgent s w) e)
    let s1 := acquireDrains (acquireStart (opWait s id) id r) id w.node sel r 0
    acquireEffects s1 id i.lastScope set (getWave s1 id).op.relEnts

def execTbwait (f : MemF) (s : State) : Out :=
  tbGate (.tbwait f) f false s (fun t id w p a =>
    let x : Rd := ⟨t, w, p⟩
    let q := dataOpnd f 4 f.h.sb x 0
    if 2 ≤ q then trapNow t cIllegalOpnd 4 (entryMask w p f.h.g) (workMask x f.h.g) 0
    else
      let tb := tbWord (scrRead t (waveCore w) ((scrAlloc t w).1 + a) 8)
      if b2n tb.phase = q then opWait t id
      else
        let i := ((getWg t (waveGroup w)).map (fun g => Tab.get {} g.tbs a)).getD {}
        let u := tbAcquire t id f.rset.toNat i
        retire u id (getWave u id))

end Sys2Proof.Machine
end

