-- ==== Sys2Proof/Machine/TaskOps.lean ====
section
/-! DEFINITION. Queue instructions, continuations and migration (R158-R162, R168, R177, R178, R214-R218, R396-R405). -/

namespace Sys2Proof.Machine

/-! ## Operands and results of GEN words -/

/-- The handle that SA names. -/
def genHandle (f : GenF) (x : Rd) : Word := BitVec.ofNat 32 (opnd32 x f.h.sa 0)

/-- A result written to every lane of E, of `n` words. -/
def genResult (s : State) (id : Nat) (p : Path) (f : GenF) (n : Nat) (srcs : List Src) (v : Nat) : State :=
  let w := getWave s id
  let x : Rd := ⟨s, w, p⟩
  retire s id (writeDst w f.h.dst n (resultShape x f.h.g .plain [] srcs) (workMask x f.h.g) (fun _ => v))

/-- A code written lane by lane: `spawn` and `dsig` give G (R192). -/
def laneCodes (s : State) (id : Nat) (p : Path) (f : GenF) (v : Nat → Nat) : State :=
  let w := getWave s id
  let x : Rd := ⟨s, w, p⟩
  retire s id (writeDst w f.h.dst 1 (if oneLane w then .u else .g) (workMask x f.h.g) v)

/-- The frame of an instruction that acts once when E is not empty. -/
def onceGate (i : Instr) (g : Guard) (s : State) (k : Nat → Wave → Path → State) : Out :=
  gate i s (fun id w p =>
    if workMask ⟨s, w, p⟩ g = 0 then .next (retireEmpty i s id w) else .next (k id w p))

/-- A trap of an instruction for every lane of E. -/
def allTrap (s : State) (id : Nat) (p : Path) (g : Guard) (cause sub : Nat) : State :=
  let w := getWave s id
  takeTrap s id (preciseTrap w p cause sub (entryMask w p g) (workMask ⟨s, w, p⟩ g) 0)

/-- The key slot of the issuer's context. -/
def waveSlot (s : State) (w : Wave) : Nat := (getCtx s w.asid).slot

/-- The code of an operation that addresses a handle, other than an enqueue (R396). -/
def opCode (s : State) (h : Word) (slot : Nat) : Nat :=
  let c := enqueueCode s h slot
  if c = qFull then qOk else c

/-- The queue's home does not answer now (R61). -/
def queueHolds (s : State) (h : Word) : Bool := (getNode s (handleDie h)).halt

def qEmpty : Nat := 0x10
def qStale : Nat := 0x11

/-! ## spawn (R151, R161, R398) -/

/-- The record of a lane. -/
def spawnRecord (asid : Nat) (lines : Tab Line) (va : DWord) : List Byte := bytesOfNat 64 (lineValue asid lines va 64)

/-- One lane's record on this module: the code. -/
def spawnLane (s : State) (id : Nat) (h : Word) (rec_ : List Byte) : State × Nat :=
  let w := getWave s id
  enqueue s h rec_ (BitVec.ofNat 32 (waveAgent s w)) (waveSlot s w) w.asid w.node (releaseEntries s w.node w.unit .pkg)

/-- One lane's record to another module: sent, or refused for want of a route. -/
def spawnAway (s : State) (id : Nat) (m : Nat) (h : Word) (rec_ : List Byte) (y : LaneAddr) : State :=
  let lane := y.1
  let w := getWave s id
  if !moduleReachable s m then
    modOp (deadLetter s w.asid rec_ h qUnreach (BitVec.ofNat 32 (waveAgent s w)) w.node) id
      (fun o => { o with vals := Tab.put o.vals lane qUnreach })
  else
    let pkt : Pkt := { src := w.node, dst := roleHub s, mod := some m, cls := .syn,
                       msg := .spawn (waveAgent s w) w.asid (waveSlot s w) h rec_ (releaseEntries s w.node w.unit .sys)
                         id lane m }
    let s1 := sendPkt s pkt (va54 y.2)
    let o : Outst := { pkt := pkt, id := s1.nextReq, since := nodeTime s w.node }
    { s1 with nextReq := s1.nextReq + 1, net := { s1.net with outst := s1.net.outst ++ [o] } }

/-- The module that a `spawn` names, when it is another one. -/
def spawnModule (s : State) (f : GenF) : Option Nat :=
  let m := f.flags.toNat % 64
  if f.flags.getLsbD 6 ∧ m ≠ s.mods.podId then some m else none

/-- The records have been read, and the release wait is over. -/
def spawnSend (s : State) (id : Nat) (p : Path) (f : GenF) (ls : List LaneAddr) (lines : Tab Line) : State :=
  let w := getWave s id
  let h := genHandle f ⟨s, w, p⟩
  match spawnModule s f with
  | none =>
    let r := ls.foldl (fun (t : State × Tab Nat) y =>
      let a := spawnLane t.1 id h (spawnRecord w.asid lines y.2)
      (a.1, Tab.put t.2 y.1 a.2)) (releaseMade s id .pkg, [])
    laneCodes r.1 id p f (fun l => Tab.get 0 r.2 l)
  | some m =>
    if w.op.phase = 2 then
      if ls.all (fun y => (Tab.find w.op.vals y.1).isSome) then laneCodes s id p f (fun l => Tab.get 0 w.op.vals l) else s
    else
      let t := modOp (opWait (releaseMade s id .sys) id) id (fun o => { o with phase := 2, vals := [] })
      let u := ls.foldl (fun t y => spawnAway t id m h (spawnRecord w.asid lines y.2) y) t
      if f.h.dst = .null then retire u id (getWave u id) else u

def spawnRun (f : GenF) (s : State) (id : Nat) (w : Wave) (p : Path) (ls : List LaneAddr) : State :=
  let r := readLines id { plain := true, lv := .l1 } (needMap w.asid 64 ls) s
  match r.2 with
  | none => r.1
  | some lines =>
    endOrTrap r.1 id p (entryMask w p f.h.g) (homeFaults (getWave r.1 id).op.errs w.asid 64 ls) (fun w1 =>
      let away := (spawnModule r.1 f).isSome
      if w1.op.phase ≠ 2 ∧ releaseWaits r.1 id (if away then .sys else .pkg) then opWait r.1 id
      else if !away && queueHolds r.1 (genHandle f ⟨r.1, w1, p⟩) then opWait r.1 id
      else spawnSend r.1 id p f ls lines)

def execSpawn (f : GenF) (s : State) : Out :=
  memGate (.spawn f) s f.h .read true 64 (fun x l => BitVec.ofNat 64 (opnd64 x f.h.sb l)) (spawnRun f)

/-! ## qrsv, qpub (R159, R160, R399) -/

/-- A reservation of n slots at the home: the code and the first sequence number. -/
def reserveAt (s : State) (id : Nat) (h : Word) (n : Nat) : State × Nat × Nat :=
  let w := getWave s id
  let c := opCode s h (waveSlot s w)
  match queueOf s h with
  | none => (s, (if c = qOk then qAbsent else c), 0)
  | some q =>
    if c ≠ qOk then (s, c, 0)
    else if ringFree q < n ∨ 1024 ≤ (s.resvs.filter (fun r => handleDie r.handle == handleDie h)).length then (s, qFull, 0)
    else
      let s1 := setQueue s (reserveSlots q n 0)
      ({ s1 with resvs := s1.resvs ++ [{ handle := h, wave := id, lo := q.rsv, n := n }] }, qOk, q.rsv)

def execQrsv (f : GenF) (s : State) : Out :=
  onceGate (.qrsv f) f.h.g s (fun id w p =>
    let x : Rd := ⟨s, w, p⟩
    let n := opnd32 x f.h.sb 0
    let h := genHandle f x
    if n = 0 ∨ 64 < n then allTrap s id p f.h.g cIllegalOpnd 4
    else if queueHolds s h then opWait s id
    else
      let r := reserveAt s id h n
      genResult r.1 id p f 2 [⟨f.h.sa, 1⟩, ⟨f.h.sb, 1⟩] (r.2.1 + 2 ^ 32 * r.2.2))

/-- Whether a wave holds the slots [k, k + n) in one reservation. -/
def holdsRange (s : State) (q : Queue) (id k n : Nat) : Bool :=
  s.resvs.any (fun r => r.handle == q.handle && r.wave == id && decide (seqSub k r.lo + n ≤ r.n))
    && (List.range n).all (fun i => inRing q (seqAdd k i) && (slotAt q (seqAdd k i)).any (fun x => x.st == .reserved))

/-- A reservation with no slot left to publish goes. -/
def closeResvs (s : State) (h : Word) : State :=
  match queueOf s h with
  | none => s
  | some q =>
    let openAt := fun (r : Resv) => (seqRange r.lo (seqAdd r.lo r.n)).any (fun k =>
      inRing q k && (slotAt q k).any (fun x => x.st == .reserved))
    { s with resvs := s.resvs.filter (fun r => r.handle != h || openAt r) }

/-- The slots become PUBLISHED, each a sync word of the release (R161). -/
def publishSlots (s : State) (id : Nat) (h : Word) (k n : Nat) : State :=
  let w := getWave s id
  let ents := releaseEntries s w.node w.unit .pkg
  let s1 := (List.range n).foldl (fun t i =>
    match queueOf t h with
    | none => t
    | some q =>
      let u := setQueue t (putSlot q (seqAdd k i) { st := .published, sender := BitVec.ofNat 32 (waveAgent t w) })
      recordSlot u h (seqAdd k i) ents) s
  match queueOf s1 h with
  | none => s1
  | some q => closeResvs (setQueue s1 (settle (nodeTime s1 (handleDie h)) q)) h

def execQpub (f : GenF) (s : State) : Out :=
  onceGate (.qpub f) f.h.g s (fun id w p =>
    let x : Rd := ⟨s, w, p⟩
    let h := genHandle f x
    let k := opnd32 x f.h.sb 0
    let n := opnd32 x f.h.sc 0
    let srcs : List Src := [⟨f.h.sa, 1⟩, ⟨f.h.sb, 1⟩, ⟨f.h.sc, 1⟩]
    if queueHolds s h then opWait s id
    else
      let c := opCode s h (waveSlot s w)
      match (if c = qOk then queueOf s h else none) with
      | none => genResult s id p f 1 srcs (if c = qOk then qAbsent else c)
      | some q =>
        if n = 0 ∨ 64 < n ∨ !holdsRange s q id k n then allTrap s id p f.h.g cQueue 0
        else if releaseWaits s id .pkg then opWait s id
        else
          let s1 := publishSlots (progress (releaseMade s id .pkg) w.taskId) id h k n
          genResult s1 id p f 1 srcs qOk)

/-! ## qpop, qsteal (R158, R161, R170, R400) -/

/-- The acquire of a taken record: its releasers at the slot, over the region set (R161). -/
def takeAcquire (s : State) (id : Nat) (h : Word) (set : Nat) (x : Taken) : State :=
  let w := getWave s id
  let r := waveRanges s w set
  let sel := x.ents.filter (relSelected .pkg (waveAgent s w)) ++ x.pending.map Prod.fst
  let s1 := acquireDrains (acquireStart (opWait s id) id r) id (handleDie h) sel r 0
  acquireEffects s1 id .pkg set (getWave s1 id).op.relEnts

/-- Where the 64 bytes of a record go: global memory or the scratchpad. -/
inductive PopDst where
  | glb (lane : Nat) (va : DWord)
  | scr (a : Nat)
  deriving DecidableEq, Repr

def popStore (s : State) (id : Nat) (d : PopDst) (l : List Byte) : State :=
  let w := getWave s id
  match d with
  | .glb lane va => storeLane s id (storeAt w (lane, va)) l .plain
  | .scr a => scrWrite s (waveCore w) ((scrAlloc s w).1 + a) l

/-- Which record is taken, and whether the instruction waits for one. -/
inductive PopK where
  | pop | try_ | steal
  deriving DecidableEq, Repr

def popSrcs (f : GenF) : List Src := [⟨f.h.sa, 1⟩, ⟨f.h.sb, if f.flags.getLsbD 0 then 1 else 2⟩]

/-- The instruction at the home. -/
def popAt (k : PopK) (f : GenF) (s : State) (id : Nat) (p : Path) (d : PopDst) : State :=
  let w := getWave s id
  let h := genHandle f ⟨s, w, p⟩
  let done := fun (t : State) (c n : Nat) => genResult (progress t w.taskId) id p f 2 (popSrcs f) (c + 2 ^ 32 * n)
  if queueHolds s h then opWait s id
  else
    let c := opCode s h (waveSlot s w)
    match (if c = qOk then queueOf s h else none) with
    | none => done s (if c = qOk then qAbsent else c) 0
    | some q =>
      if !q.soft then allTrap s id p f.h.g cQueue 0
      else
        let r := if k = .steal then takeYoungest s h else takeOldest s h
        let s1 := skipVoids r.1 h
        match r.2 with
        | some x => done (popStore (takeAcquire s1 id h f.rset.toNat x) id d x.rec_) qOk x.seq
        | none => if k = .pop then blockPath s1 id (.qpop f h) else done s1 qEmpty 0

/-- The lane whose address an instruction uses that acts once: the lowest of E. -/
def onceLane {α : Type} (ls : List (Nat × α)) : List (Nat × α) := ls.take 1

def popGlobal (i : Instr) (k : PopK) (f : GenF) (s : State) : Out :=
  memGate i s f.h .write true 64 (fun x _ => BitVec.ofNat 64 (opnd64 x f.h.sb ((lowestLane (workMask x f.h.g)).getD 0)))
    (fun t id w p ls => match ls.head? with
      | none => retire t id w
      | some y => popAt k f t id p (.glb y.1 y.2))

def popScratch (i : Instr) (k : PopK) (f : GenF) (s : State) : Out :=
  scrGateAt i s f.h true true (fun _ _ => 64) (fun x _ => opnd32 x f.h.sb ((lowestLane (workMask x f.h.g)).getD 0))
    (fun t id w p ls => match ls.head? with
      | none => retire t id w
      | some y => match scrRetireTrap t w p (entryMask w p f.h.g) false true (fun _ => 64) ls with
        | some tr => takeTrap t id tr
        | none => popAt k f t id p (.scr y.2))

def popOp (i : Instr) (k : PopK) (f : GenF) (s : State) : Out :=
  if f.flags.getLsbD 0 then popScratch i k f s else popGlobal i k f s

def execQpop (f : GenF) (s : State) : Out := popOp (.qpop f) .pop f s
def execQpopTry (f : GenF) (s : State) : Out := popOp (.qpopTry f) .try_ f s
def execQsteal (f : GenF) (s : State) : Out := popOp (.qsteal f) .steal f s

/-- The next state of a meaning. -/
def outState (o : Out) (s : State) : State :=
  match o with
  | .next t => t
  | _ => s

/-- QPOP_WAKE: a record became visible, or the queue is gone (R400). -/
def execQpopWake (w slot : Nat) (s : State) : Out :=
  match blockedAt s w slot with
  | some (p, .qpop f h) =>
    let due := match queueOf s h with
      | none => true
      | some q => !(visibleSeqs q).isEmpty || opCode s h (waveSlot s (getWave s w)) != qOk
    if due then .next (wakePath s w slot p (fun t _ => outState (execQpop f t) t)) else .next s
  | _ => .next s

/-! ## qinfo, dsig (R168, R401, R402) -/

/-- The four words of `qinfo`. Beside a code that is not OK the state is free. -/
def infoWords (s : State) (h : Word) (c : Nat) : Nat :=
  match (if c = qOk then queueOf s h else none) with
  | some q => q.head + 2 ^ 32 * q.pub + 2 ^ 64 * q.rsv + 2 ^ 96 * (q.log2n + 32 * b2n q.soft)
  | none =>
    let x := fun i => (Config.absentQueueWord s.free i).toNat
    x 0 + 2 ^ 32 * x 1 + 2 ^ 64 * x 2 + 2 ^ 96 * (x 3 % 64 + 256 * (if c = qOk then qAbsent else c))

def execQinfo (f : GenF) (s : State) : Out :=
  onceGate (.qinfo f) f.h.g s (fun id w p =>
    let h := genHandle f ⟨s, w, p⟩
    if queueHolds s h then opWait s id
    else genResult s id p f 4 [⟨f.h.sa, 1⟩] (infoWords s h (opCode s h (waveSlot s w))))

def execQinfoBase (f : GenF) (s : State) : Out :=
  onceGate (.qinfoBase f) f.h.g s (fun id w p =>
    let h := genHandle f ⟨s, w, p⟩
    if queueHolds s h then opWait s id
    else genResult s id p f 2 [⟨f.h.sa, 1⟩]
      (match (if opCode s h (waveSlot s w) = qOk then queueOf s h else none) with
       | some q => (vaFull q.base).toNat
       | none => 0))

/-- DEPS of a record, at byte 22. -/
def recDeps (r : List Byte) : Nat := fieldAt r 22 2

/-- DEPS in the ring goes down by one. -/
def dsigRing (s : State) (q : Queue) (h : Word) (k : Nat) (ents : List RelEnt) : State × Nat :=
  let r := unitRead s q.asid (vaFull (ringVa q k)) 64
  match r.2 with
  | .error e => (ringFault r.1 q k e, qRingFault)
  | .ok b =>
    if recDeps b = 0 then (r.1, qStale)
    else
      let x := unitWrite r.1 q.asid (vaFull (ringVa q k + 22)) (bytesOfNat 2 (recDeps b - 1))
      match x.2 with
      | some e => (ringFault x.1 q k e, qRingFault)
      | none => (recordSlot x.1 h k ents, qOk)

/-- A signal at the home (R168): the code. -/
def dsigAt (s : State) (h : Word) (k : Nat) (ents : List RelEnt) : State × Nat :=
  match queueOf s h with
  | none => (s, qAbsent)
  | some q =>
    let hit := fun (x : PendTask) => x.handle == h && x.seq == k && x.count != 0
    if q.soft then (s, qStale)
    else match s.pending.find? hit with
      | some x =>
        let r := relInsert { ents := x.rels } ents s.nextReq
        let s1 : State := { s with
          nextReq := s.nextReq + 1
          pending := s.pending.map (fun y => if hit y then { y with count := y.count - 1, rels := r.1.ents } else y) }
        (drainOut s1 (handleDie h) q.asid (ringVa q k) s.nextReq r.2, qOk)
      | none =>
        if (visibleSeqs q).contains k ∧ !(slotAt q k).any (·.void) then dsigRing s q h k ents else (s, qStale)

def dsigLane (s : State) (id : Nat) (h : Word) (k : Nat) : State × Nat :=
  let w := getWave s id
  let c := opCode s h (waveSlot s w)
  if c ≠ qOk then (s, c) else dsigAt s h k (releaseEntries s w.node w.unit .pkg)

def execDsig (f : GenF) (s : State) : Out :=
  onceGate (.dsig f) f.h.g s (fun id w p =>
    let x : Rd := ⟨s, w, p⟩
    let h := genHandle f x
    if releaseWaits s id .pkg ∨ queueHolds s h then opWait s id
    else
      let r := (maskLanes (workMask x f.h.g)).foldl (fun (t : State × Tab Nat) l =>
        let a := dsigLane t.1 id h (opnd32 x f.h.sb l)
        (a.1, Tab.put t.2 l a.2)) (releaseMade s id .pkg, [])
      laneCodes r.1 id p f (fun l => Tab.get 0 r.2 l))

/-! ## Continuations (R177, R404) -/

def contSlots (c : Ctx) : Nat :=
  let l := bitsOf c.cont.toNat 59 5
  if 1 ≤ l ∧ l ≤ 20 then 2 ^ l else 0

def contBase (c : Ctx) : Nat := bitsOf c.cont.toNat 6 48 * 64
def contVa (c : Ctx) (slot : Nat) : DWord := vaFull (contBase c + 2112 * slot)

/-- The lowest free slot of the pool. -/
def contFree (c : Ctx) : Option Nat := (List.range (c.contUsed.length + 1)).find? (fun i => decide (i < contSlots c) && !c.contUsed.contains i)

/-- PRIO of the record that a wave's task, or its continuation, came from. -/
def wavePrio (s : State) (w : Wave) : Nat := ((w.wg.bind (getWg s)).map (·.prio)).getD 0

/-- The bytes of a continuation record. -/
def contRecord (s : State) (w : Wave) (p : Path) (first n : Nat) (tag : Word) : List Byte :=
  let rs := (List.range n).map (fun i => readReg w (first + i))
  bytesOf 8 (p.pc + 12) ++ bytesOf 4 p.mask ++ bytesOfNat 1 n ++ bytesOfNat 1 (wavePrio s w)
    ++ bytesOfNat 1 (b2n (inToken s w.node)) ++ [0#8]
    ++ padTo 16 ((List.range n).map (fun i => BitVec.ofNat 8 (first + i)))
    ++ bytesOfNat 4 (sumNat ((List.range n).map (fun i => shapeTag (readReg w (first + i)) * 4 ^ i)))
    ++ bytesOf 4 tag ++ bytesOfNat 2 w.ttype
    ++ bytesOfNat 2 w.tile.1.toNat ++ bytesOfNat 2 w.tile.2.1.toNat ++ bytesOfNat 2 w.tile.2.2.toNat ++ bytesOf 8 w.arg
    ++ List.replicate 8 0 ++ rs.flatMap regBytes

/-- The access of one line's part of a continuation record: it waits, fails, or goes on. -/
def contAccess (s : State) (id : Nat) (v n : Nat) : State × Except (Option AccErr) (Nat × Phys) :=
  let w := getWave s id
  let asid := asidOf w.asid (vaFull v)
  let k := lineKey asid (v / 128)
  match homeAt s w.node asid v with
  | none => (s, .error (some eLeaseLost))
  | some h =>
    if nodeLost s h then (s, .error (some eDieLost))
    else if homeHolds s w.node h k then (s, .error none)
    else if !tokenAllows s h asid v n (waveAgent s w) then (s, .error (some eToken))
    else
      let req : Req := { agent := waveAgent s w, wave := id, id := 0, sup := w.sup,
                         grant := carriedGrant s w.asid w.taskId .write v }
      let a := homeAccess s h req asid (v / 128) .write
      match a.2 with
      | .error e => (a.1, .error (some e))
      | .ok p => if p.repl ≠ 0 then (a.1, .error (some eReplica)) else (a.1, .ok (h, p))

/-- One part is written at its home; the core's own copies go. -/
def contPut (s : State) (id : Nat) (x : Nat × List Byte) : State :=
  let r := contAccess s id x.1 x.2.length
  match r.2 with
  | .error _ => r.1
  | .ok (h, ph) =>
    let w := getWave s id
    let k := lineKey (asidOf w.asid (vaFull x.1)) (x.1 / 128)
    let b := lineOfBytes (x.1 % 128) x.2
    let m := wordMask b.valid
    dropCopies (homeWrite (recallWords r.1 h k ph m) h k ph b b.valid) (waveAgent s w) k m h

/-- The first part of a record that waits or fails. -/
def contStop (s : State) (id : Nat) (parts : List (Nat × List Byte)) : Option (Option AccErr × Nat) :=
  firstSome (fun x => match (contAccess s id x.1 x.2.length).2 with
    | .error e => some (e, x.1)
    | .ok _ => none) parts

/-- Whether a tag names an outstanding command of a wave (R404). -/
def tagOutstanding (s : State) (id : Nat) (w : Wave) (tag : Word) : Bool :=
  tag != 0 && (getCore s (waveCore w)).score.any (fun c => c.tag == tag && c.wave == some id)

/-- The record is in the pool: a continuation is made, and the path ends. -/
def contDone (s : State) (id : Nat) (p : Path) (slot : Nat) (tag : Word) : State :=
  let w := getWave s id
  let rec_ := relInsert {} (releaseEntries s w.node w.unit .pkg) s.nextReq
  let c : Cont :=
    { asid := w.asid, slot := slot, die := w.node, cluster := b2n (inToken s w.node), tag := tag, owner := id,
      agent := waveAgent s w, rels := rec_.1.ents,
      ready := if tagOutstanding s id w tag then none else some (nodeTime s w.node) }
  let s1 := drainOut { s with nextReq := s.nextReq + 1, conts := s.conts ++ [c] } w.node w.asid 0 s.nextReq rec_.2
  let s2 := modCtx (releaseMade s1 id .pkg) w.asid (fun x => { x with contUsed := x.contUsed ++ [slot] })
  exitLanes s2 id (getWave s2 id) p p.mask

def contRun (f : GenF) (s : State) (id : Nat) (w : Wave) (p : Path) (slot : Nat) : State :=
  let x : Rd := ⟨s, w, p⟩
  let tag : Word := BitVec.ofNat 32 (opnd32 x f.h.sa 0)
  let l := contRecord s w p (f.imm12.toNat % 256) (f.flags.toNat % 32) tag
  let va := contVa (getCtx s w.asid) slot
  let trap := fun (c n : Nat) (a : DWord) =>
    takeTrap s id (preciseTrap w p c n p.mask p.mask a)
  if (List.range (f.flags.toNat % 32)).any (fun i => w.badRegs.contains (f.imm12.toNat % 256 + i)) then trap cEcc 3 0
  else match leaseCheck s w.asid w.taskId .write va l.length with
  | some e => trap e.1 (if e.1 = cLeaseViolation then 1 else 0) e.2
  | none =>
    if !w.pend.isEmpty ∨ releaseWaits s id .pkg then opWait s id
    else
      let parts := cutAll (va54 va) l
      match contStop s id parts with
      | some (none, _) => opWait s id
      | some (some e, v) => trap e.cause e.sub (vaFull v)
      | none => contDone (parts.foldl (fun t y => contPut t id y) s) id p slot tag

def execCont (f : GenF) (s : State) : Out :=
  gate (.cont f) s (fun id w p =>
    let first := f.imm12.toNat % 256
    let n := f.flags.toNat % 32
    if 16 < n ∨ 256 < first + n then .next (allTrap s id p f.h.g cIllegalOpnd 4)
    else match contFree (getCtx s w.asid) with
      | none => .next (allTrap s id p f.h.g cQueue 0)
      | some slot => .next (contRun f s id w p slot))

/-! ## Migration (R214-R218, R405) -/

/-- The lowest free core and partition of a die. -/
def landingFree (s : State) (d : Nat) : Option (Nat × Nat) :=
  firstSome (fun c =>
    ((List.range 4).find? (fun p => !(getCore s (coreKey d c)).landing.contains p)).map (fun p => (c, p))) (List.range 48)

/-- Where a `mig` of an attached wave goes; none when it raises the migrate fault. -/
def migTarget (s : State) (w : Wave) (va : DWord) : Option Nat :=
  let asid := asidOf w.asid va
  let v := va54 va
  if !canonical va ∨ homeIsHost s asid v then none
  else match homeOf s asid v with
    | none => none
    | some d => if isCdie d ∧ nodeActive s d then some d else none

/-- The departure is not yet possible: engine commands of the wave run, or its release must wait (R215). -/
def migWaits (s : State) (id : Nat) (w : Wave) : Bool :=
  (getCore s (waveCore w)).score.any (fun c => c.wave == some id) || releaseWaits s id .pkg || keptWaits s w

/-- The wave's state is shipped to a core, where its arrival is still to be made (R215, R216). -/
def migShip (s : State) (id : Nat) (node unit part : Nat) (home : Option (Nat × Nat × Nat)) (set : Nat) : State :=
  let w := getWave s id
  let ents := releaseEntries s w.node w.unit .pkg
  let s1 := releaseMade (withdrawTokens s id) id .pkg
  let s2 := modWave s1 id (fun x =>
    { x with node := node, unit := unit, part := part, home := home, ship := nodeTime s w.node,
             arrive := some (set, ents) })
  tokenAutoRelease s2 w.node w.unit w.asid

/-- The result of `mig.try`, and retirement. -/
def migRetire (s : State) (id : Nat) (p : Path) (f : GenF) (moved : Bool) : State :=
  let w := getWave s id
  let e := workMask ⟨s, w, p⟩ f.h.g
  retire s id (writePredDst w f.h.dst e (if moved then e else 0))

/-- A detached wave returns to its slot. -/
def migReturn (s : State) (id : Nat) (p : Path) (f : GenF) (h : Nat × Nat × Nat) : State :=
  let t := migRetire (freeLanding s (getWave s id)) id p f true
  migShip t id h.1 h.2.1 h.2.2 none f.rset.toNat

/-- An attached wave departs. -/
def migDepart (s : State) (id : Nat) (p : Path) (f : GenF) (d : Nat) (c : Nat × Nat) : State :=
  let w := getWave s id
  let s1 := modCore (migRetire s id p f true) (coreKey d c.1) (fun x => { x with landing := x.landing ++ [c.2] })
  let s2 := migShip s1 id d c.1 c.2 (some (w.node, w.unit, w.part)) f.rset.toNat
  match w.wg with
  | some k => barsCheck s2 k
  | none => s2

def migOp (i : Instr) (try_ : Bool) (f : GenF) (s : State) : Out :=
  gate i s (fun id w p =>
    let va := BitVec.ofNat 64 (opnd64 ⟨s, w, p⟩ f.h.sa 0)
    match w.home with
    | some h => .next (if migWaits s id w then opWait s id else migReturn s id p f h)
    | none => match migTarget s w va with
      | none => .next (allTrap s id p f.h.g cMigrate 0)
      | some d =>
        if d = w.node then .next (retire s id w)
        else if migWaits s id w then .next (opWait s id)
        else match landingFree s d with
          | some c => .next (migDepart s id p f d c)
          | none => .next (if try_ then migRetire s id p f false else blockPath s id (.mig f)))

def execMig (f : GenF) (s : State) : Out := migOp (.mig f) false f s
def execMigTry (f : GenF) (s : State) : Out := migOp (.migTry f) true f s

/-- MIG_ARRIVAL: the landing die's time exceeds the shipped one, and the wave acquires (R215, R216). -/
def execMigArrival (w : Nat) (s : State) : Out :=
  let x := getWave s w
  match x.arrive with
  | none => .next s
  | some (set, es) =>
    if !waveExists s w ∨ nodeTime s x.node ≤ x.ship ∨ !coreRuns s x then .next s
    else
      let r := waveRanges s x set
      let s1 := acquireDrains (acquireStart (opWait s w) w r) w x.node (es.filter (relSelected .pkg (waveAgent s x))) r 0
      let s2 := acquireEffects s1 w .pkg set (getWave s1 w).op.relEnts
      .next (modWave s2 w (fun y => { y with arrive := none, op := {} }))

/-- MIG_LANDING_SLOT_FREE: a landing slot is free, and the waiting `mig` departs (R215, R405). -/
def execMigLandingSlotFree (w slot : Nat) (s : State) : Out :=
  match blockedAt s w slot with
  | some (p, .mig f) =>
    let x := getWave s w
    let q := { p with st := .live }
    let va := BitVec.ofNat 64 (opnd64 ⟨s, { x with cur := slot }, q⟩ f.h.sa 0)
    let due := match migTarget s x va with
      | some d => (landingFree s d).isSome
      | none => true
    if due then .next (wakePath s w slot p (fun t _ => outState (execMig f t) t)) else .next s
  | _ => .next s

end Sys2Proof.Machine
end

