-- ==== Sys2Proof/Machine/EngOps.lean ====
section
/-! DEFINITION. Engine instructions: operands, parameter blocks, checks, issue, `ewait` and `evpop` (R219, R228-R230,
R406-R428). -/

namespace Sys2Proof.Machine

/-! ## What an instruction asks for -/

/-- A command as its instruction declares it: the ranges count from the allocation's base; global runs are an address
and a length (R408, R409). -/
structure EngReq where
  k : CmdK
  scrR : List Range := []
  scrW : List Range := []
  accR : List Range := []
  accW : List Range := []
  glbR : List (DWord × Nat) := []
  glbW : List (DWord × Nat) := []
  accloc : Nat := 0
  deriving DecidableEq, Repr

def span (lo n : Nat) : Range := { lo := lo, hi := lo + n }

/-- Reserved bytes of a block from an offset to its end are zero. -/
def zeroFrom (b : List Byte) (o : Nat) : Bool := (b.drop o).all (fun x => x == 0)

/-! ## Matrix engine (R413-R417) -/

/-- Element types by AFMT, BFMT, WFMT and XFMT. -/
def engTy : Nat → Ty
  | 0 => .e4m3 | 1 => .e5m2 | 2 => .e2m1 | 3 => .mxi8 | 4 => .bf16 | 5 => .f16 | _ => .f32

/-- Whether a format comes in MX blocks, with scales. -/
def engMx (fmt : Nat) : Bool := decide (fmt < 4)

/-- Bytes of n elements of a format. -/
def engBytes (fmt n : Nat) : Nat := n * tyElemBits (engTy fmt) / 8

structure MmxP where
  aoff : Nat
  boff : Nat
  asoff : Nat
  bsoff : Nat
  coff : Nat
  astr : Nat
  bstr : Nat
  cstr : Nat
  k : Nat
  m : Nat
  n : Nat
  afmt : Nat
  bfmt : Nat
  zero : Bool
  reuse : Bool
  deriving DecidableEq, Repr

def mnCode : Nat → Nat
  | 0 => 64 | 1 => 128 | _ => 256

def mmxP (b : List Byte) : MmxP :=
  { aoff := fieldAt b 0 4, boff := fieldAt b 4 4, asoff := fieldAt b 8 4, bsoff := fieldAt b 12 4,
    coff := fieldAt b 16 4, astr := fieldAt b 20 4, bstr := fieldAt b 24 4, cstr := fieldAt b 28 4,
    k := fieldAt b 32 4, m := mnCode (bitsOf (fieldAt b 36 1) 0 2), n := mnCode (bitsOf (fieldAt b 36 1) 2 2),
    afmt := fieldAt b 37 1, bfmt := fieldAt b 38 1, zero := bitOf (fieldAt b 39 1) 0, reuse := bitOf (fieldAt b 39 1) 1 }

/-- A field outside the limits of the table of R413. -/
def mmxBad (b : List Byte) : Bool :=
  let p := mmxP b
  let mn := fieldAt b 36 1
  decide (p.coff % 16 ≠ 0) || decide (p.astr % 16 ≠ 0) || decide (p.bstr % 16 ≠ 0) || decide (p.cstr % 16 ≠ 0)
    || decide (6 < p.afmt) || decide (6 < p.bfmt) || mn % 4 == 3 || mn / 4 % 4 == 3 || decide (16 ≤ mn)
    || decide (p.k % 32 ≠ 0) || decide (p.k < 32) || decide (16384 < p.k)
    || decide (p.astr < engBytes p.afmt p.k) || decide (p.bstr < engBytes p.bfmt p.k) || decide (p.cstr < 4 * p.n)
    || decide (4 ≤ fieldAt b 39 1) || !zeroFrom b 40

def mmxReq (b : List Byte) : Option EngReq :=
  let p := mmxP b
  if mmxBad b then none
  else
    let c := span p.coff ((p.m - 1) * p.cstr + 4 * p.n)
    some { k := .mmx b
           scrR := [span p.aoff ((p.m - 1) * p.astr + engBytes p.afmt p.k),
                    span p.boff ((p.n - 1) * p.bstr + engBytes p.bfmt p.k)]
             ++ (if engMx p.afmt then [span p.asoff (p.m * (p.k / 32))] else [])
             ++ (if engMx p.bfmt then [span p.bsoff (p.n * (p.k / 32))] else [])
           accR := if p.zero then [] else [c]
           accW := [c] }

/-- Offsets and the count of `mmz` and `mld` (R415). -/
def lenBad (l : List Nat) (n : Nat) : Bool := l.any (fun a => a % 16 != 0) || n % 16 != 0 || decide (n < 16)

def mmzReq (a n : Nat) : Option EngReq :=
  if lenBad [a] n then none else some { k := .mmz a n, accW := [span a n] }

def mldA2sReq (s a n : Nat) : Option EngReq :=
  if lenBad [s, a] n then none else some { k := .mldA2s s a n, scrW := [span s n], accR := [span a n] }

def mldS2aReq (s a n : Nat) : Option EngReq :=
  if lenBad [s, a] n then none else some { k := .mldS2a s a n, scrR := [span s n], accW := [span a n] }

structure MepiP where
  coff : Nat
  cstr : Nat
  daddr : DWord
  dstr : Nat
  rows : Nat
  cols : Nat
  ofmt : Nat
  rnd : Nat
  sat : Bool
  alphaOn : Bool
  bias : Bool
  relu : Bool
  clear : Bool
  alpha : Nat
  boff : Nat
  saddr : DWord
  sstr : Nat
  deriving DecidableEq, Repr

def mepiP (b : List Byte) : MepiP :=
  let fl := fieldAt b 30 1
  { coff := fieldAt b 0 4, cstr := fieldAt b 4 4, daddr := BitVec.ofNat 64 (fieldAt b 8 8), dstr := fieldAt b 16 8,
    rows := fieldAt b 24 2, cols := fieldAt b 26 2, ofmt := fieldAt b 28 1, rnd := fieldAt b 29 1,
    sat := bitOf fl 0, alphaOn := bitOf fl 1, bias := bitOf fl 2, relu := bitOf fl 3, clear := bitOf fl 4,
    alpha := fieldAt b 32 4, boff := fieldAt b 36 4, saddr := BitVec.ofNat 64 (fieldAt b 40 8), sstr := fieldAt b 48 8 }

/-- Element type by OFMT; 5 to 8 are MX outputs. -/
def outTy : Nat → Ty
  | 0 => .f32 | 1 => .bf16 | 2 => .f16 | 3 => .e4m3 | 4 => .e5m2 | 5 => .e4m3 | 6 => .e5m2 | 7 => .e2m1 | _ => .mxi8

def outMx (ofmt : Nat) : Bool := decide (5 ≤ ofmt)

/-- A field outside the limits of the table of R416. -/
def mepiBad (b : List Byte) : Bool :=
  let p := mepiP b
  let es := tyElemBits (outTy p.ofmt) / 8
  decide (p.coff % 16 ≠ 0) || decide (p.cstr % 16 ≠ 0) || decide (8 < p.ofmt) || decide (5 < p.rnd)
    || decide (32 ≤ fieldAt b 30 1) || fieldAt b 31 1 != 0 || !zeroFrom b 56
    || decide (p.rows < 1) || decide (256 < p.rows) || decide (p.cols < 1) || decide (256 < p.cols)
    || decide (p.cstr < 4 * p.cols) || (outMx p.ofmt && p.cols % 32 != 0)
    || !canonical p.daddr || (decide (2 ≤ es) && p.daddr.toNat % es != 0)
    || decide (p.boff % 4 ≠ 0) || (!outMx p.ofmt && p.saddr != 0)

/-- The address of row m of D, and of the scale array. -/
def mepiRow (p : MepiP) (m : Nat) : DWord := p.daddr + BitVec.ofNat 64 (m * p.dstr)
def mepiScale (p : MepiP) (m : Nat) : DWord := p.saddr + BitVec.ofNat 64 (m * p.sstr)

def mepiReq (b : List Byte) : Option EngReq :=
  let p := mepiP b
  if mepiBad b then none
  else
    let c := span p.coff ((p.rows - 1) * p.cstr + 4 * p.cols)
    let rows := List.range p.rows
    some { k := .mepi b 0, accR := [c], accW := if p.clear then [c] else [], accloc := p.coff
           scrR := if p.bias then [span p.boff (4 * p.cols)] else []
           glbW := rows.map (fun m => (mepiRow p m, p.cols * tyElemBits (outTy p.ofmt) / 8))
             ++ (if outMx p.ofmt then rows.map (fun m => (mepiScale p m, p.cols / 32)) else []) }

/-! ## Copy engines (R419-R423) -/

structure TensorP where
  base : DWord
  dim : List Nat
  str : List Nat
  box : List Nat
  fill : Nat
  es : Nat
  rank : Nat
  mask : Nat
  deriving DecidableEq, Repr

def tensorP (b : List Byte) : TensorP :=
  { base := BitVec.ofNat 64 (fieldAt b 0 8), dim := (List.range 4).map (fun j => fieldAt b (8 + 4 * j) 4),
    str := (List.range 3).map (fun j => fieldAt b (24 + 8 * j) 8),
    box := (List.range 4).map (fun j => fieldAt b (48 + j) 1), fill := fieldAt b 52 4, es := 2 ^ fieldAt b 56 1,
    rank := fieldAt b 57 1, mask := fieldAt b 58 6 }

/-- A field outside the limits of the table of R419. -/
def tensorBad (b : List Byte) (multi : Bool) : Bool :=
  let p := tensorP b
  decide (4 < fieldAt b 56 1) || decide (p.rank < 1) || decide (4 < p.rank) || p.base.toNat % p.es != 0
    || (List.range 4).any (fun j =>
      let d := p.dim.getD j 0
      if j < p.rank then decide (d < 1) || decide (2 ^ 31 < d) else d != 0 || p.box.getD j 0 != 0)
    || (List.range 3).any (fun j =>
      let x := p.str.getD j 0
      if j + 1 < p.rank then x % p.es != 0 else x != 0)
    || (if multi then p.mask == 0 else p.mask != 0)

/-- Extent of the tile in a dimension. -/
def boxOf (p : TensorP) (j : Nat) : Nat := p.box.getD j 0 + 1

/-- Bytes of the tile. -/
def tileBytes (p : TensorP) : Nat := boxOf p 0 * boxOf p 1 * boxOf p 2 * boxOf p 3 * p.es

/-- Whether a tile index lies in the tensor in dimension j. -/
def inDim (p : TensorP) (c : Int) (j i : Nat) : Bool :=
  decide (p.rank ≤ j) || (decide (0 ≤ c + i) && decide (c + i < (p.dim.getD j 0 : Nat)))

/-- A row of the tile: its first element's byte in the tile, the first element of dimension 0 that lies in the tensor
and the count of such elements, and the global address of that first one (R420). -/
structure TileRow where
  at_ : Nat
  first : Nat
  count : Nat
  va : DWord
  deriving DecidableEq, Repr

/-- Offset of step `c` of dimension j, 0 at and above RANK. -/
def stepOf (p : TensorP) (c : Int) (j : Nat) : Int :=
  if j = 0 then c * (p.es : Nat) else if j < p.rank then c * (p.str.getD (j - 1) 0 : Nat) else 0

def tileRow (p : TensorP) (c : List Int) (i1 i2 i3 : Nat) : TileRow :=
  let c0 := c.getD 0 0
  let lo := (max 0 (-c0)).toNat
  let hi := min (boxOf p 0) (max 0 ((p.dim.getD 0 0 : Nat) - c0)).toNat
  let inside := inDim p (c.getD 1 0) 1 i1 && inDim p (c.getD 2 0) 2 i2 && inDim p (c.getD 3 0) 3 i3
  { at_ := ((i3 * boxOf p 2 + i2) * boxOf p 1 + i1) * boxOf p 0 * p.es, first := lo,
    count := if inside then hi - lo else 0,
    va := p.base + BitVec.ofInt 64 (stepOf p (c0 + lo) 0 + stepOf p (c.getD 1 0 + i1) 1 + stepOf p (c.getD 2 0 + i2) 2
      + stepOf p (c.getD 3 0 + i3) 3) }

/-- The rows of a tile in ascending order. -/
def tileRows (p : TensorP) (c : List Int) : List TileRow :=
  (List.range (boxOf p 3)).flatMap (fun i3 => (List.range (boxOf p 2)).flatMap (fun i2 =>
    (List.range (boxOf p 1)).map (fun i1 => tileRow p c i1 i2 i3)))

/-- The global bytes of the in-bounds elements, one run a row. -/
def tileRuns (p : TensorP) (c : List Int) : List (DWord × Nat) :=
  (tileRows p c).filterMap (fun r => if r.count = 0 then none else some (r.va, r.count * p.es))

/-- A barrier offset; 0xFFFF_FFFF means none. -/
def tbOf (o : Nat) : Option Nat := let t := o / 2 ^ 32 % 2 ^ 32
  if t = 2 ^ 32 - 1 then none else some t

/-- The four signed coordinates of a quad. -/
def coordsOf (q : Nat) : List Int := (List.range 4).map (fun j => signedOf (bitsOf q (32 * j) 32) 32)

def coordAt (c : List Int) (j : Nat) : Int := c.getD j 0

def cpyLdReq (b : List Byte) (q o : Nat) : Option EngReq :=
  let p := tensorP b
  let c := coordsOf q
  if tensorBad b false then none
  else some { k := .cpyLd b (coordAt c 0) (coordAt c 1) (coordAt c 2) (coordAt c 3) (o % 2 ^ 32) (tbOf o)
              scrW := [span (o % 2 ^ 32) (tileBytes p)], glbR := tileRuns p c }

def cpyStReq (b : List Byte) (q o : Nat) : Option EngReq :=
  let p := tensorP b
  let c := coordsOf q
  if tensorBad b false ∨ (tbOf o).isSome then none
  else some { k := .cpySt b (coordAt c 0) (coordAt c 1) (coordAt c 2) (coordAt c 3) (o % 2 ^ 32)
              scrR := [span (o % 2 ^ 32) (tileBytes p)], glbW := tileRuns p c }

def cpymReq (b : List Byte) (q o : Nat) : Option EngReq :=
  let p := tensorP b
  let c := coordsOf q
  if tensorBad b true ∨ (tbOf o).any (fun t => t % 8 != 0) then none
  else some { k := .cpym b (coordAt c 0) (coordAt c 1) (coordAt c 2) (coordAt c 3) (o % 2 ^ 32) (tbOf o)
              glbR := tileRuns p c }

/-- A run of bytes that is canonical and does not wrap (R98, R423). -/
def runOk (v : DWord) (n : Nat) : Bool :=
  let last := v + BitVec.ofNat 64 (n - 1)
  canonical v && canonical last && decide (v.toNat + n ≤ 2 ^ 64) && v.getLsbD 53 == last.getLsbD 53

/-- `bcpy` (R423): `c` is the pair SC, `mod` the issuer's module. -/
def bcpyReq (reg : Bool) (x y : DWord) (c mod_ : Nat) : Option EngReq :=
  let n := c % 2 ^ 32
  let a := bitsOf c 32 19
  if n = 0 ∨ !runOk x n ∨ !runOk y n ∨ c / 2 ^ 51 ≠ 0 then none
  else if reg then
    (if !agentValid a ∨ agentUnit a = 127 ∨ agentMod a ≠ mod_ then none
     else some { k := .bcpy x.toNat y.toNat n (some a), glbR := [(y, n)], glbW := [(x, n)] })
  else if a ≠ 0 then none
  else some { k := .bcpy x.toNat y.toNat n none, glbR := [(y, n)], glbW := [(x, n)] }

/-! ## Weight slots (R425, R426) -/

structure WldP where
  waddr : DWord
  saddr : DWord
  k : Nat
  n : Nat
  slot : Nat
  fmt : Nat
  deriving DecidableEq, Repr

def wldP (b : List Byte) : WldP :=
  { waddr := BitVec.ofNat 64 (fieldAt b 0 8), saddr := BitVec.ofNat 64 (fieldAt b 8 8), k := fieldAt b 16 4,
    n := fieldAt b 20 4, slot := fieldAt b 24 1, fmt := fieldAt b 25 1 }

def wldReq (b : List Byte) : Option EngReq :=
  let p := wldP b
  let bytes := p.n * engBytes p.fmt p.k
  if p.fmt ≠ 2 ∧ p.fmt ≠ 3 then none
  else if p.k % 32 ≠ 0 ∨ p.k < 32 ∨ 65536 < p.k ∨ p.n < 1 ∨ 65536 < p.n ∨ 127 < p.slot ∨ !zeroFrom b 26
    ∨ 33554432 < bytes + p.n * (p.k / 32) then none
  else some { k := .wld b, glbR := [(p.waddr, bytes), (p.saddr, p.n * (p.k / 32))] }

structure WmvP where
  xoff : Nat
  xsoff : Nat
  xstr : Nat
  yoff : Nat
  ystr : Nat
  n0 : Nat
  ncnt : Nat
  rows : Nat
  slot : Nat
  xfmt : Nat
  zero : Bool
  deriving DecidableEq, Repr

def wmvP (b : List Byte) : WmvP :=
  { xoff := fieldAt b 0 4, xsoff := fieldAt b 4 4, xstr := fieldAt b 8 4, yoff := fieldAt b 12 4, ystr := fieldAt b 16 4,
    n0 := fieldAt b 20 4, ncnt := fieldAt b 24 4, rows := fieldAt b 28 2, slot := fieldAt b 30 1, xfmt := fieldAt b 31 1,
    zero := bitOf (fieldAt b 32 1) 0 }

/-- KX: the largest K that a row of activations can hold. -/
def wmvKx (p : WmvP) : Nat := p.xstr * 8 / tyElemBits (engTy p.xfmt) / 32 * 32

def wmvReq (b : List Byte) : Option EngReq :=
  let p := wmvP b
  if 3 < p.xfmt ∨ p.xstr % 16 ≠ 0 ∨ p.xstr < engBytes p.xfmt 32 ∨ p.yoff % 16 ≠ 0 ∨ p.ystr % 16 ≠ 0
    ∨ p.ystr < 4 * p.ncnt ∨ 65535 < p.n0 ∨ p.ncnt < 1 ∨ 65536 < p.ncnt ∨ p.rows < 1 ∨ 64 < p.rows ∨ 127 < p.slot
    ∨ 2 ≤ fieldAt b 32 1 ∨ !zeroFrom b 33 then none
  else
    let y := span p.yoff ((p.rows - 1) * p.ystr + 4 * p.ncnt)
    some { k := .wmv b, scrR := [span p.xoff (p.rows * p.xstr), span p.xsoff (p.rows * (wmvKx p / 32))]
           accR := if p.zero then [] else [y], accW := [y] }

/-! ## Checks and issue (R406-R409) -/

/-- A precise trap of an engine instruction: FMASK holds lane l0 alone. -/
def engTrap (s : State) (id : Nat) (p : Path) (g : Guard) (l0 cause sub : Nat) (addr : DWord) (scr : Bool)
    (accloc : Nat) : State :=
  let w := getWave s id
  takeTrap s id { preciseTrap w p cause sub (entryMask w p g) (laneBit l0) addr with scr := scr, accloc := accloc }

/-- The first declared range outside the allocation: its SUB and offset (R225, R408 step 5). -/
def rangeFault (size : Nat) (r : EngReq) : Option (Nat × Nat) :=
  let out := fun (lim : Nat) (ws : List Range) (x : Range) => if lim < x.hi then some (b2n (ws.contains x), x.lo) else none
  firstSome (fun o => o) ((r.scrR ++ r.scrW).map (out size r.scrW) ++ (r.accR ++ r.accW).map (out (size / 2) r.accW))

/-- The lowest global byte that lacks its lease: cause, SUB and address (R408 step 6). -/
def globalFault (s : State) (w : Wave) (r : EngReq) : Option (Nat × Nat × DWord) :=
  let chk := fun (kind : LKind) (x : DWord × Nat) => (leaseCheck s w.asid w.taskId kind x.1 x.2).map (fun y =>
    (y.1, if y.1 = cLeaseViolation then kindCode kind else 0, y.2))
  minBy (fun y => y.2.2.toNat) (r.glbR.filterMap (chk .read) ++ r.glbW.filterMap (chk .write))

/-- The pages of a run, for the general core's check (R118). -/
def runPages (x : DWord × Nat) : List DWord :=
  let n := (x.1.toNat % 65536 + x.2 - 1) / 65536 + 1
  (List.range n).map (fun i => if i = 0 then x.1 else BitVec.ofNat 64 ((x.1.toNat / 65536 + i) * 65536))

/-- Step 6 on a general core: the pages read, then those written. -/
def threadPages (s : State) (id : Nat) (w : Wave) (p : Path) (e : Mask) (r : EngReq) : State × Chk :=
  let rd := r.glbR.flatMap runPages
  let q := permRange s w.node w.unit w.asid .read w.sup rd
  if q.2.isSome then threadCheck s id p e .read rd
  else threadCheck q.1 id p e .write (r.glbW.flatMap runPages)

/-- The next tag: the count skips 0 (R406). -/
def nextTag (t : Word) : Word := if t + 1 = 0 then 1 else t + 1

/-- The key of the core whose scoreboard holds a wave's commands. -/
def cmdCore (s : State) (w : Wave) : Nat :=
  match w.wg.bind (getWg s) with
  | some g => coreKey g.node g.unit
  | none => waveCore w

def shiftRange (o : Nat) (r : Range) : Range := { lo := o + r.lo, hi := o + r.hi }

/-- Entries of the range-lock table and of the scoreboard (R219, R229). -/
def lockEntries : Nat := 32
def scoreEntries : Nat := 64

/-- Whether a core has room for a command with n scratchpad ranges. -/
def engRoom (c : Core) (n : Nat) : Bool :=
  decide (c.score.length < scoreEntries) && decide (c.locks.length + n ≤ lockEntries)

/-- A command enters the scoreboard, takes its range locks and marks the lines that it will write (R219, R228,
R229). -/
def pushCmd (s : State) (ck : Nat) (c : Cmd) : State :=
  let lock := fun (w : Bool) (r : Range) =>
    ({ tag := c.tag, owner := c.wave.getD 0, lo := r.lo, hi := r.hi, write := w } : Lock)
  let s1 := modCore s ck (fun x => { x with score := x.score ++ [c],
                                            locks := x.locks ++ c.scrR.map (lock false) ++ c.scrW.map (lock true) })
  c.scrW.foldl (fun t r => markEmpty t ck r.lo (r.hi - r.lo) c.tag.toNat) s1

/-- A checked instruction retires and issues its command (R219, R229, R407). -/
def engIssue (s : State) (id : Nat) (p : Path) (f : GenF) (srcs : List Src) (r : EngReq) : State :=
  let w := getWave s id
  let ck := waveCore w
  let core := getCore s ck
  if !engRoom core (r.scrR.length + r.scrW.length) then opWait s id
  else
    let off := (scrAlloc s w).1
    let tag := nextTag (if w.general then w.tagCount else core.tagCount)
    let k := match r.k with
      | .mepi b _ => .mepi b w.rseed
      | x => x
    let c : Cmd :=
      { tag := tag, wave := some id, num := w.num, wg := w.wg, taskId := w.taskId, asid := w.asid,
        agent := waveAgent s w, off := off, k := k, scrR := r.scrR.map (shiftRange off),
        scrW := r.scrW.map (shiftRange off), accR := r.accR.map (shiftRange (off / 2)),
        accW := r.accW.map (shiftRange (off / 2)), general := w.general, sup := w.sup, accloc := r.accloc }
    let s1 := if w.general then setWave s id { w with tagCount := tag }
      else modCore s ck (fun x => { x with tagCount := tag })
    genResult (pushCmd s1 ck c) id p f 1 srcs tag.toNat

/-- Steps 5 and 6 of the checks, then the issue. -/
def engChecked (s : State) (id : Nat) (p : Path) (f : GenF) (l0 : Nat) (srcs : List Src) (r : EngReq) : State :=
  let w := getWave s id
  match rangeFault (scrAlloc s w).2 r with
  | some (sub, a) => engTrap s id p f.h.g l0 cLeaseViolation sub (BitVec.ofNat 64 a) true r.accloc
  | none =>
    if w.general then
      let c := threadPages s id w p (entryMask w p f.h.g) r
      match c.2 with
      | .ok => engIssue c.1 id p f srcs r
      | .wait => c.1
      | .trap t => takeTrap c.1 id t
    else match globalFault s w r with
      | some (cause, sub, a) => engTrap s id p f.h.g l0 cause sub a false r.accloc
      | none => engIssue s id p f srcs r

/-- The frame of an engine instruction: an empty E issues nothing; a detached wave traps. -/
def engFrame (i : Instr) (f : GenF) (s : State) (k : Nat → Wave → Path → Nat → State) : Out :=
  gate i s (fun id w p =>
    match lowestLane (workMask ⟨s, w, p⟩ f.h.g) with
    | none => .next (retireEmpty i s id w)
    | some l0 =>
      if w.home.isSome then .next (engTrap s id p f.h.g l0 cMigrate 0 0 false 0) else .next (k id w p l0))

/-- An engine instruction whose operands alone describe the command. -/
def engPlain (i : Instr) (f : GenF) (srcs : List Src) (req : Rd → Nat → Option EngReq) (s : State) : Out :=
  engFrame i f s (fun id w p l0 =>
    match req ⟨s, w, p⟩ l0 with
    | none => engTrap s id p f.h.g l0 cIllegalOpnd 4 0 false 0
    | some r => engChecked s id p f l0 srcs r)

/-- The barrier offset of a `cpy` is not 8-aligned (R244). -/
def cpyTbBad (r : EngReq) : Option Nat :=
  match r.k with
  | .cpyLd _ _ _ _ _ _ (some t) => if t % 8 ≠ 0 then some t else none
  | _ => none

/-- The barrier word of a `cpy` lies outside the allocation. -/
def cpyTbOut (size : Nat) (r : EngReq) : Option Nat :=
  match r.k with
  | .cpyLd _ _ _ _ _ _ (some t) => if size < t + 8 then some t else none
  | _ => none

/-- An engine instruction with a parameter block or descriptor in scratchpad: the block is read as an `lds` (R408). -/
def engBlock (i : Instr) (f : GenF) (srcs : List Src) (req : Rd → Nat → List Byte → Option EngReq) (s : State) : Out :=
  engFrame i f s (fun id w p l0 =>
    let x : Rd := ⟨s, w, p⟩
    let a := opnd32 x f.h.sa l0
    let al := scrAlloc s w
    let core := getCore s (waveCore w)
    let scrFault := fun (sub o : Nat) => engTrap s id p f.h.g l0 cLeaseViolation sub (BitVec.ofNat 64 o) true 0
    if a % 64 ≠ 0 then engTrap s id p f.h.g l0 cIllegalOpnd 4 0 false 0
    else if al.2 < a + 64 then scrFault 0 a
    else if touchesEmpty core (al.1 + a) 64 then opWait s id
    else if scrParity core (al.1 + a) 64 then engTrap s id p f.h.g l0 cEcc 4 (BitVec.ofNat 64 a) true 0
    else match req x l0 (bytesOfNat 64 (scrRead s (waveCore w) (al.1 + a) 64)) with
      | none => engTrap s id p f.h.g l0 cIllegalOpnd 4 0 false 0
      | some r => match cpyTbBad r with
        | some t => engTrap s id p f.h.g l0 cMisaligned 8 (BitVec.ofNat 64 t) true 0
        | none => match cpyTbOut al.2 r with
          | some t => scrFault 1 t
          | none => engChecked s id p f l0 srcs r)

def srcA (f : GenF) : List Src := [⟨f.h.sa, 1⟩]

def execMmx (f : GenF) (s : State) : Out := engBlock (.mmx f) f (srcA f) (fun _ _ b => mmxReq b) s
def execMepi (f : GenF) (s : State) : Out := engBlock (.mepi f) f (srcA f) (fun _ _ b => mepiReq b) s
def execWmv (f : GenF) (s : State) : Out := engBlock (.wmv f) f (srcA f) (fun _ _ b => wmvReq b) s
def execWld (f : GenF) (s : State) : Out := engBlock (.wld f) f (srcA f) (fun _ _ b => wldReq b) s

def srcCpy (f : GenF) : List Src := [⟨f.h.sa, 1⟩, ⟨f.h.sb, 4⟩, ⟨f.h.sc, 2⟩]

/-- The quad of coordinates and the pair of offsets. -/
def cpyArgs (f : GenF) (x : Rd) (l0 : Nat) : Nat × Nat := (opndWide x 4 f.h.sb l0, opnd64 x f.h.sc l0)

def execCpyLd (f : GenF) (s : State) : Out :=
  engBlock (.cpyLd f) f (srcCpy f) (fun x l0 b => cpyLdReq b (cpyArgs f x l0).1 (cpyArgs f x l0).2) s
def execCpySt (f : GenF) (s : State) : Out :=
  engBlock (.cpySt f) f (srcCpy f) (fun x l0 b => cpyStReq b (cpyArgs f x l0).1 (cpyArgs f x l0).2) s
def execCpym (f : GenF) (s : State) : Out :=
  engBlock (.cpym f) f (srcCpy f) (fun x l0 b => cpymReq b (cpyArgs f x l0).1 (cpyArgs f x l0).2) s

def execMmz (f : GenF) (s : State) : Out :=
  engPlain (.mmz f) f [⟨f.h.sa, 1⟩, ⟨f.h.sb, 1⟩] (fun x l => mmzReq (opnd32 x f.h.sa l) (opnd32 x f.h.sb l)) s

def srcMld (f : GenF) : List Src := [⟨f.h.sa, 1⟩, ⟨f.h.sb, 1⟩, ⟨f.h.sc, 1⟩]

def execMldA2s (f : GenF) (s : State) : Out :=
  engPlain (.mldA2s f) f (srcMld f)
    (fun x l => mldA2sReq (opnd32 x f.h.sa l) (opnd32 x f.h.sb l) (opnd32 x f.h.sc l)) s
def execMldS2a (f : GenF) (s : State) : Out :=
  engPlain (.mldS2a f) f (srcMld f)
    (fun x l => mldS2aReq (opnd32 x f.h.sa l) (opnd32 x f.h.sb l) (opnd32 x f.h.sc l)) s

def srcBcpy (f : GenF) : List Src := [⟨f.h.sa, 2⟩, ⟨f.h.sb, 2⟩, ⟨f.h.sc, 2⟩]

def bcpyArgs (reg : Bool) (f : GenF) (x : Rd) (l : Nat) : Option EngReq :=
  bcpyReq reg (BitVec.ofNat 64 (opnd64 x f.h.sa l)) (BitVec.ofNat 64 (opnd64 x f.h.sb l)) (opnd64 x f.h.sc l)
    x.s.mods.podId

def execBcpy (f : GenF) (s : State) : Out := engPlain (.bcpy f) f (srcBcpy f) (bcpyArgs false f) s
def execBcpyReg (f : GenF) (s : State) : Out := engPlain (.bcpyReg f) f (srcBcpy f) (bcpyArgs true f) s

/-! ## Completion lists: ewait, evpop (R411, R427, R428) -/

/-- The completion list of a wave's workgroup, or of a thread, and its LOST count. -/
def compList (s : State) (w : Wave) : List Comp × Nat :=
  if w.general then
    (w.comps.map (fun c => { tag := c.1, status := c.2.1, engine := c.2.2.1, wave := 0, addr := c.2.2.2 }), w.compLost)
  else match w.wg.bind (getWg s) with
    | some g => (g.comps, g.compLost)
    | none => ([], 0)

def setCompList (s : State) (id : Nat) (l : List Comp) (lost : Nat) : State :=
  let w := getWave s id
  if w.general then
    setWave s id { w with comps := l.map (fun c => (c.tag, c.status, c.engine, c.addr)), compLost := lost }
  else match w.wg with
    | some k => modWg s k (fun g => { g with comps := l, compLost := lost })
    | none => s

/-- Outstanding commands that `ewait` may name: those of the workgroup, or of the thread. -/
def ownCmds (s : State) (id : Nat) (w : Wave) : List Cmd :=
  (getCore s (cmdCore s w)).score.filter (fun c => if w.general then c.wave == some id else c.wg == w.wg && c.wg.isSome)

/-- The return of an `ewait`: the oldest entry among its tags; one that names a tag removes its entry. -/
def ewaitReturn (s : State) (id : Nat) (p : Path) (f : GenF) (tags : List Word) (keep : Bool) : State :=
  let w := getWave s id
  let l := compList s w
  match indexWhere (fun c => tags.contains c.tag) l.1 with
  | none => genResult s id p f 1 (srcA f) 0
  | some k =>
    let st := ((l.1[k]?).map (·.status)).getD 0
    genResult (if keep then s else setCompList s id (listErase l.1 k) l.2) id p f 1 (srcA f) st

def execEwait (f : GenF) (s : State) : Out :=
  onceGate (.ewait f) f.h.g s (fun id w p =>
    let x : Rd := ⟨s, w, p⟩
    let t : Word := BitVec.ofNat 32 (opnd32 x f.h.sa 0)
    match p.st with
    | .blocked (.ewait tags true) =>
      let q := { p with st := .live }
      ewaitReturn (setWave s id (setCurPath w (some q))) id q f tags (t == 0)
    | _ =>
      let mine := (ownCmds s id w).filter (fun c => if t = 0 then c.wave == some id else c.tag == t)
      if mine.isEmpty then ewaitReturn s id p f (if t = 0 then [] else [t]) (t == 0)
      else blockPath s id (.ewait (mine.map (·.tag)) false))

def execEvpop (f : GenF) (s : State) : Out :=
  onceGate (.evpop f) f.h.g s (fun id w p =>
    let l := compList s w
    let word1 := fun (c : Comp) => c.status + l.2 * 256 + c.engine * 65536 + c.wave * 2 ^ 24
    match l.1 with
    | [] => genResult (setCompList s id [] 0) id p f 4 [] (l.2 * 256 * 2 ^ 32)
    | c :: r => genResult (setCompList s id r 0) id p f 4 [] (c.tag.toNat + word1 c * 2 ^ 32 + c.addr.toNat * 2 ^ 64))

end Sys2Proof.Machine
end

