-- ==== Sys2Proof/Machine/EngRun.lean ====
section
/-! DEFINITION. Engine commands: reading, computing, writing, completing; multicast receivers and W-dies (R85, R93,
R171, R219, R228, R229, R246, R294-R296, R410-R426). -/

namespace Sys2Proof.Machine

/-! ## Status codes (R410) -/

def stRace : Nat := 1
def stPoison : Nat := 2
def stLease : Nat := 3
def stToken : Nat := 4
def stReplica : Nat := 5
def stDieLost : Nat := 6
def stModule : Nat := 7
def stParity : Nat := 8
def stAbsent : Nat := 9
def stEmpty : Nat := 10
def stBad : Nat := 11
def stKey : Nat := 12
def stShape : Nat := 13
def stDrop : Nat := 14
def stAborted : Nat := 15

/-- A condition met: its code, the SUB of its record, the first byte concerned. -/
abbrev Code := Nat × Nat × DWord

/-- The highest of several conditions; the first of equals (R410). -/
def worst (l : List Code) : Code := (maxBy (fun c => c.1) l).getD (0, 0, 0)

/-- What is added to the SUB of a POISON condition whose access found the error itself: its record is the uncorrectable
ECC (R268). -/
def foundSub : Nat := 16

/-- The condition of an error that a home or the memory behind it gives. -/
def errCode (e : AccErr) (a : DWord) : Code :=
  if e.cause = cDieLost then (if e.sub = 1 then (stModule, 1, a) else (stDieLost, e.sub, a))
  else if e.cause = cPoison then (stPoison, 0, a)
  else if e.cause = cEcc then (stPoison, foundSub + e.sub, a)
  else if e.cause = cToken then (stToken, 0, a)
  else if e.cause = cReplica then (stReplica, 0, a)
  else (stLease, 0, a)

/-- Cause of the fault record of a status (R410). -/
def statusCause (st : Nat) : Nat :=
  if st = stPoison then cPoison
  else if st = stLease then cLeaseLost
  else if st = stToken then cToken
  else if st = stReplica then cReplica
  else if st = stDieLost ∨ st = stModule then cDieLost
  else if st = stParity ∨ st = stBad then cEcc
  else cIllegalOpnd

/-- Engine number in a completion list (R428). -/
def engineOf : CmdK → Nat
  | .mmx _ | .mmz _ _ | .mepi _ _ | .mldA2s _ _ _ | .mldS2a _ _ _ => 0
  | .cpyLd .. | .cpySt .. | .cpym .. | .pre .. => 1
  | .bcpy .. => 2
  | .wmv _ | .wld _ => 3

/-! ## Global accesses of a command (R93, R114, R230) -/

/-- The node on which a command's core lies. -/
def cmdNode (c : Cmd) : Nat := agentNode c.agent

/-- The grant number that a command carries for an address: of a live part, else of one that covers it (R114). -/
def cmdGrant (s : State) (c : Cmd) (kind : LKind) (v : Nat) : Option (Nat × Nat) :=
  match carriedGrant s c.asid c.taskId kind v with
  | some g => some g
  | none => firstSome (fun p => if kindPermits p.1.kind kind && (partCover p.1 v).isSome
      then some (p.1.grantor, p.1.req) else none) (wavePartsOf s c.asid c.taskId)

/-- Whether the grantor of a byte honours the command's access; general cores hold no leases. -/
def cmdLeased (s : State) (c : Cmd) (kind : LKind) (v : Nat) : Bool :=
  c.general || (match cmdGrant s c kind v with
    | none => false
    | some g => grantLive s (some g))

/-- Whether a word that a region's owner holds is an agent's: its own, or one of its die that no other core of the die
holds (R68). -/
def wordOf (s : State) (home k w owner agent : Nat) : Bool :=
  owner == agent || (owner == dieAgent agent && home != agentNode agent &&
    (match proxyCore s (agentNode agent) k w with
      | some u => u == agentUnit agent
      | none => true))

/-- Words of a mask that a plain access of a command races for: at the home, or at its own die's LLC. Words of the agents of
`mine` are no race (R85, R93). -/
def cmdRaces (s : State) (home k : Nat) (mine : List Nat) (m : Mask) : Mask :=
  match findRegion s home (lineAsid k) (lineNo k) with
  | none => 0
  | some r =>
    if r.st = .draining then 0
    else maskOf (fun w => m.getLsbD w && wordSt s k w == .g && !mine.any (wordOf s home k w r.owner))

/-- The race reports of a command's access to a line: one, for its lowest racing word (R85, R86). -/
def cmdRaceReport (s : State) (home k : Nat) (c : Cmd) (m : Mask) (kind : Nat) : State :=
  match lowestLane m, findRegion s home (lineAsid k) (lineNo k) with
  | some w, some r =>
    let v := lineNo k * 128 + 4 * w
    if r.owner = dieAgent c.agent ∧ home ≠ cmdNode c then
      raceReport s (cmdNode c) c.asid v kind c.agent
        (agentId s (cmdNode c) ((proxyCore s (cmdNode c) k w).getD 0))
    else raceReport s home c.asid v kind c.agent r.owner
  | _, _ => s

/-- The checks at the home of one line's part of an access: the home and translation, or the condition met. -/
def cmdAccess (s : State) (c : Cmd) (kind : LKind) (k : Nat) (m : BitVec 128) :
    State × Except Code (Nat × Phys) :=
  let asid := lineAsid k
  let v := lineNo k * 128
  let a := maskAddr k m
  match homeAt s (cmdNode c) asid v with
  | none => (s, .error (stLease, 0, a))
  | some h =>
    if nodeLost s h then (s, .error (stDieLost, 0, a))
    else if (maskLanes (wordMask m)).any (fun w => !cmdLeased s c kind (v + 4 * w)) then (s, .error (stLease, 0, a))
    else
      let x := xlate s h asid v (accOf kind) c.sup
      match x.2 with
      | .error _ => (x.1, .error (stLease, 0, a))
      | .ok p => match physReach x.1 p with
        | some e => (x.1, .error (errCode e a))
        | none => (x.1, .ok (h, p))

/-- A line's bytes as a plain read of the issuing agent finds them, at one moment (R230). -/
def cmdReadLine (s : State) (c : Cmd) (k : Nat) (m : BitVec 128) : State × Line × List Code :=
  let asid := lineAsid k
  let words := wordMask m
  let a := cmdAccess s c .read k m
  match a.2 with
  | .error e => (a.1, {}, [e])
  | .ok (h, p0) =>
    let tok := maskOf (fun w => words.getLsbD w && !tokenAllows a.1 h asid (lineNo k * 128 + 4 * w) 4 c.agent)
    let z := maskOf (fun w => words.getLsbD w && wordSt a.1 k w == .z)
    let ze := if z = 0 then (a.1, ePoison) else zError a.1 k z
    let codes := (if tok = 0 then [] else [(stToken, 0, maskAddr k (m &&& byteMask tok))])
      ++ (if z = 0 then [] else [errCode ze.2 (maskAddr k (m &&& byteMask z))])
    let ok := words &&& ~~~tok &&& ~~~z
    let race := cmdRaces ze.1 h k [c.agent] ok
    let s1 := cmdRaceReport ze.1 h k c race 0
    let r := homeRead s1 h k (readCopy p0 h (cmdNode c)) ok
    let g := maskOf (fun w => ok.getLsbD w && wordSt r.1 k w == .g)
    let l := match wordOwner r.1 h asid (lineNo k) with
      | some o => latestLine r.1 o k g r.2
      | none => r.2
    let q := getLine r.1.l2 (l2Of (cmdNode c) (agentUnit c.agent)) k
    let mine := q.dirty &&& byteMask (ok &&& ~~~race)
    (r.1, lineOver l q mine false,
      codes ++ (if race = 0 then [] else [(stRace, 0, maskAddr k (m &&& byteMask race))]))

/-- Lines and bytes of runs of global memory. -/
def runMap (asid : Nat) (l : List (DWord × Nat)) : Tab (BitVec 128) :=
  l.foldl (fun t x => (accParts asid x.1 x.2).foldl (fun u y => Tab.put u y.1 (Tab.get 0 u y.1 ||| y.2)) t) []

/-- Stores of waves of a die to words of a line that no registration or acknowledgement has settled yet: what a command of
the die reads and writes there follows them (R235). -/
def diePends (s : State) (node k : Nat) (m : Mask) : Bool :=
  s.waves.any (fun e => e.2.node == node && pendsWords e.2 k m)

/-- Whether a home of some of these lines does not answer now, or earlier stores to them are still under way. -/
def cmdHeld (s : State) (c : Cmd) (l : Tab (BitVec 128)) : Bool :=
  l.any (fun e => diePends s (cmdNode c) e.1 (wordMask e.2) ||
    (match homeAt s (cmdNode c) (lineAsid e.1) (lineNo e.1 * 128) with
      | some h => homeHolds s (cmdNode c) h e.1
      | none => false))

def cmdReadLines (c : Cmd) (l : Tab (BitVec 128)) (s : State) : State × Tab Line × List Code :=
  l.foldl (fun (t : State × Tab Line × List Code) e =>
    let r := cmdReadLine t.1 c e.1 e.2
    (r.1, Tab.put t.2.1 e.1 r.2.1, t.2.2 ++ r.2.2)) (s, [], [])

/-- A write of a command: the agent that its words are registered to, none for words that become V (R93). -/
def cmdOwner (c : Cmd) : Option Nat :=
  match c.k with
  | .bcpy _ _ _ a => a
  | _ => some c.agent

/-- The kind of race report of a command's write (R86): a matrix engine's write is a plain store. -/
def cmdRaceKind (c : Cmd) : Nat := match c.k with
  | .mepi .. => 1
  | _ => 2

/-- Whether the tokens allow a copy into bytes (R93): the issuing core holds the token, and so does the agent that
`bcpy.reg` names. -/
def cmdTokenOk (s : State) (h asid lo : Nat) (c : Cmd) : Bool :=
  match findToken s h asid lo 4 with
  | none => true
  | some t => t.holder == some c.agent && (match cmdOwner c with
    | some a => t.holder == some a
    | none => true)

/-- The condition that refuses a write to a line's bytes. -/
def cmdWriteCheck (s : State) (c : Cmd) (k : Nat) (m : BitVec 128) : State × Option Code :=
  let a := cmdAccess s c .write k m
  match a.2 with
  | .error e => (a.1, some e)
  | .ok (h, p) =>
    let bad := maskOf (fun w => (wordMask m).getLsbD w && !cmdTokenOk a.1 h (lineAsid k) (lineNo k * 128 + 4 * w) c)
    if bad ≠ 0 then (a.1, some (stToken, 0, maskAddr k (m &&& byteMask bad)))
    else if p.repl ≠ 0 then (a.1, some (stReplica, 0, maskAddr k m))
    else (a.1, none)

/-- Bytes of a line written at their home, then REG_SET (R85, R93): the number of the request, when one is sent, and
the race found. -/
def cmdWriteLine (s : State) (c : Cmd) (k : Nat) (b : Line) : State × List Nat × List Code :=
  let asid := lineAsid k
  let m := wordMask b.valid
  let a := cmdAccess s c .write k b.valid
  match a.2 with
  | .error _ => (a.1, [], [])
  | .ok (h, p) =>
    let race := cmdRaces a.1 h k (c.agent :: (cmdOwner c).toList) m
    let s1 := cmdRaceReport a.1 h k c race (cmdRaceKind c)
    let s2 := (maskLanes race).foldl (fun t w => fireWatches t h asid (lineNo k * 128 + 4 * w) 4 1) s1
    let s3 := homeWrite (recallWords s2 h k p m) h k p b b.valid
    let s4 := dropCopies s3 c.agent k m h
    let codes := if race = 0 then [] else [(stRace, 0, maskAddr k (b.valid &&& byteMask race))]
    match cmdOwner c with
    | none => (s4, [], codes)
    | some o =>
      if p.uc then (s4, [], codes)
      else
        let r := freshReq s4
        let req : Req := { agent := c.agent, wave := c.wave.getD 0, id := r.2, sup := c.sup }
        (sendReq r.1 (cmdNode c) h .reg asid (lineNo k * 128) r.2 (.regSet req asid (lineNo k) m o false), [r.2], codes)

def cmdWriteLines (c : Cmd) (l : Tab Line) (s : State) : State × List Nat × List Code :=
  l.foldl (fun (t : State × List Nat × List Code) e =>
    let r := cmdWriteLine t.1 c e.1 e.2
    (r.1, t.2.1 ++ r.2.1, t.2.2 ++ r.2.2)) (s, [], [])

/-! ## What a command reads -/

def coords (c0 c1 c2 c3 : Int) : List Int := [c0, c1, c2, c3]

/-- The global runs that a command reads. -/
def cmdGlbR (k : CmdK) : List (DWord × Nat) :=
  match k with
  | .cpyLd d c0 c1 c2 c3 _ _ => tileRuns (tensorP d) (coords c0 c1 c2 c3)
  | .cpym d c0 c1 c2 c3 _ _ => tileRuns (tensorP d) (coords c0 c1 c2 c3)
  | .bcpy _ y n _ => [(BitVec.ofNat 64 y, n)]
  | .wld b => let p := wldP b
    [(p.waddr, p.n * engBytes p.fmt p.k), (p.saddr, p.n * (p.k / 32))]
  | .pre va _ n => [(BitVec.ofNat 64 va, n)]
  | _ => []

/-- Rows of n bytes at a stride. -/
def rowSpans (lo stride count n : Nat) : List Range := (List.range count).map (fun i => span (lo + i * stride) n)

/-- The scratchpad bytes that a command reads, counted from the allocation; `k` is the K of a `wmv`'s slot. -/
def cmdScrR (x : CmdK) (k : Nat) : List Range :=
  match x with
  | .mmx b => let p := mmxP b
    rowSpans p.aoff p.astr p.m (engBytes p.afmt p.k) ++ rowSpans p.boff p.bstr p.n (engBytes p.bfmt p.k)
      ++ (if engMx p.afmt then [span p.asoff (p.m * (p.k / 32))] else [])
      ++ (if engMx p.bfmt then [span p.bsoff (p.n * (p.k / 32))] else [])
  | .mepi b _ => let p := mepiP b
    if p.bias then [span p.boff (4 * p.cols)] else []
  | .mldS2a s _ n => [span s n]
  | .cpySt d c0 c1 c2 c3 s => let p := tensorP d
    (tileRows p (coords c0 c1 c2 c3)).filterMap (fun r =>
      if r.count = 0 then none else some (span (s + r.at_ + r.first * p.es) (r.count * p.es)))
  | .wmv b => let p := wmvP b
    rowSpans p.xoff p.xstr p.rows (engBytes p.xfmt k) ++ [span p.xsoff (p.rows * (k / 32))]
  | _ => []

/-- The accumulator bytes that a command reads. -/
def cmdAccR (x : CmdK) : List Range :=
  match x with
  | .mmx b => let p := mmxP b
    if p.zero then [] else rowSpans p.coff p.cstr p.m (4 * p.n)
  | .mepi b _ => let p := mepiP b
    rowSpans p.coff p.cstr p.rows (4 * p.cols)
  | .mldA2s _ a n => [span a n]
  | .wmv b => let p := wmvP b
    if p.zero then [] else rowSpans p.yoff p.ystr p.rows (4 * p.ncnt)
  | _ => []

/-- The bytes of ranges, from a table of a core; `o` is the base of the allocation. -/
def grabBytes (t : Tab Byte) (o : Nat) (l : List Range) : Tab Byte :=
  t.filter (fun e => l.any (fun r => decide (o + r.lo ≤ e.1) && decide (e.1 < o + r.hi)))

/-- A byte in parity error among those read: its offset (R269). -/
def grabParity (bad : List Nat) (o : Nat) (l : List Range) (sub : Nat) : List Code :=
  match minBy (fun b => b) (bad.filter (fun b => l.any (fun r => decide (o + r.lo ≤ b) && decide (b < o + r.hi)))) with
  | none => []
  | some b => [(stParity, sub, BitVec.ofNat 64 (b - o))]

/-- A command reads all that it reads, at one moment. -/
def cmdRead (s : State) (ck : Nat) (c : Cmd) (k : Nat) : State × CmdIn :=
  let core := getCore s ck
  let sr := cmdScrR c.k k
  let ar := cmdAccR c.k
  let g := cmdReadLines c (runMap c.asid (cmdGlbR c.k)) s
  let bad := grabParity core.badScr c.off sr 4 ++ grabParity core.badAcc (c.off / 2) ar 5
  let inp : CmdIn :=
    { scr := grabBytes core.scr c.off sr, acc := grabBytes core.acc (c.off / 2) ar, glb := g.2.1, codes := bad ++ g.2.2 }
  (bad.foldl (fun t x => countUe t (cmdNode c) x.2.1) g.1, inp)

/-! ## Arithmetic (R294-R296, R414, R417, R420, R426) -/

/-- Byte `a` of the scratchpad or accumulator allocation as a command read it. -/
def inScr (c : Cmd) (i : CmdIn) (a : Nat) : Byte := Tab.get 0 i.scr (c.off + a)
def inAcc (c : Cmd) (i : CmdIn) (a : Nat) : Byte := Tab.get 0 i.acc (c.off / 2 + a)

/-- A global byte as a command read it. -/
def inGlb (c : Cmd) (i : CmdIn) (va : DWord) : Byte :=
  lineByte (Tab.get {} i.glb (lineKey (asidOf c.asid va) (va54 va / 128))) (va54 va % 128)

def bytesAt (rd : Nat → Byte) (a n : Nat) : Nat := natOfBytes ((List.range n).map (fun i => rd (a + i)))

/-- Element j of a packed row at an address (R281). -/
def packedElem (rd : Nat → Byte) (t : Ty) (a j : Nat) : Nat :=
  if tyElemBits t = 4 then bitsOf (rd (a + j / 2)).toNat (4 * (j % 2)) 4
  else bytesAt rd (a + j * (tyElemBits t / 8)) (tyElemBits t / 8)

/-- The exact block product P of elements and scales (R294, R295). -/
def blockDot (a b : Nat → Val) (ca cb : Nat) : Val :=
  if ca = 255 ∨ cb = 255 then .nan false
  else scaleVal (dotVal .rne ((List.range 32).map (fun j => (a j, b j))) []).1 ((ca : Int) + cb - 254)

/-- RoundTo(c + x, FP32, RNE) on codes; `x` is exact. -/
def accAdd (c : Nat) (x : Val) : Nat := (roundVal .fp32 rneMode (sumVal .rne [valOf .fp32 c, x]).1).1

/-- An operand of the matrix engine: element and scale readers of row r. -/
structure MxRow where
  elem : Nat → Val
  scale : Nat → Nat

/-- Row r of packed elements with its scales. -/
def mxRow (rd : Nat → Byte) (fmt base stride sbase blocks r : Nat) : MxRow :=
  { elem := fun j => elemVal (engTy fmt) (packedElem rd (engTy fmt) (base + r * stride) j),
    scale := fun b => if engMx fmt then (rd (sbase + r * blocks + b)).toNat else 127 }

/-- The product of one block of two rows. -/
def rowBlock (a b : MxRow) (i : Nat) : Val :=
  blockDot (fun j => a.elem (32 * i + j)) (fun j => b.elem (32 * i + j)) (a.scale i) (b.scale i)

/-- Element C(m, n) of an `mmx` (R414). -/
def mmxElem (c : Cmd) (i : CmdIn) (p : MmxP) (m n : Nat) : Nat :=
  let a := mxRow (inScr c i) p.afmt p.aoff p.astr p.asoff (p.k / 32) m
  let b := mxRow (inScr c i) p.bfmt p.boff p.bstr p.bsoff (p.k / 32) n
  let c0 := if p.zero then 0 else bytesAt (inAcc c i) (p.coff + m * p.cstr + 4 * n) 4
  (List.range (p.k / 32)).foldl (fun y t => accAdd y (rowBlock a b t)) c0

/-- Bytes to be written: at an offset of the allocation. -/
abbrev Put := Nat × List Byte

def mmxPuts (c : Cmd) (i : CmdIn) (p : MmxP) : List Put :=
  (List.range p.m).flatMap (fun m => (List.range p.n).map (fun n =>
    (p.coff + m * p.cstr + 4 * n, bytesOfNat 4 (mmxElem c i p m n))))

/-- Element Y[m][n] of a `mepi` (R417). -/
def mepiElem (c : Cmd) (i : CmdIn) (p : MepiP) (m n : Nat) : Nat :=
  let x := valOf .fp32 (bytesAt (inAcc c i) (p.coff + m * p.cstr + 4 * n) 4)
  let a := if p.alphaOn then valOf .fp32 p.alpha else .num false 1 0
  let prod := mulVal a x
  let y := if p.bias then
      (roundVal .fp32 rneMode (fmaVal .rne a x (valOf .fp32 (bytesAt (inScr c i) (p.boff + 4 * n) 4))).1).1
    else (roundVal .fp32 rneMode prod.1).1
  let v := valOf .fp32 y
  if p.relu ∧ !valIsNan v ∧ (valSign v ∨ valIsZero v) then 0 else y

/-- Codes packed into bytes by R281. -/
def packCodes (t : Ty) (l : List Nat) : List Byte :=
  let bits := tyElemBits t
  bytesOfNat (l.length * bits / 8) (l.reverse.foldl (fun a c => a * 2 ^ bits + c) 0)

def rndAt : Nat → Rnd
  | 0 => .rne | 1 => .rtz | 2 => .rdn | 3 => .rup | 4 => .rna | _ => .rs

/-- The rounding of element (m, n) of the output tile (R289, R417). -/
def mepiMode (p : MepiP) (rseed : Word) (m n : Nat) : RMode :=
  { rnd := rndAt p.rnd, sat := p.sat, hash := srHash rseed (m * 256 + n) }

/-- A row of D and of the scale array (R283, R284, R417). -/
def mepiRowBytes (c : Cmd) (i : CmdIn) (p : MepiP) (rseed : Word) (m : Nat) : List Byte × List Byte :=
  let t := outTy p.ofmt
  let ys := (List.range p.cols).map (mepiElem c i p m)
  if p.ofmt = 0 then (packCodes .f32 ys, [])
  else if !outMx p.ofmt then
    (packCodes t ((List.range p.cols).map (fun n =>
      (roundVal (tyFmt t) (mepiMode p rseed m n) (valOf .fp32 (ys.getD n 0))).1)), [])
  else
    let groups := (List.range (p.cols / 32)).map (fun g =>
      let vs := (List.range 32).map (fun j => valOf .fp32 (ys.getD (32 * g + j) 0))
      let sc := (mxScale t vs).1
      (sc, (List.range 32).map (fun j =>
        (mxElem t (mepiMode p rseed m (32 * g + j)) sc (vs.all valIsZero) (vs.getD j (valZero false))).1)))
    (packCodes t (groups.flatMap Prod.snd), groups.map (fun g => BitVec.ofNat 8 g.1))

/-- The bytes of a tile in ascending order (R420). -/
def tileData (c : Cmd) (i : CmdIn) (p : TensorP) (cs : List Int) : List Byte :=
  (tileRows p cs).flatMap (fun r => (List.range (boxOf p 0)).flatMap (fun i0 =>
    (List.range p.es).map (fun j =>
      if r.first ≤ i0 ∧ i0 < r.first + r.count then
        inGlb c i (r.va + BitVec.ofNat 64 ((i0 - r.first) * p.es + j))
      else BitVec.ofNat 8 (p.fill / 2 ^ (8 * (j % 4))))))

/-- Y after a `wmv`: each element's chunk partials are added in ascending order (R296, R426). -/
def wmvPuts (c : Cmd) (i : CmdIn) (p : WmvP) (parts : List (List Word)) : List Put :=
  (List.range p.rows).flatMap (fun r => (List.range p.ncnt).map (fun j =>
    let a := p.yoff + r * p.ystr + 4 * j
    let y0 := if p.zero then 0 else bytesAt (inAcc c i) a 4
    (a, bytesOfNat 4 ((parts.getD (r * p.ncnt + j) []).foldl (fun y x => accAdd y (valOf .fp32 x.toNat)) y0))))

/-- What a command writes: scratchpad, accumulator, global memory. -/
structure CmdOut where
  scr : List Put := []
  acc : List Put := []
  glb : List (DWord × List Byte) := []

/-- The effect of a command from what it read (R414-R426). Where D and the scale array of a `mepi` share bytes, the spec
does not say which stands: `d` puts D last. -/
def cmdOut (c : Cmd) (i : CmdIn) (d : Bool) : CmdOut :=
  match c.k with
  | .mmx b => { acc := mmxPuts c i (mmxP b) }
  | .mmz a n => { acc := [(a, List.replicate n 0)] }
  | .mepi b rseed =>
    let p := mepiP b
    let rows := (List.range p.rows).map (fun m => (m, mepiRowBytes c i p rseed m))
    let ds := rows.map (fun r => (mepiRow p r.1, r.2.1))
    let ss := if outMx p.ofmt then rows.map (fun r => (mepiScale p r.1, r.2.2)) else []
    { glb := if d then ss ++ ds else ds ++ ss }
  | .mldA2s s a n => { scr := [(s, (List.range n).map (fun j => inAcc c i (a + j)))] }
  | .mldS2a s a n => { acc := [(a, (List.range n).map (fun j => inScr c i (s + j)))] }
  | .cpyLd b c0 c1 c2 c3 s _ => { scr := [(s, tileData c i (tensorP b) (coords c0 c1 c2 c3))] }
  | .cpySt b c0 c1 c2 c3 s =>
    let p := tensorP b
    { glb := (tileRows p (coords c0 c1 c2 c3)).filterMap (fun r => if r.count = 0 then none
        else some (r.va, (List.range (r.count * p.es)).map (fun j => inScr c i (s + r.at_ + r.first * p.es + j)))) }
  | .cpym .. => {}
  | .bcpy x y n _ => { glb := [(BitVec.ofNat 64 x, (List.range n).map (fun j => inGlb c i (BitVec.ofNat 64 (y + j))))] }
  | .wmv b => match c.served with
    | some (0, parts) => { acc := wmvPuts c i (wmvP b) parts }
    | _ => {}
  | .wld _ => {}
  | .pre va s n => { scr := [(s, (List.range n).map (fun j => inGlb c i (BitVec.ofNat 64 (va + j))))] }

/-! ## Completion (R228, R245, R410, R411) -/

def cmdTask (s : State) (c : Cmd) : Word × Nat :=
  match c.wave.bind (fun w => if waveExists s w then some (getWave s w) else none) with
  | some w => (w.task, w.ttype)
  | none => match c.taskId.bind (getTask s) with
    | some t => (taskWord t, taskType t.rec_ + t.variant * 16384)
    | none => (0, 0)

/-- The fault record of a completion (R254 origin 7, R410). -/
def cmdRecord (s : State) (c : Cmd) (st sub : Nat) (a : DWord) : FaultInfo :=
  let t := cmdTask s c
  { cause := if st = stPoison ∧ foundSub ≤ sub then cEcc else statusCause st,
    sub := if st = stPoison then sub % foundSub else if statusCause st = cIllegalOpnd then 4 else if st = stBad then 0 else if st = stModule then 1 else sub,
    origin := 7, addr := a, agent := c.agent, asid := c.asid, wave := c.num, task := t.1, ttype := t.2,
    accloc := c.accloc }

/-- A mark goes from empty lines; they become full when no other command marks them (R228, R246). -/
def unmarkLines (s : State) (ck : Nat) (ls : List Nat) (mark : Nat) : State :=
  modCore s ck (fun x => { x with empty := ls.foldl (fun t i =>
    let rest := (Tab.get [] t i).filter (fun y => y != mark)
    if rest.all (fun y => y == 0) then Tab.erase t i else Tab.put t i rest) x.empty })

/-- The marks of a command that has ended go. -/
def unmarkEmpty (s : State) (ck : Nat) (c : Cmd) : State :=
  unmarkLines s ck (c.scrW.flatMap (fun r => linesOf r.lo (r.hi - r.lo))).eraseDups c.tag.toNat

/-- A completion with a status other than OK enters the list of its workgroup or thread (R411). -/
def listCompletion (s : State) (c : Cmd) (st : Nat) (a : DWord) : State :=
  let e : Comp := { tag := c.tag, status := st, engine := engineOf c.k, wave := c.num, addr := a }
  let add := fun (l : List Comp) (lost : Nat) =>
    if 64 ≤ l.length then (l.drop 1 ++ [e], satInc 8 lost 1) else (l ++ [e], lost)
  if c.general then
    match c.wave with
    | none => s
    | some w =>
      let l := compList s (getWave s w)
      let r := add l.1 l.2
      setCompList s w r.1 r.2
  else match c.wg with
    | none => s
    | some k => modWg s k (fun (g : Workgroup) =>
      let r := add g.comps g.compLost
      { g with comps := r.1, compLost := r.2 })

/-- Paths that wait in `ewait` for none but completed commands of a core go on (R427). -/
def wakeEwaits (s : State) (ck : Nat) : State :=
  let left := (getCore s ck).score.map (·.tag)
  { s with waves := Tab.mapVals (fun _ (w : Wave) =>
      if cmdCore s w ≠ ck then w
      else mapPaths (fun p => match p.st with
        | .blocked (.ewait tags _) =>
          if tags.any (fun t => left.contains t) then p else { p with st := .blocked (.ewait tags true) }
        | _ => p) w) s.waves }

/-- Bytes written to the accumulator memory of a core. -/
def accWrite (s : State) (ck a : Nat) (l : List Byte) : State :=
  modCore s ck (fun c =>
    { c with acc := (List.range l.length).foldl (fun t i => Tab.set 0 t (a + i) (byteAt l i)) c.acc,
             badAcc := c.badAcc.filter (fun b => !(decide (a ≤ b) && decide (b < a + l.length))) })

/-- The effects that follow the acknowledgement of every write: CLEAR, the latch, the post to the barrier (R245, R414,
R418). -/
def cmdAfter (s : State) (ck : Nat) (c : Cmd) (st : Nat) : State :=
  match c.k with
  | .mepi b _ =>
    let p := mepiP b
    if p.clear ∧ st ≤ stRace then
      (rowSpans p.coff p.cstr p.rows (4 * p.cols)).foldl (fun t r =>
        accWrite t ck (c.off / 2 + r.lo) (List.replicate (r.hi - r.lo) 0)) s
    else s
  | .mmx b =>
    let p := mmxP b
    if p.reuse ∧ st = 0 then
      let fields := [c.off + p.boff, p.bstr, c.off + p.bsoff, p.bfmt, p.k, p.n]
      let from_ := [span (c.off + p.boff) ((p.n - 1) * p.bstr + engBytes p.bfmt p.k)]
        ++ (if engMx p.bfmt then [span (c.off + p.bsoff) (p.n * (p.k / 32))] else [])
      modCore s ck (fun x => { x with latch := some (fields, from_) })
    else s
  | .cpyLd b _ _ _ _ _ (some t) => match c.wg with
    | some k => tbUpdate s k t .wg [] (tbPost (tileBytes (tensorP b)))
    | none => s
  | _ => s

/-- A command completes with a status (R219, R228, R229, R410, R411). -/
def finishCmd (s : State) (ck : Nat) (c : Cmd) (e : Code) : State :=
  let st := e.1
  let s1 := modCore s ck (fun x => { x with score := x.score.filter (fun y => y.tag != c.tag),
                                            locks := x.locks.filter (fun y => y.tag != c.tag), idleSince := s.time })
  let s2 := unmarkEmpty s1 ck c
  let s3 := if st = stAborted then s2 else cmdAfter s2 ck c st
  let s4 := if st = 0 then s3 else listCompletion s3 c st e.2.2
  let s5 := if st ≤ stRace ∨ st = stAborted then s4 else (postFault s4 (cmdRecord s4 c st e.2.1 e.2.2) none).1
  let s6 := { s5 with conts := s5.conts.map (fun x =>
      if x.ready.isNone && x.tag == c.tag && c.wave == some x.owner then { x with ready := some (nodeTime s5 x.die) } else x) }
  let s7 := wakeEwaits (if st = stAborted then s6 else progress s6 c.taskId) ck
  match c.wg with
  | some k => soloDone (stopProgress s7 k) k
  | none => s7

/-- Whether a byte of a failed command's destination takes its new value (R410). -/
def tornNew (s : State) (space a : Nat) : Bool := Config.tornByte s.free (4 * a + space)

/-- Bytes put at an offset: all of them, or for a failed command those that the free value chooses. -/
def putScr (s : State) (ck o : Nat) (torn : Bool) (x : Put) : State :=
  if torn then (List.range x.2.length).foldl (fun t i =>
    if tornNew s 0 (o + x.1 + i) then scrWrite t ck (o + x.1 + i) [byteAt x.2 i] else t) s
  else scrWrite s ck (o + x.1) x.2

def putAcc (s : State) (ck o : Nat) (torn : Bool) (x : Put) : State :=
  if torn then (List.range x.2.length).foldl (fun t i =>
    if tornNew s 1 (o + x.1 + i) then accWrite t ck (o + x.1 + i) [byteAt x.2 i] else t) s
  else accWrite s ck (o + x.1) x.2

/-- The global bytes of a command by line; later runs stand over earlier ones (R417). -/
def glbLines (asid : Nat) (l : List (DWord × List Byte)) : Tab Line :=
  l.foldl (fun t x => (storeParts asid x.1 x.2).foldl (fun u y =>
    Tab.put u y.1 (lineOver (Tab.get {} u y.1) y.2 y.2.valid true)) t) []

/-- The lines of a failed command's writes: bytes that keep their old value are left out. -/
def tornLine (s : State) (k : Nat) (l : Line) : Line :=
  lineOnly l ((List.range 128).foldl (fun a i =>
    if tornNew s 2 (lineNo k * 128 + i) then a ||| ((1#128) <<< i) else a) 0)

/-- The multicast of a `cpym`: a message to each receiver of the mask, each with a number (R246, R422). -/
def cmdMcast (s : State) (c : Cmd) (i : CmdIn) (torn : Bool) : State × List Nat :=
  match c.k with
  | .cpym b c0 c1 c2 c3 o tb =>
    let p := tensorP b
    let l := tileData c i p (coords c0 c1 c2 c3)
    ((List.range 48).filter (fun u => bitOf p.mask u)).foldl (fun (t : State × List Nat) u =>
      let r := freshReq t.1
      let bytes := (List.range l.length).map (fun j =>
        if torn && !tornNew s 0 (j * 64 + u) then none else some (byteAt l j))
      (send r.1 (cmdNode c) (cmdNode c) .bulk 0 (.mcast u c.asid o bytes tb r.2), t.2 ++ [r.2])) (s, [])
  | _ => (s, [])

/-- A command has read what it reads: its effects are made (R409, R410). -/
def cmdEffects (s : State) (ck : Nat) (c : Cmd) (i : CmdIn) : State :=
  let out := cmdOut c i (Config.tornByte s.free 3)
  let lines := glbLines c.asid out.glb
  let chk := lines.foldl (fun (t : State × Tab Line × List Code) e =>
    let r := cmdWriteCheck t.1 c e.1 e.2.valid
    match r.2 with
    | none => (r.1, Tab.put t.2.1 e.1 e.2, t.2.2)
    | some x => (r.1, t.2.1, t.2.2 ++ [x])) (s, [], i.codes)
  let slot : List Code := match c.served with
    | some (st, _) => if st = 0 then [] else [(st, 0, 0)]
    | none => []
  let e0 := worst (chk.2.2 ++ slot)
  let torn := decide (stRace < e0.1)
  let s1 := out.scr.foldl (fun t x => putScr t ck c.off torn x) chk.1
  let s2 := out.acc.foldl (fun t x => putAcc t ck (c.off / 2) torn x) s1
  let w := cmdWriteLines c (if torn then (chk.2.1.map (fun x => (x.1, tornLine s2 x.1 x.2))).filter (fun x =>
    x.2.valid != 0) else chk.2.1) s2
  let m := cmdMcast w.1 c i torn
  let e := worst (chk.2.2 ++ slot ++ w.2.2)
  let regs := w.2.1 ++ m.2
  if regs.isEmpty then finishCmd m.1 ck c e
  else modCore m.1 ck (fun x => { x with score := x.score.map (fun y =>
    if y.tag == c.tag then { y with written := true, regs := regs, status := e.1, sub := e.2.1, addr := e.2.2 } else y) })

/-! ## The events -/

def findCmd (s : State) (ck : Nat) (tag : Word) : Option Cmd := (getCore s ck).score.find? (fun c => c.tag == tag)

def modCmd (s : State) (ck : Nat) (tag : Word) (f : Cmd → Cmd) : State :=
  modCore s ck (fun x => { x with score := x.score.map (fun y => if y.tag == tag then f y else y) })

/-- The engines of a node run: it is up, not halted, its clock runs (R22, R61). -/
def engRuns (s : State) (n : Nat) : Bool :=
  let x := getNode s n
  !x.halt && !nodeLost s n && !x.busy && !s.mods.disconnected

def overlaps (a b : List Range) : Bool := a.any (fun x => b.any (fun y => decide (x.lo < y.hi) && decide (y.lo < x.hi)))

/-- An older command lets a newer one start (R219). -/
def letsStart (o c : Cmd) : Bool :=
  !overlaps o.scrW (c.scrR ++ c.scrW) && !overlaps o.accW (c.accR ++ c.accW)
    && (o.inp.isSome || (!overlaps o.scrR c.scrW && !overlaps o.accR c.accW))

/-- The slot that a `wmv` or `wld` names. -/
def slotOf : CmdK → Option Nat
  | .wmv b => some (wmvP b).slot
  | .wld b => some (wldP b).slot
  | _ => none

/-- The W-die of a slot of a token die, when the die has one that is in service (R15, R424). -/
def wdieOf (s : State) (node slot : Nat) : Option Nat :=
  if 24 ≤ node ∧ node < 32 ∧ slot < 128 then
    let d := 2 * (node - 24) + slot / 64
    if nodeActive s (32 + d) then some d else none
  else none

/-- A `wmv` or `wld` reaches its W-die. -/
def reachWdie (s : State) (ck : Nat) (c : Cmd) : State :=
  match slotOf c.k with
  | none => s
  | some sl => match wdieOf s (cmdNode c) sl with
    | none => modCmd s ck c.tag (fun x => { x with served := some (stAbsent, []) })
    | some d => modWdie s d (fun w => { w with ops := w.ops ++ [(ck, c.tag)] })

/-- ENGINE_CMD_START (R219). -/
def execEngineCmdStart (core tag : Nat) (s : State) : Out :=
  let t : Word := BitVec.ofNat 32 tag
  let older := (getCore s core).score.takeWhile (fun c => c.tag != t)
  match findCmd s core t with
  | none => .next s
  | some c =>
    if c.started ∨ !engRuns s (cmdNode c) ∨ !older.all (fun o => letsStart o c) then .next s
    else .next (reachWdie (modCmd s core t (fun x => { x with started := true })) core c)

/-- A command has finished reading: the entries of its read ranges are free (R229). -/
def unlockReads (s : State) (ck : Nat) (tag : Word) : State :=
  modCore s ck (fun x => { x with locks := x.locks.filter (fun y => y.tag != tag || y.write) })

/-- A command finishes reading: its read ranges are unlocked (R219, R229). -/
def engineReads (s : State) (core tag : Nat) : State :=
  let t : Word := BitVec.ofNat 32 tag
  match findCmd s core t with
  | none => s
  | some c =>
    if !c.started ∨ c.inp.isSome ∨ !engRuns s (cmdNode c) ∨ (slotOf c.k).isSome
      ∨ cmdHeld s c (runMap c.asid (cmdGlbR c.k)) then s
    else
      let r := cmdRead s core c 0
      unlockReads (modCmd r.1 core t (fun x => { x with inp := some r.2 })) core t

/-- An operation whose W-die has gone out of service is answered for it (R424). -/
def slotGone (s : State) (ck : Nat) (c : Cmd) : Option Cmd :=
  match slotOf c.k with
  | none => some c
  | some sl =>
    if c.served.isSome then some c
    else match wdieOf s (cmdNode c) sl with
      | some d => if (getWdie s d).ops.contains (ck, c.tag) then none else some { c with served := some (stAbsent, []) }
      | none => some { c with served := some (stAbsent, []) }

/-- ENGINE_CMD_COMPLETE (R410): the effects, then, when their acknowledgements are in, the completion. -/
def execEngineCmdComplete (core tag : Nat) (s : State) : Out :=
  let t : Word := BitVec.ofNat 32 tag
  match findCmd s core t with
  | none => .next s
  | some c0 =>
    if !c0.started ∨ !engRuns s (cmdNode c0) then .next s
    else if c0.written then
      (if c0.regs.isEmpty then .next (finishCmd s core c0 (c0.status, c0.sub, c0.addr)) else .next s)
    else match slotGone s core c0 with
      | none => .next s
      | some c =>
        let reads := if c.inp.isSome ∨ (slotOf c.k).isSome then [] else runMap c.asid (cmdGlbR c.k)
        let i0 := c.inp.getD {}
        let writes := (cmdOut c i0 false).glb.map (fun x => (x.1, x.2.length))
        if cmdHeld s c reads ∨ cmdHeld s c (runMap c.asid writes) then .next s
        else match c.inp with
          | some i => .next (cmdEffects s core c i)
          | none =>
            if (slotOf c.k).isSome then .next (cmdEffects s core c {})
            else
              let r := cmdRead s core c 0
              .next (cmdEffects r.1 core c r.2)

/-! ## Multicast receivers (R246, R422) -/

/-- The workgroup of a core and context in whose live allocation bytes of the scratchpad lie. -/
def allocOwner (s : State) (node unit asid a n : Nat) : Option (Nat × Workgroup) :=
  s.wgs.find? (fun e =>
    let g := e.2
    let live := match g.st with
      | .resident | .halting _ _ _ => true
      | _ => false
    live && g.node == node && g.unit == unit && g.asid == asid && decide (g.off ≤ a) && decide (a + n ≤ g.off + g.scratch))

/-- The mark of a multicast's copy on the lines of its receiver: no tag of a command. -/
def mcastMark (id : Nat) : Nat := 2 ^ 32 + id

/-- A copy arrives: the receiver's destination lines become empty (R246). -/
def mcastArrive (s : State) (node unit asid o n id : Nat) : State :=
  match allocOwner s node unit asid o n with
  | none => s
  | some _ => markEmpty s (coreKey node unit) o n (mcastMark id)

/-- A receiver writes its copy, its lines are full, and it posts; or it discards both. -/
def mcastAt (s : State) (node unit asid o : Nat) (bytes : List (Option Byte)) (tb : Option Nat) (id : Nat) : State :=
  match allocOwner s node unit asid o bytes.length with
  | none => cmdRegDone s id (some (stDrop, BitVec.ofNat 64 o))
  | some _ =>
    let ck := coreKey node unit
    let s1 : State := (List.range bytes.length).foldl (fun (t : State) i => match bytes.getD i none with
      | some b => scrWrite t ck (o + i) [b]
      | none => t) s
    let s2 := unmarkLines s1 ck (linesOf o bytes.length) (mcastMark id)
    let s3 := match tb.bind (tbOwner s2 node unit asid) with
      | some (k, off) => tbUpdate s2 k off .wg [] (tbPost bytes.length)
      | none => s2
    cmdRegDone s3 id none

def serveMcast (s : State) (n : Nat) : State :=
  match servable s n with
  | some p => if (getNode s p.dst).busy then s else match p.msg with
    | .mcast unit asid o bytes tb id =>
      if p.arrived then mcastAt (takeMsg s n) p.dst unit asid o bytes tb id
      else mcastArrive { s with net := { s.net with inbox := listModify s.net.inbox n (fun q => { q with arrived := true }) } }
        p.dst unit asid o bytes.length id
    | _ => s
  | none => s

/-- CPYM_RECEIVER_WRITE (R246, R422): the copy's arrival marks the lines, then its bytes are written. -/
def execCpymReceiverWrite (n : Nat) (s : State) : Out := .next (serveMcast s n)

/-! ## W-dies (R424-R426) -/

/-- The conditions that a slot gives a `wmv`: the highest stands (R410, R426). -/
def wmvStatus (s : State) (c : Cmd) (p : WmvP) (x : WSlot) : Nat :=
  if x.st = .empty then stEmpty
  else
    let bad := if x.st = .bad then stBad else 0
    let key := if x.key ≠ (getCtx s c.asid).slot then stKey else 0
    let shape := if wmvKx p < x.k ∨ x.n < p.n0 + p.ncnt then stShape else 0
    max bad (max key shape)

/-- The partials of row r against column n of a slot, one for each chunk of 32 blocks (R296). -/
def wmvPartials (c : Cmd) (i : CmdIn) (p : WmvP) (x : WSlot) (r n : Nat) : List Word :=
  let a := mxRow (inScr c i) p.xfmt p.xoff p.xstr p.xsoff (x.k / 32) r
  let b := mxRow (fun q => Tab.get 0 x.weights q) x.fmt 0 (engBytes x.fmt x.k) 0 (x.k / 32) n
  let b1 : MxRow := { b with scale := fun t => (Tab.get 0 x.scales (n * (x.k / 32) + t)).toNat }
  (List.range ((x.k / 32 + 31) / 32)).map (fun t =>
    BitVec.ofNat 32 ((List.range (min 32 (x.k / 32 - 32 * t))).foldl (fun y j => accAdd y (rowBlock a b1 (32 * t + j))) 0))

def modSlot (s : State) (d sl : Nat) (f : WSlot → WSlot) : State :=
  modWdie s d (fun w => { w with slots := Tab.modify {} w.slots sl f })

/-- An operation leaves its W-die with what it returns. -/
def leaveWdie (s : State) (d ck : Nat) (c : Cmd) (i : CmdIn) (r : Nat × List (List Word)) : State :=
  unlockReads (modCmd (modWdie s d (fun w => { w with ops := w.ops.filter (fun o => o != (ck, c.tag)) })) ck c.tag
    (fun x => { x with inp := some i, served := some r })) ck c.tag

/-- A slot with what a `wld` read. -/
def loadedSlot (s : State) (c : Cmd) (p : WldP) (i : CmdIn) : WSlot :=
  let grab := fun (a : DWord) (n : Nat) => (List.range n).foldl (fun (t : Tab Byte) j =>
    Tab.set 0 t j (inGlb c i (a + BitVec.ofNat 64 j))) []
  let k := (getCtx s c.asid).slot
  { st := .valid, key := k, keyGen := (getKey s k).gen, fmt := p.fmt, k := p.k, n := p.n,
    weights := grab p.waddr (p.n * engBytes p.fmt p.k), scales := grab p.saddr (p.n * (p.k / 32)) }

/-- A W-die serves an operation: a `wmv` at once; a `wld` enters LOADING, then ends. -/
def serveSlot (s : State) (d sl ck : Nat) (c : Cmd) : State :=
  let x := Tab.get {} (getWdie s d).slots sl
  match c.k with
  | .wmv b =>
    let p := wmvP b
    let st := wmvStatus s c p x
    if st ≠ 0 then leaveWdie s d ck c {} (st, [])
    else
      let r := cmdRead s ck c x.k
      let parts := (List.range p.rows).flatMap (fun row => (List.range p.ncnt).map (fun j =>
        wmvPartials c r.2 p x row (p.n0 + j)))
      leaveWdie r.1 d ck c r.2 (0, parts)
  | .wld b =>
    if x.st ≠ .loading then modSlot s d sl (fun _ => { st := .loading })
    else if cmdHeld s c (runMap c.asid (cmdGlbR c.k)) then s
    else
      let r := cmdRead s ck c 0
      let y := if (worst r.2.codes).1 ≤ stRace then loadedSlot r.1 c (wldP b) r.2 else {}
      leaveWdie (modSlot r.1 d sl (fun _ => y)) d ck c r.2 (0, [])
  | _ => s

/-- WDIE_OPERATION_SERVE: the first operation that waits for a slot (R424). -/
def execWdieOperationServe (wdie slot : Nat) (s : State) : Out :=
  let mine := fun (o : Nat × Word) => match findCmd s o.1 o.2 with
    | some c => (slotOf c.k).any (fun x => x % 64 == slot && 2 * (cmdNode c - 24) + x / 64 == wdie)
    | none => false
  match (getWdie s wdie).ops.find? mine with
  | none => .next s
  | some o => match findCmd s o.1 o.2 with
    | some c =>
      if !nodeActive s (32 + wdie) ∨ !engRuns s (cmdNode c) then .next s else .next (serveSlot s wdie slot o.1 c)
    | none => .next s

/-! ## Abort (R185) -/

/-- A command of an ended workgroup or context ends ABORTED: each byte that it was to write keeps its old value or takes
its new one (R185, R410). -/
def abortCmd (s : State) (ck : Nat) (c : Cmd) : State :=
  let mine := fun (p : Pkt) => match p.msg with
    | .mcast _ _ _ _ _ id => c.regs.contains id
    | _ => false
  let s0 := (s.net.inbox.filter mine).foldl (fun t p => match p.msg with
    | .mcast unit _ o bytes _ id => unmarkLines t (coreKey p.dst unit) (linesOf o bytes.length) (mcastMark id)
    | _ => t) s
  let s1 := { s0 with net := { s0.net with inbox := s0.net.inbox.filter (fun p => !mine p) } }
  let s2 := match slotOf c.k with
    | none => s1
    | some sl =>
      let d := 2 * (cmdNode c - 24) + sl / 64
      let x := Tab.get {} (getWdie s1 d).slots (sl % 64)
      let mine := fun (o : Nat × Word) => (findCmd s1 o.1 o.2).any (fun y => slotOf y.k == some sl)
      let first := ((getWdie s1 d).ops.find? mine) == some (ck, c.tag)
      let t := modWdie s1 d (fun w => { w with ops := w.ops.filter (fun o => o != (ck, c.tag)) })
      if x.st = .loading ∧ first ∧ c.served.isNone then modSlot t d (sl % 64) (fun _ => {}) else t
  let s3 := if !c.started ∨ c.written ∨ (slotOf c.k).isSome then s2
    else
      let i := c.inp.getD (cmdRead s2 ck c 0).2
      let out := cmdOut c i false
      let u := out.scr.foldl (fun t x => putScr t ck c.off true x) s2
      let v := out.acc.foldl (fun t x => putAcc t ck (c.off / 2) true x) u
      let lines := (glbLines c.asid out.glb).filter (fun e => (cmdWriteCheck v c e.1 e.2.valid).2.isNone)
      (cmdWriteLines c ((lines.map (fun x => (x.1, tornLine v x.1 x.2))).filter (fun x => x.2.valid != 0)) v).1
  finishCmd s3 ck c (stAborted, 0, 0)

/-- Every command of a workgroup ends ABORTED. -/
def abortGroup (s : State) (k : Nat) : State :=
  match getWg s k with
  | none => s
  | some g =>
    let ck := coreKey g.node g.unit
    ((getCore s ck).score.filter (fun c => c.wg == some k)).foldl (fun t c => abortCmd t ck c) s

end Sys2Proof.Machine
end

