-- ==== Sys2Proof/Machine/Moves.lean ====
section
/-! DEFINITION. Moves that no row of the table makes: lines and translations leave caches and buffers, memory outside the
module changes, a stored word goes bad (R18, R67, R75, R106, R118, R205, R269). -/

namespace Sys2Proof.Machine

/-! ## Lines leave caches (R67, R75) -/

/-- Dirty words of a line homed on the quad's own die are written back to the home, which keeps them registered. -/
def evictOwn (s : State) (node quad k : Nat) (q : Line) : State × Mask :=
  let ws := maskOf (fun w => wordMask q.dirty |>.getLsbD w)
  let go := maskOf (fun w => ws.getLsbD w && quadRegistered s node quad k w node)
  match wordOwner s node (lineAsid k) (lineNo k) with
  | none => (s, 0)
  | some a => (writeBackAt s node a (lineAsid k) (lineNo k) go (lineOnly q (byteMask go)) true, go)

/-- A line leaves a quad's L2: dirty words go to the home or to the die's LLC; words whose registration is under way
stay. -/
def evictL2Line (s : State) (c k : Nat) : State :=
  let node := c / 64
  let quad := c % 64
  let q := getLine s.l2 c k
  match homeOf s (lineAsid k) (lineNo k * 128) with
  | none => s
  | some h =>
    let r := if h = node then evictOwn s node quad k q
      else
        let go := maskOf (fun w => (wordMask q.dirty).getLsbD w && quadRegistered s node quad k w h)
        ({ s with llc := setLine s.llc node k (lineOver (getLine s.llc node k) q (q.dirty &&& byteMask go) true) }, go)
    { r.1 with l2 := setLine r.1.l2 c k (lineOnly q (q.dirty &&& ~~~byteMask r.2)) }

/-- A line leaves a die's LLC: a home writes it to memory, and its V words become I; another die writes its dirty words
back to the home and keeps them registered. -/
def evictLlcLine (s : State) (node k : Nat) : State :=
  let l := getLine s.llc node k
  let out : State := { s with llc := setLine s.llc node k {} }
  match homeOf s (lineAsid k) (lineNo k * 128) with
  | none => s
  | some h =>
    if h = node then
      match xlate s node (lineAsid k) (lineNo k * 128) .read true with
      | (t, .error _) => t
      | (_, .ok p) =>
        lanes32.foldl (fun t w => if wordSt t k w = .v then setWordSt t k w .i else t)
          (memPut (fireWatches out node (lineAsid k) (lineNo k * 128) 128 1) p l l.dirty)
    else if l.dirty = 0 then out
    else
      let da := agentId s node 127
      let m := wordMask l.dirty
      send out node h .reg (lineNo k * 128) (.wb da (lineAsid k) (lineNo k) m l true)

def evictTlbEnt (s : State) (n : Nat) : State :=
  match s.tlb[n]? with
  | some x => if tlbPinned s x then s else { s with tlb := listErase s.tlb n }
  | none => s

/-! ## The world outside (R18) -/

/-- The host writes its memory, or another module its own. -/
def outsideStore (s : State) (a : Nat) (l : List Byte) : State :=
  if paNode a = 63 ∨ (paModule a).isSome then physChanged (paWriteN s 0 a l) a l.length else s

end Sys2Proof.Machine
end

