-- ==== Sys2Proof/Machine/Atinv.lean ====
section
/-! DEFINITION. The shoot-down of translations and copies (R119, R120). -/

namespace Sys2Proof.Machine

def rangesMeet (a b : Range) : Bool := decide (a.lo < b.hi) && decide (b.lo < a.hi)

/-- The whole space of an ASID: the own half, or the shared half for ASID 0 (R98). -/
def wholeSpace (asid : Nat) : Range := if asid = 0 then { lo := 2 ^ 53, hi := 2 ^ 54 } else { lo := 0, hi := 2 ^ 53 }

def sameAtinv (a b : Atinv) : Bool := a.who == b.who && a.asid == b.asid && a.range == b.range

/-- Another atinv overlaps the range (R120). -/
def atinvBlocked (s : State) (a : Atinv) : Bool := s.atinvs.any (fun x => x.asid == a.asid && rangesMeet x.range a.range)

/-- The leases of a range. -/
def leaseIn (a : Atinv) (g : Grant) : Bool := g.live && g.asid == a.asid && grantMeets g a.range.lo a.range.hi

/-- A lease is marked lost at its holder, also one whose GRANT is still on its way. -/
def markLost (s : State) (g : Grant) : State :=
  let ps := holderParts s g.holder
  setHolderParts s g.holder (ps.map (fun p =>
    if p.grantor == g.node && p.req == g.req then { p with lost := true } else p))

/-- An atinv arrives at the grantors of its range: standing leases there are lost and no longer waited for, and in force
mode task leases are lost too (R119 step 3). -/
def atinvArrive (s : State) (a : Atinv) : State :=
  let hit := s.grants.filter (leaseIn a)
  let s1 := (hit.filter (fun g => a.force || !isTask g.holder)).foldl markLost s
  { s1 with atinvs := s1.atinvs ++ [a],
            grants := s1.grants.filter (fun g => !(leaseIn a g && !isTask g.holder)) }

/-- A lease of the range is still waited for: a task's (R119 step 3). -/
def atinvLeased (s : State) (a : Atinv) : Bool :=
  s.grants.any (fun g => leaseIn a g && isTask g.holder && !(a.force && decide (g.e + 2000 ≤ nodeTime s g.node)))

/-- The regions that homes hold in a range. -/
def atinvRegions (s : State) (a : Atinv) : List Region :=
  s.regions.filter (fun r => r.asid == a.asid
    && rangesMeet { lo := r.base * 128, hi := (r.base + regionLines r.level) * 128 } a.range)

/-- Each home drains the owners of its regions in the range (R119 step 4). -/
def atinvDrain (s : State) (a : Atinv) : State :=
  let tag := s.nextReq
  let who := ((atinvRegions s a).map (fun r => (r.node, r.owner))).eraseDups
  let s1 := { s with nextReq := tag + 1,
                     atinvs := s.atinvs.map (fun x => if sameAtinv x a then { x with tag := some tag } else x) }
  who.foldl (fun t x => send t x.1 (agentNode x.2) .syn a.range.lo
    (.drain x.2 false a.asid (some [a.range]) (agentId t x.1 127) tag)) s1

def keyIn (a : Atinv) (k : Nat) : Bool :=
  let k := k % 2 ^ 61
  lineAsid k == a.asid && rangesMeet { lo := lineNo k * 128, hi := lineNo k * 128 + 128 } a.range

/-- A core's copy goes, but for bytes whose registration is under way. -/
def dropClean (t : Tab Line) (a : Atinv) : Tab Line :=
  t.filterMap (fun e =>
    if !keyIn a e.1 then some e
    else
      let l := lineOnly e.2 e.2.dirty
      if l == {} then none else some (e.1, l))

/-- Homes write their lines of the range to memory, under the translations that they still hold. -/
def atinvFlush (s : State) (a : Atinv) : State :=
  (s.llc.filter (fun e => keyIn a e.1)).foldl (fun t e => evictLlcLine t (e.1 / 2 ^ 61) (e.1 % 2 ^ 61)) s

/-- What a context that has ended leaves at its homes. -/
def forgetSpace (s : State) (asid : Nat) : State :=
  let mine := fun (k : Nat) => lineAsid (k % 2 ^ 61) == asid
  { s with words := s.words.filter (fun e => !mine e.1)
           eccFound := s.eccFound.filter (fun e => !mine (e.1 / 32))
           l1 := s.l1.filter (fun e => !mine e.1)
           l2 := s.l2.filter (fun e => !mine e.1)
           llc := s.llc.filter (fun e => !mine e.1)
           icache := s.icache.filter (fun e => !mine e.1)
           regions := s.regions.filter (fun r => r.asid != asid)
           proxies := s.proxies.filter (fun e => !mine (e.1 / 32))
           rels := s.rels.filter (fun e => !mine (e.1 / 32))
           tokens := s.tokens.filter (fun t => t.asid != asid)
           watches := s.watches.filter (fun x => x.asid != asid) }

/-- Every cache and buffer drops its copies and translations of the range (R119 step 5). -/
def atinvDrop (s : State) (a : Atinv) : State :=
  let out := fun (x : TlbEnt) => !(x.asid == a.asid && rangesMeet { lo := x.base, hi := x.base + x.size } a.range)
  let s1 := atinvFlush s a
  let s2 := { s1 with l1 := dropClean s1.l1 a, l2 := dropClean s1.l2 a, llc := dropClean s1.llc a,
                      tlb := s1.tlb.filter out, walks := s1.walks.filter out, perms := s1.perms.filter out,
                      atinvs := s1.atinvs.filter (fun x => !sameAtinv x a) }
  let c := getCtx s2 a.asid
  if a.asid ≠ 0 ∧ !c.live ∧ a.range = wholeSpace a.asid then
    setCtx (forgetSpace s2 a.asid) a.asid {}
  else s2

/-- An atinv could go on now. -/
def atinvReady (s : State) (a0 : Atinv) : Bool :=
  match s.atinvs.find? (sameAtinv a0) with
  | none => !atinvBlocked s a0
  | some a => !atinvLeased s a && (a.tag.isNone || (atinvRegions s a).isEmpty)

/-- An atinv goes on as far as it can; the result says whether it is done. -/
def atinvStep (s : State) (a0 : Atinv) : State × Bool :=
  match s.atinvs.find? (sameAtinv a0) with
  | none => if atinvBlocked s a0 then (s, false) else (atinvArrive s a0, false)
  | some a =>
    if atinvLeased s a then (s, false)
    else match a.tag with
      | none => (atinvDrain s a, false)
      | some _ => if (atinvRegions s a).isEmpty then (atinvDrop s a, true) else (s, false)

end Sys2Proof.Machine
end

