-- ==== Sys2Proof/Machine/Preempt.lean ====
section
/-! DEFINITION. Room on a core, launching and restoring workgroups, parking and saving them, and the reset of a context
(R171-R175, R182-R187, R216, R220, R266). A saved workgroup stands on no die, number 64. -/

namespace Sys2Proof.Machine

/-! ## Room (R171, R174, R186, R187, R220) -/

/-- A workgroup that occupies its core. -/
def onCore (g : Workgroup) : Bool := match g.st with
  | .resident | .halting _ _ _ => true
  | _ => false

/-- Workgroups that occupy a core. -/
def coreGroups (s : State) (node unit : Nat) : List (Nat × Workgroup) :=
  s.wgs.filter (fun e => e.2.node == node && e.2.unit == unit && onCore e.2)

/-- The resident slots in use on a core, as partition and register words; a detached wave keeps its slot (R218). -/
def slotsUsed (s : State) (node unit : Nat) : List (Nat × Nat) :=
  (coreGroups s node unit).flatMap (fun e => (unended s e.2).map (fun x => match x.2.home with
    | some h => (h.2.2, x.2.regw)
    | none => (x.2.part, x.2.regw)))

def freeSlots (s : State) (node unit : Nat) : Nat := 32 - (slotsUsed s node unit).length

/-- The partition for one wave: most free slots among those whose words hold it, lowest of equals (R187). -/
def partFor (used : List (Nat × Nat)) (regw : Nat) : Option Nat :=
  let of := fun (p : Nat) => used.filter (fun x => x.1 == p)
  maxBy (fun p => 8 - (of p).length) ((List.range 4).filter (fun p =>
    decide ((of p).length < 8) && decide (sumNat ((of p).map Prod.snd) + regw ≤ 63488)))

/-- A partition for each wave of a gang, in wave order; none when one finds no place. -/
def placeParts (used : List (Nat × Nat)) : List Nat → Option (List Nat)
  | [] => some []
  | r :: t => match partFor used r with
    | none => none
    | some p => (placeParts ((p, r) :: used) t).map (fun l => p :: l)

def spanFree (s : State) (node unit off n : Nat) : Bool :=
  decide (off + n ≤ 2 ^ 20) && (coreGroups s node unit).all (fun e =>
    n == 0 || e.2.scratch == 0 || decide (off + n ≤ e.2.off) || decide (e.2.off + e.2.scratch ≤ off))

/-- The lowest offset at which a scratchpad allocation fits. -/
def spanFor (s : State) (node unit n : Nat) : Option Nat :=
  minBy id ((0 :: (coreGroups s node unit).map (fun e => e.2.off + e.2.scratch)).filter (fun o => spanFree s node unit o n))

/-- Waves that a core has admitted, resident and parked (R174). -/
def admitted (s : State) (node unit : Nat) : Nat :=
  sumNat ((s.wgs.filter (fun e => e.2.node == node && e.2.unit == unit && (onCore e.2 || (match e.2.st with
    | .parked _ => true
    | _ => false)))).map (fun e => (unended s e.2).length))

/-- Room on a core for waves with these register words and an allocation, at a given offset or at the lowest: the
partitions and the offset. `own` waves are already counted as admitted. -/
def coreRoom (s : State) (node unit : Nat) (regws : List Nat) (scratch : Nat) (at_ : Option Nat) (own : Nat) :
    Option (List Nat × Nat) :=
  if 128 < admitted s node unit + regws.length - own then none
  else
    let off := match at_ with
      | some o => if spanFree s node unit o scratch then some o else none
      | none => spanFor s node unit scratch
    match off, placeParts (slotsUsed s node unit) regws with
    | some o, some l => some (l, o)
    | _, _ => none

/-- The core of a die for a gang: most free slots, lowest number of equals (R171). -/
def chooseCore (s : State) (d : Nat) (regws : List Nat) (scratch : Nat) (at_ : Option Nat) :
    Option (Nat × List Nat × Nat) :=
  let l := (List.range 48).filterMap (fun u => (coreRoom s d u regws scratch at_ 0).map (fun r => (u, r)))
  (maxBy (fun x => freeSlots s d x.1) l).map (fun x => (x.1, x.2.1, x.2.2))

/-! ## Acquires of a launch (R161, R216, R236) -/

/-- The acquire at `pkg` scope that a core makes for work that starts on it: drains of the releasers over the ranges,
self-invalidation, carried list. -/
def launchAcquire (s : State) (node unit asid src : Nat) (es : List RelEnt) (r : Option (List Range)) : State :=
  let ck := coreKey node unit
  let me := agentId s node unit
  let tag := s.nextReq
  let sel := es.filter (fun e => e.agent != me && relSelected .pkg me e)
  let s1 := armStart { s with nextReq := tag + 1 } ck tag asid r
  let s2 := sel.foldl (fun t e => sendDrain t src e asid r me tag 0) s1
  let s3 := armKnown (armNeed s2 ck tag sel.length) ck tag
  carryUpdate (selfInvalidate s3 node unit asid .pkg r) ck node unit asid r.isNone sel

/-! ## Retention and the parity sweep (R221, R222) -/

/-- The retired stores of a workgroup's waves leave their store queues (R203). -/
def drainGroup (s : State) (g : Workgroup) : State := g.waves.foldl drainQueue s

/-- A parity error ends the workgroup that owns the word (R222). -/
def eccEnd (s : State) (k sub : Nat) : State :=
  match getWg s k with
  | none => s
  | some g => match (unended s g).head? with
    | none => dropGroup s k
    | some x =>
      let t : TrapInfo := { cause := cEcc, sub := sub, pc := boundaryPc x.2, fmask := 0, pmask := maskAct x.2, addr := 0 }
      endGroup (setWg (countUe (drainGroup s g) g.node sub) k { g with stop := some (x.1, t) }) k

/-- A core leaves retention: it sweeps its parity for 2,048 of its cycles; words in error end the workgroup that owns
them, others are cleared (R222). -/
def coreWakes (s : State) (ck : Nat) : State :=
  let c := getCore s ck
  if !c.retention then s
  else
    let node := ck / 128
    let rate := max 1 (getNode s node).cur
    let gs := coreGroups s node (ck % 128)
    let owner := fun (a half : Nat) => gs.filter (fun e =>
      decide (e.2.off / half ≤ a) && decide (a < (e.2.off + e.2.scratch) / half))
    let bad := (c.badScr.flatMap (fun a => (owner a 1).map (fun e => (e.1, 4))))
      ++ (c.badAcc.flatMap (fun a => (owner a 2).map (fun e => (e.1, 5))))
      ++ (gs.filter (fun e => (unended s e.2).any (fun x => !x.2.badRegs.isEmpty))).map (fun e => (e.1, 3))
    let zero := fun (t : Tab Byte) (l : List Nat) (half : Nat) =>
      l.foldl (fun u a => if (owner a half).isEmpty then Tab.erase u a else u) t
    let c1 : Core := { c with retention := false, sweepEnd := s.time + (2048 * 40 + rate - 1) / rate, badScr := [],
                              badAcc := [], scr := zero c.scr c.badScr 1, acc := zero c.acc c.badAcc 2, idleSince := s.time }
    bad.foldl (fun t x => eccEnd t x.1 x.2) (setCore s ck c1)

/-! ## Allocations on a core (R172, R220, R266) -/

def clearSpan (t : Tab Byte) (lo n : Nat) : Tab Byte := t.filter (fun e => !(decide (lo ≤ e.1) && decide (e.1 < lo + n)))

/-- Bytes laid from an address on. -/
def layBytes (t : Tab Byte) (a : Nat) : List Byte → Tab Byte
  | [] => t
  | b :: l => layBytes (Tab.set 0 t a b) (a + 1) l

/-- A span of n bytes holds the bytes of an image, and zero beyond them. -/
def laySpan (t : Tab Byte) (lo n : Nat) (l : List Byte) : Tab Byte := layBytes (clearSpan t lo n) lo (l.take n)

/-- An allocation is taken: scratchpad and accumulator bytes, empty lines by number within it. -/
def takeSpan (s : State) (ck off scratch : Nat) (img acc : List Byte) (empty : List Nat) : State :=
  modCore s ck (fun c =>
    let lines := c.empty.filter (fun e => !(decide (off / 128 ≤ e.1) && decide (e.1 < (off + scratch) / 128)))
    { c with scr := laySpan c.scr off scratch img, acc := laySpan c.acc (off / 2) (scratch / 2) acc,
             empty := empty.foldl (fun t i => Tab.put t (off / 128 + i) [0]) lines,
             badScr := c.badScr.filter (fun a => !(decide (off ≤ a) && decide (a < off + scratch))),
             badAcc := c.badAcc.filter (fun a => !(decide (off / 2 ≤ a) && decide (a < (off + scratch) / 2))),
             latch := none, idleSince := s.time })

/-- A parked, saved or held workgroup returns to a core, at its offset (R175, R176, R183, R275). A wave that comes to
another core than it left acquires first, as R216 gives (assumption log 15). -/
def restoreGroup (s : State) (k node unit : Nat) (parts : List Nat) : State :=
  match getWg s k with
  | none => s
  | some g =>
    let ck := coreKey node unit
    let s1 := takeSpan (coreWakes s ck) ck g.off g.scratch g.img g.imgAcc g.imgFe
    let ws := (unended s1 g).map Prod.fst
    let moved := g.node != noDie && (g.node != node || g.unit != unit)
    let arr := if moved then some (0, releaseEntries s1 g.node g.unit .pkg) else none
    let s2 := (ws.zip parts).foldl (fun t x => modWave t x.1 (fun w =>
      { unblock w with node := node, unit := unit, part := x.2, run := if heldAlone w then w.run else .run, arrive := if arr.isSome then arr else w.arrive }))
      s1
    setWg s2 k { g with node := node, unit := unit, st := .resident, img := [], imgAcc := [], imgFe := [], parkKey := none }

/-! ## Parking and saving (R175, R182, R183, R265, R266) -/

/-- No engine command of the workgroup is outstanding. -/
def groupQuiet (s : State) (k : Nat) : Bool := match getWg s k with
  | none => true
  | some g => (groupCmds s k g).isEmpty

/-- The allocation leaves the core. -/
def freeSpan (s : State) (g : Workgroup) : State :=
  modCore s (coreKey g.node g.unit) (fun c =>
    { c with scr := clearSpan c.scr g.off g.scratch, acc := clearSpan c.acc (g.off / 2) (g.scratch / 2),
             empty := c.empty.filter (fun e => !(decide (g.off / 128 ≤ e.1) && decide (e.1 < (g.off + g.scratch) / 128))),
             latch := none, idleSince := s.time })

/-- A workgroup's bytes go to its image. -/
def imageOut (s : State) (k : Nat) (st : WgSt) : State :=
  match getWg s k with
  | none => s
  | some g =>
    let g1 := { g with st := st, img := groupScratch s g, imgFe := groupEmpty s g, imgAcc := groupAcc s g }
    let s1 := if onCore g then freeSpan s g else s
    (groupWaves s1 g).foldl (fun t x => tokenAutoRelease t x.2.node x.2.unit x.2.asid) (setWg s1 k g1)

/-- A workgroup with no command outstanding is saved (R182, R183): its task leases end, and it stands on no die until it
resumes. A parked one is saved as it stands. -/
def saveGroup (s : State) (k : Nat) : State :=
  match getWg s k with
  | none => s
  | some g =>
    let cl := b2n (inToken s g.node)
    let s1 := (unended s g).foldl (fun t x => saveWave t x.1) (drainGroup s g)
    let s2 := imageOut s1 k .saved
    let s3 := modWg s2 k (fun g => { g with node := noDie, unit := 0, cluster := cl })
    let s4 := (unended s3 g).foldl (fun t x => modWave t x.1 (fun w => { w with node := noDie })) s3
    match g.task with
    | none => s4
    | some t => modTask (endLeases s4 (.task t)) t (fun x => { x with st := .saved, die := noDie })

/-- Every wave of a workgroup stands still at its boundary. -/
def stopWaves (s : State) (k : Nat) : State :=
  match getWg s k with
  | none => s
  | some g => (unended s g).foldl (fun t x => match x.2.run with
      | .run => modWave (rewind t x.1) x.1 (fun w => { w with run := .stopped 0 })
      | _ => t) s

/-- Waves that a parking area keeps a monitor for, on a die (R176). -/
def parkedMons (s : State) (d : Nat) : Nat :=
  sumNat ((s.wgs.filter (fun e => e.2.node == d && (match e.2.st with
    | .parked _ => true
    | _ => false))).map (fun e => ((groupWaves s e.2).filter (fun x => x.2.mon.isSome)).length))

/-- Bytes of the parking area of a quad's L2 (R175). -/
def parkArea : Nat := 4 * 2 ^ 20

/-- Bytes of a workgroup's parking image: its waves' areas, its scratchpad, its accumulator rows (R175). -/
def parkSize (s : State) (g : Workgroup) : Nat :=
  sumNat ((unended s g).map (fun x => (waveArea x.2).length)) + g.scratch + g.scratch / 2

/-- Bytes of the parking area that a quad's parked workgroups take. -/
def parkUsed (s : State) (node quad : Nat) : Nat :=
  sumNat ((s.wgs.filter (fun e => e.2.node == node && e.2.unit / 4 == quad && e.2.parkKey.isNone && (match e.2.st with
    | .parked _ => true
    | _ => false))).map (fun e => parkSize s e.2))

/-- A workgroup is parked (R175), in the quad's L2 while there is room, else in firmware memory under the context's key slot; beyond 1,024 monitors of the die a monitor is lost, which counts as a wake (R176). -/
def parkGroup (s : State) (k : Nat) : State :=
  match getWg s k with
  | none => s
  | some g =>
    let room := 1024 - parkedMons s g.node
    let armed := (groupWaves s g).filter (fun x => x.2.mon.isSome)
    let s0 := (groupWaves s g).foldl (fun t x => modWave t x.1 freezeWave) s
    let s1 := (armed.drop room).foldl (fun t x => fireMon t x.1 1) s0
    let l2 := decide (parkUsed s g.node (g.unit / 4) + parkSize s g ≤ parkArea)
    modWg (imageOut s1 k (.parked false)) k (fun x =>
      { x with parkKey := if l2 then none else some (getCtx s g.asid).slot })

/-! ## Context reset (R185) -/

/-- A record whose task had not started is dispatchable again. -/
def giveBack (s : State) (t : Task) : State :=
  let s1 := taskGone s t.id
  { s1 with pending := s1.pending ++ [{ handle := t.handle, seq := t.seq, asid := t.asid, rec_ := t.rec_,
                                        sender := t.sender, count := 0, visAt := t.visAt, rels := t.rels, back := true }] }

/-- Whether a task waits to start for the first time (stages 2 and 3). -/
def taskWaits (t : Task) : Bool := t.wg.isNone

/-- The record that a reset posts for a workgroup: origin 5, CAUSE 0 and the reason (R254). -/
def resetRecord (s : State) (g : Workgroup) (sub : Nat) : FaultInfo :=
  let t := g.task.bind (getTask s)
  { cause := 0, sub := sub, origin := 5, asid := g.asid, agent := if g.node = noDie then 0 else agentId s g.node g.unit,
    task := (t.map taskWord).getD 0, ttype := (t.map (fun t => taskType t.rec_ + t.variant * 16384)).getD 0 }

/-- The context reset on every die (R185). -/
def ctxReset (s : State) (asid sub : Nat) : State :=
  let mine := s.wgs.filter (fun e => e.2.asid == asid)
  let s1 := mine.foldl (fun t e =>
    let u := abortGroup (drainGroup t e.2) e.1
    match getWg u e.1 with
    | none => u
    | some g => dropGroup (postFault u (resetRecord u g sub) none).1 e.1) s
  let waiting := s1.tasks.filter (fun e => e.2.asid == asid && taskWaits e.2)
  let s2 := waiting.foldl (fun t e => giveBack t e.2) s1
  let s3 := { s2 with conts := s2.conts.filter (fun c => c.asid != asid)
                      flt := { s2.flt with awaiting := s2.flt.awaiting.filter (fun a => match a.2 with
                        | .task id => (getTask s2 id).isSome
                        | _ => true) }
                      preempts := s2.preempts.filter (fun p => p.target != .ctx asid && p.target != .halt asid) }
  modCtx s3 asid (fun c => { c with sched := .halted, contUsed := [], poolUsed := [] })

end Sys2Proof.Machine
end

