-- ==== Sys2Proof/Machine/TaskUnit.lean ====
section
/-! DEFINITION. The die task units and the module task unit: records, task types, dispatch, stealing, gangs, variants,
dependencies, parking, continuations, watchdogs and pre-emption (R157-R184). -/

namespace Sys2Proof.Machine

/-! ## Records (R157, R158) -/

def recPrio (r : List Byte) : Nat := bitsOf (fieldAt r 0 2) 12 2
def recTile (r : List Byte) : Word × Word × Word :=
  (BitVec.ofNat 32 (fieldAt r 2 2), BitVec.ofNat 32 (fieldAt r 4 2), BitVec.ofNat 32 (fieldAt r 6 2))
def recArg (r : List Byte) : DWord := BitVec.ofNat 64 (fieldAt r 8 8)
def recDies (r : List Byte) : Nat := fieldAt r 16 4
def recClu (r : List Byte) : Nat := bitsOf (fieldAt r 20 2) 0 2
def recPhase (r : List Byte) : Bool := bitOf (fieldAt r 24 4) 1
def recVar (r : List Byte) : Option Nat :=
  if bitOf (fieldAt r 24 4) 2 then some (bitsOf (fieldAt r 24 4) 3 2) else none
def recDone (r : List Byte) : DWord := BitVec.ofNat 64 (fieldAt r 32 8)

def recMalformed (r : List Byte) : Bool :=
  recClu r == 3 || bitsOf (fieldAt r 0 2) 14 2 != 0 || bitsOf (fieldAt r 20 2) 2 14 != 0
    || bitsOf (fieldAt r 24 4) 5 27 != 0 || fieldAt r 28 4 != 0 || !zeroFrom r 40

/-- DIES sets the die's bit, or is 0. -/
def recNames (r : List Byte) (d : Nat) : Bool := recDies r == 0 || bitOf (recDies r) d

/-- A record admits a die (R169). -/
def recAdmits (s : State) (r : List Byte) (d : Nat) : Bool :=
  recNames r d && (match recClu r with
    | 1 => !inToken s d
    | 2 => inToken s d
    | _ => true)

/-- No present die that DIES admits can belong to the cluster that CLU names (R162). -/
def recNowhere (s : State) (r : List Byte) : Bool :=
  cdies.all (fun d => (getNode s d).absent || !recNames r d || (recClu r == 1 && decide (24 ≤ d)))

/-! ## Task types (R164-R166) -/

structure RoleEnt where
  pc : DWord
  regw : Nat
  waves : Nat
  spare : Nat
  deriving DecidableEq, Repr

/-- Role r of variant v. -/
def roleEnt (e : List Byte) (v r : Nat) : RoleEnt :=
  let o := 0x40 + 48 * v + 16 * r
  { pc := BitVec.ofNat 64 (fieldAt e o 8), regw := fieldAt e (o + 8) 2, waves := fieldAt e (o + 10) 1,
    spare := fieldAt e (o + 11) 5 }

def entNvar (e : List Byte) : Nat := bitsOf (fieldAt e 0 4) 3 2
def entScratch (e : List Byte) : Nat := fieldAt e 4 4 % 2 ^ 21
def entSwz (e : List Byte) : Nat := bitsOf (fieldAt e 0 4) 5 3
def entWdc (e : List Byte) : Nat := bitsOf (fieldAt e 0 4) 8 4

/-- A range template. -/
structure Template where
  base : DWord
  sx : DWord
  sy : DWord
  sz : DWord
  size : Nat
  soff : Nat
  rel : Bool
  pre : Bool
  exec : Bool
  spare : Nat
  deriving DecidableEq, Repr

def templateAt (e : List Byte) (k : Nat) : Template :=
  let o := 0x100 + 48 * k
  let q := fun (i : Nat) => BitVec.ofNat 64 (fieldAt e (o + i) 8)
  let n := fieldAt e (o + 32) 8
  let f := fieldAt e (o + 44) 4
  { base := q 0, sx := q 8, sy := q 16, sz := q 24, size := n % 2 ^ 40, soff := fieldAt e (o + 40) 4 % 2 ^ 20,
    rel := bitOf f 0, pre := bitOf f 1, exec := bitOf f 2,
    spare := n / 2 ^ 40 + fieldAt e (o + 40) 4 / 2 ^ 20 + f / 8 }

def roleBad (x : RoleEnt) : Bool :=
  x.spare != 0 || (x.waves != 0 && (!canonical x.pc || x.pc.toNat % 4 != 0 || decide (x.regw < 256)
    || decide (8192 < x.regw) || x.regw % 256 != 0))

def variantBad (e : List Byte) (v : Nat) : Bool :=
  (roleEnt e v 1).waves == 0 || decide (32 < (roleEnt e v 0).waves + (roleEnt e v 1).waves + (roleEnt e v 2).waves)
    || (List.range 3).any (fun r => roleBad (roleEnt e v r))

def templateBad (e : List Byte) (k : Nat) : Bool :=
  (templateAt e k).spare != 0 || (decide (8 ≤ k) && ((templateAt e k).pre || (templateAt e k).exec))

/-- A type entry is malformed (R165, R166; a SCRATCH outside its limits too, assumption log 16). -/
def entryBad (e : List Byte) : Bool :=
  let w := fieldAt e 0 4
  !bitOf w 0 || bitsOf w 12 20 != 0 || entSwz e == 7 || fieldAt e 4 4 / 2 ^ 21 != 0
    || entScratch e % 128 != 0 || decide (2 ^ 20 < entScratch e) || (List.range 56).any (fun i => byteAt e (8 + i) != 0)
    || (List.range (entNvar e + 1)).any (variantBad e) || (List.range 16).any (templateBad e)

/-- The start of a range for a record (R166). -/
def rangeStart (t : Template) (r : List Byte) : DWord :=
  let x := recTile r
  (if t.rel then recArg r else 0) + t.base + x.1.setWidth 64 * t.sx + x.2.1.setWidth 64 * t.sy + x.2.2.setWidth 64 * t.sz

/-- The used templates of an entry, by number. -/
def usedTemplates (e : List Byte) : List (Nat × Template) :=
  ((List.range 16).map (fun k => (k, templateAt e k))).filter (fun x => x.2.size != 0)

def rangeBad (e r : List Byte) (t : Template) : Bool :=
  let a := rangeStart t r
  !canonical a || decide (2 ^ 64 < a.toNat + t.size) || !canonical (a + BitVec.ofNat 64 (t.size - 1))
    || (t.pre && decide (entScratch e < t.soff + t.size))

/-- The lease requests of a record: start, bytes, kind (R171). -/
def recRanges (e r : List Byte) : List (Nat × Nat × LKind) :=
  (usedTemplates e).map (fun x => (va54 (rangeStart x.2 r), x.2.size,
    if 8 ≤ x.1 then .write else if x.2.exec then .exec else .read))

/-- The declared input ranges. -/
def recInputs (e r : List Byte) : List Range :=
  ((usedTemplates e).filter (fun x => decide (x.1 < 8))).map (fun x => span (va54 (rangeStart x.2 r)) x.2.size)

/-- A type entry as a die task unit reads it; a copy stays with the unit (R164). -/
def typeEntry (s : State) (d asid ty : Nat) : State × Option (List Byte) :=
  let c := getCtx s asid
  if !c.ttype.getLsbD 0 then (s, none)
  else
    let key := d * 4096 + ty
    match Tab.find c.ttCache key with
    | some e => (s, if entryBad e then none else some e)
    | none =>
      let r := unitRead s asid (vaFull (bitsOf c.ttype.toNat 22 32 * 2 ^ 22 + 1024 * ty)) 1024
      match r.2 with
      | .error _ => (r.1, none)
      | .ok e =>
        (modCtx r.1 asid (fun c => { c with ttCache := Tab.put c.ttCache key e }), if entryBad e then none else some e)

/-- The checks at dispatch: the type entry, or the code (R162). -/
def recordChecked (s : State) (d asid : Nat) (r : List Byte) : State × Except Nat (List Byte) :=
  if recMalformed r then (s, .error qMalformed)
  else
    let x := typeEntry s d asid (taskType r)
    match x.2 with
    | none => (x.1, .error qBadType)
    | some e =>
      if (usedTemplates e).any (fun t => rangeBad e r t.2) then (x.1, .error qBadRange)
      else if recNowhere x.1 r then (x.1, .error qAffinity)
      else (x.1, .ok e)

/-! ## Who may dispatch -/

/-- A context's work may start (R182, R184, R274). -/
def ctxRuns (s : State) (a : Nat) : Bool :=
  let c := getCtx s a
  c.live && c.sched == .run && c.dbgSt == 0
    && !s.preempts.any (fun p => p.target == .ctx a || p.target == .halt a)

/-- A die runs work: its task unit takes parked work, and what it has begun (R33, R61, R182). -/
def dieRuns (s : State) (d : Nat) : Bool :=
  isCdie d && nodeActive s d && !(getNode s d).halt && !(getNode s d).busy && !s.preempts.any (fun p => p.target == .die d)

/-- A die takes new tasks: it is also not being moved (R14). -/
def dieTakes (s : State) (d : Nat) : Bool := dieRuns s d && !s.mods.move.any (fun v => v.die == d)

/-- The DISPATCH queues of a die whose contexts run. -/
def dispatchQueues (s : State) (d : Nat) : List Queue :=
  (List.range 2048).filterMap (fun i => match Tab.find s.queues (d * 2048 + i) with
    | some x => match x.q with
      | some q => if !q.soft && ctxRuns s q.asid then some q else none
      | none => none
    | none => none)

/-- A visible record that can be read and is not void. -/
def recordAt (s : State) (q : Queue) (k : Nat) : Option (List Byte) :=
  match slotAt q k with
  | none => none
  | some x =>
    if x.st ≠ .visible ∨ x.void then none
    else match (unitRead s q.asid (vaFull (ringVa q k)) 64).2 with
      | .ok b => if isVoidRecord b then none else some b
      | .error _ => none

/-- Whether the slot must be taken out of the way: void, unreadable, malformed, or without a die (R158, R162, R464). -/
def recordDoomed (s : State) (q : Queue) (k : Nat) : Bool :=
  match recordAt s q k with
  | none => true
  | some r => recMalformed r || recNowhere s r

/-- A record that may be started; `pend` for one of the pending table. -/
structure Cand where
  handle : Word
  asid : Nat
  seq : Nat
  pend : Bool
  rec_ : List Byte
  level : Nat
  order : Nat
  deriving DecidableEq, Repr

def recLevel (s : State) (home : Nat) (r : List Byte) (visAt : Nat) : Nat :=
  min 3 (recPrio r + (nodeTime s home - visAt) / 1000000)

/-- Visible records of a home that die `d` may run, among the sequence numbers that `pick` leaves. -/
def visibleCands (s : State) (home d : Nat) (pick : List Nat → List Nat) : List Cand :=
  (dispatchQueues s home).flatMap (fun q => (pick (visibleSeqs q)).filterMap (fun k => match recordAt s q k with
    | none => none
    | some r =>
      if recMalformed r || recDeps r != 0 || !recAdmits s r d then none
      else some { handle := q.handle, asid := q.asid, seq := k, pend := false, rec_ := r, order := seqSub k q.head + 2 ^ 20,
                  level := recLevel s home r ((slotAt q k).map (·.visAt) |>.getD 0) }))

/-- Records of a home's pending table whose count is zero; another die of the cluster may take those alone that a task gave
back (R170, R185). -/
def pendingCands (s : State) (home d : Nat) : List Cand :=
  ((List.range s.pending.length).zip s.pending).filterMap (fun x =>
    if handleDie x.2.handle == home && (d == home || x.2.back) && x.2.count == 0 && recAdmits s x.2.rec_ d && ctxRuns s x.2.asid then
      some { handle := x.2.handle, asid := x.2.asid, seq := x.2.seq, pend := true, rec_ := x.2.rec_, order := x.1,
             level := recLevel s home x.2.rec_ x.2.visAt }
    else none)

def handleIndex (h : Word) : Nat := handleKey h % 2048

/-- The best of several records: highest level, queues round-robin from index `from_`, then by `order`. -/
def bestCand (from_ : Nat) (order : Cand → Nat) (l : List Cand) : Option Cand :=
  minBy (fun c => ((3 - c.level) * 2048 + (handleIndex c.handle + 2048 - from_ % 2048) % 2048) * 2 ^ 33 + order c) l

/-- A record is taken for dispatch: its bytes, sender, time and releasers. -/
def takeCand (s : State) (c : Cand) : State × Option (List Byte × Word × Nat × List RelEnt) :=
  if c.pend then
    let hit := fun (x : PendTask) => x.handle == c.handle && x.seq == c.seq
    match s.pending.find? hit with
    | none => (s, none)
    | some x => ({ s with pending := s.pending.filter (fun y => !hit y) }, some (x.rec_, x.sender, x.visAt, x.rels))
  else
    let r := takeSlot s c.handle c.seq
    (r.1, r.2.map (fun t => (t.rec_, t.slot.sender, t.slot.visAt, t.ents ++ t.pending.map Prod.fst)))

/-! ## Schedule variants (R179) -/

/-- The variant that selection gives phase j among variants 0 to nvar. -/
def chooseVariant (last : Tab (Nat × Nat)) (j nvar : Nat) : Nat :=
  let key := fun (v : Nat) => match Tab.find last v with
    | none => 0
    | some x => if j % 8 = 7 then x.1 else x.2
  (minBy key (List.range (nvar + 1))).getD 0

/-- A new phase of a pair opens at `now`. -/
def openPhase (v : VarSel) (nvar : Nat) (forced : Option Nat) (now : Nat) : VarSel × Nat :=
  let v1 := settlePhases { v with phases := v.phases.map (fun p => if v.open_ == some p.j then { p with closed := true } else p) }
  let pick := match forced with
    | some i => if i ≤ nvar then i else chooseVariant v1.last v1.next nvar
    | none => chooseVariant v1.last v1.next nvar
  let p : Phase := { j := v1.next, variant := pick, start := now, running := 1, ended := now }
  ({ v1 with next := v1.next + 1, open_ := some v1.next, phases := v1.phases ++ [p] }, pick)

/-- The variant and phase of a task that the module task unit dispatches. -/
def selectVariant (s : State) (asid nvar : Nat) (r : List Byte) : State × Nat × Option (Nat × Nat) :=
  if nvar = 0 then (s, 0, none)
  else
    let ty := taskType r
    let now := nodeTime s (roleHub s)
    let same := fun (v : VarSel) => v.asid == asid && v.ttype == ty
    let v : VarSel := (s.varsels.find? same).getD { asid := asid, ttype := ty, gen := s.nextTask }
    let put := fun (x : VarSel) => { s with varsels := (x :: s.varsels.filter (fun y => !same y)).take 1024 }
    match (if recPhase r then none else v.open_) with
    | none =>
      let o := openPhase v nvar (recVar r) now
      (put o.1, o.2, some (v.gen, v.next))
    | some j =>
      let i := ((v.phases.find? (fun p => p.j == j)).map (·.variant)).getD 0
      (put { v with phases := v.phases.map (fun p => if p.j == j then { p with running := p.running + 1 } else p) },
       i, some (v.gen, j))

/-! ## Stages 1 and 2 (R171) -/

/-- A record that has been taken becomes a task of die `d`, or a dead letter. -/
def startRecord (s : State) (d : Nat) (c : Cand) (x : List Byte × Word × Nat × List RelEnt) : State :=
  let r := recordChecked s d c.asid x.1
  match r.2 with
  | .error code => deadLetter r.1 c.asid x.1 c.handle code x.2.1 (handleDie c.handle)
  | .ok e =>
    let v := selectVariant r.1 c.asid (entNvar e) x.1
    let id := v.1.nextTask
    let t : Task := { id := id, asid := c.asid, die := d, handle := c.handle, seq := c.seq, rec_ := x.1, entry := e,
                      sender := x.2.1, visAt := x.2.2.1, variant := v.2.1, phase := v.2.2, rels := x.2.2.2 }
    requestRanges (setTask { v.1 with nextTask := id + 1 } id t) (.task id) c.asid (recRanges e x.1)

/-- A record is taken and started. -/
def dispatchCand (s : State) (d : Nat) (c : Cand) : State :=
  let r := takeCand s c
  match r.2 with
  | none => r.1
  | some x => startRecord r.1 d c x

/-- The first slot of a die's windows that must be taken out of the way. -/
def doomedSlot (s : State) (d : Nat) : Option (Queue × Nat) :=
  firstSome (fun (q : Queue) => (((visibleSeqs q).take 64).find? (fun k => recordDoomed s q k)).map (fun k => (q, k)))
    (dispatchQueues s d)

def clearDoomed (s : State) (d : Nat) (q : Queue) (k : Nat) : State :=
  let r := takeSlot s q.handle k
  match r.2 with
  | none => r.1
  | some t =>
    let x := recordChecked r.1 d q.asid t.rec_
    match x.2 with
    | .error code => deadLetter x.1 q.asid t.rec_ q.handle code t.slot.sender d
    | .ok _ => x.1

/-- Tasks of a die in stages 2 and 3. -/
def tasksWaiting (s : State) (d : Nat) : Nat :=
  (s.tasks.filter (fun e => e.2.die == d && (match e.2.st with
    | .leasing | .faulted _ _ _ _ => true
    | _ => false))).length

/-! ## Placement of parked and saved work (R176, R178, R183) -/

def groupRegws (s : State) (g : Workgroup) : List Nat := (unended s g).map (fun x => x.2.regw)

/-- The core to which a ready parked workgroup returns, with its partitions: of its quad first. -/
def parkedPlace (s : State) (g : Workgroup) : Option (Nat × List Nat) :=
  let ws := groupRegws s g
  let quad := (List.range 4).map (fun i => g.unit / 4 * 4 + i)
  firstSome (fun u => (coreRoom s g.node u ws g.scratch (some g.off) (if u = g.unit then ws.length else 0)).map
    (fun r => (u, r.1))) (quad ++ (List.range 48).filter (fun u => !quad.contains u))

/-- A ready parked workgroup of a die that finds a place. -/
def readyParked (s : State) (d : Nat) : Option (Nat × Nat × List Nat) :=
  firstSome (fun e =>
    if e.2.node == d && e.2.st == .parked true && ctxRuns s e.2.asid then (parkedPlace s e.2).map (fun r => (e.1, r))
    else none) s.wgs

/-- Saved work that may resume on a die. -/
def savedFor (s : State) (d : Nat) (e : Nat × Workgroup) : Bool :=
  e.2.st == .saved && e.2.cluster == b2n (inToken s d) && ctxRuns s e.2.asid

/-- A saved workgroup of a continuation goes straight to a core: the core and its partitions. -/
def soloPlace (s : State) (d : Nat) : Option (Nat × Nat × List Nat × Nat) :=
  firstSome (fun e =>
    if savedFor s d e && e.2.task.isNone then
      (chooseCore s d (groupRegws s e.2) e.2.scratch (some e.2.off)).map (fun r => (e.1, r))
    else none) s.wgs

/-- A saved task that asks again for its leases. -/
def savedTask (s : State) (d : Nat) : Option Task :=
  firstSome (fun e => if savedFor s d e then (e.2.task.bind (getTask s)).bind (fun t =>
    if t.st == .saved then some t else none) else none) s.wgs

/-! ## Continuations (R178) -/

/-- Registers read from a continuation record: numbers, shapes, payloads in order. -/
def contRegs (l : List Byte) : Nat → Nat → Nat → Tab Reg → Tab Reg
  | 0, _, _, t => t
  | f + 1, i, o, t =>
    let n := fieldAt l (16 + i) 1
    let w := fun (k : Nat) => BitVec.ofNat 32 (fieldAt l (o + 4 * k) 4)
    match bitsOf (fieldAt l 32 4) (2 * i) 2 with
    | 1 => contRegs l f (i + 1) (o + 8) (Tab.set (.u 0) t n (.a (w 0) (w 1)))
    | 2 => contRegs l f (i + 1) (o + 128) (Tab.set (.u 0) t n (.g ((List.range 32).map w)))
    | _ => contRegs l f (i + 1) (o + 4) (Tab.set (.u 0) t n (.u (w 0)))

/-- The wave that a continuation record gives. -/
def contWave (l : List Byte) (asid k d unit part : Nat) : Wave :=
  let tile : Word × Word × Word :=
    (BitVec.ofNat 32 (fieldAt l 42 2), BitVec.ofNat 32 (fieldAt l 44 2), BitVec.ofNat 32 (fieldAt l 46 2))
  let pc := BitVec.ofNat 64 (fieldAt l 0 8)
  { asid := asid, wg := some k, role := bitsOf (fieldAt l 40 2) 12 2, tile := tile, wgid := tile,
    arg := BitVec.ofNat 64 (fieldAt l 48 8), ttype := fieldAt l 40 2, entry := pc, node := d, unit := unit, part := part,
    resumed := true, regw := 256, regs := contRegs l (min 16 (fieldAt l 12 1)) 0 64 [],
    slot0 := some { pc := pc, mask := BitVec.ofNat 32 (fieldAt l 8 4) } }

/-- A continuation record with a nonzero reserved byte is rejected (R6): the chapter names no fault for it, and the model gives
it that of a refused save area (assumption log 77). -/
def contRead (v : Nat) (r : Except UnitErr (List Byte)) : Except UnitErr (List Byte) := match r with
  | .ok l => if zeroAt l [(15, 1), (56, 8)] then .ok l else .error { cause := cIllegalOpnd, sub := 4, addr := v }
  | .error e => .error e

/-- A ready continuation resumes on a core of die `d`. -/
def resumeCont (s : State) (d : Nat) (c : Cont) : State :=
  match chooseCore s d [256] 0 none with
  | none => s
  | some (u, ps, off) =>
    let r := unitRead s c.asid (contVa (getCtx s c.asid) c.slot) 2112
    let s1 := modCtx { r.1 with conts := r.1.conts.filter (fun x => x != c) } c.asid (fun x =>
      { x with contUsed := x.contUsed.filter (fun k => k != c.slot) })
    match contRead (contBase (getCtx s c.asid) + 2112 * c.slot) r.2 with
    | .error e =>
      (postFault s1 { cause := e.cause, sub := e.sub, origin := 7, addr := vaFull e.addr, asid := c.asid, xkind := e.xkind,
                      agent := agentId s1 d 127 } none).1
    | .ok l =>
      let k := s1.nextWg
      let id := s1.nextWave
      let s2 := takeSpan (coreWakes { s1 with nextWg := k + 1, nextWave := id + 1 } (coreKey d u)) (coreKey d u) off 0 [] [] []
      let g : Workgroup := { asid := c.asid, task := none, node := d, unit := u, off := off, waves := [id], total := 1,
                             prio := bitsOf (fieldAt l 13 1) 0 2 }
      let s3 := setWave (setWg s2 k g) id (contWave l c.asid k d u (ps.headD 0))
      launchAcquire s3 d u c.asid c.die c.rels none

def contReady (s : State) (d : Nat) (c : Cont) : Bool :=
  c.ready.isSome && c.cluster == b2n (inToken s d) && ctxRuns s c.asid

/-- CONTINUATION_RESUME: the k-th of a die's own continuations whose tag has completed; those of another die it takes by a
steal (R170, R178). -/
def execContinuationResume (die k : Nat) (s : State) : Out :=
  match (s.conts.filter (fun c => contReady s die c && c.die == die))[k]? with
  | some c => if dieTakes s die then .next (resumeCont s die c) else .next s
  | none => .next s

/-! ## Dispatch and stealing (R169-R171) -/

/-- A pending record without dependencies left that no present die can take (R162). -/
def doomedPending (s : State) (d : Nat) : Option PendTask :=
  s.pending.find? (fun x => handleDie x.handle == d && x.count == 0 && ctxRuns s x.asid && recNowhere s x.rec_)

/-- It goes to the dead-letter area with the code of its checks. -/
def clearPending (s : State) (d : Nat) (x : PendTask) : State :=
  let s1 := { s with pending := s.pending.filter (fun y => !(y.handle == x.handle && y.seq == x.seq)) }
  let r := recordChecked s1 d x.asid x.rec_
  match r.2 with
  | .error code => deadLetter r.1 x.asid x.rec_ x.handle code x.sender d
  | .ok _ => r.1

/-- A die's own preference among its records. -/
def dispatchRecord (s : State) (d : Nat) : State :=
  match doomedSlot s d, doomedPending s d with
  | some (q, k), _ => clearDoomed s d q k
  | none, some x => clearPending s d x
  | none, none =>
    if 64 ≤ tasksWaiting s d then s
    else match bestCand (getNode s d).rr (·.order) (visibleCands s d d (·.take 64) ++ pendingCands s d d) with
      | none => s
      | some c => dispatchCand (modNode s d (fun n => { n with rr := (handleIndex c.handle + 1) % 2048 })) d c

/-- TASK_DISPATCH: parked workgroups that are ready, then continuations, saved work, and records (R169). -/
def execTaskDispatch (die : Nat) (s : State) : Out :=
  if !dieRuns s die then .next s
  else match readyParked s die with
    | some (k, u, ps) => .next (restoreGroup s k die u ps)
    | none =>
      if !dieTakes s die then .next s
      else match s.conts.find? (fun c => contReady s die c && c.die == die && (chooseCore s die [256] 0 none).isSome) with
        | some c => .next (resumeCont s die c)
        | none => match soloPlace s die with
          | some (k, u, ps, _) => .next (restoreGroup s k die u ps)
          | none => match (if tasksWaiting s die < 64 then savedTask s die else none) with
            | some t =>
              let s1 := modTask s t.id (fun x => { x with st := .leasing, die := die })
              .next (requestRanges s1 (.task t.id) t.asid (recRanges t.entry t.rec_))
            | none => .next (dispatchRecord s die)

/-- What die `thief` could take from die `peer`, which homes the records. -/
def stealCount (s : State) (thief peer : Nat) : Nat :=
  (visibleCands s peer thief id ++ pendingCands s peer thief).length + (s.conts.filter (fun c => c.die == peer && contReady s thief c)).length

/-- STEAL_COUNT_EXCHANGE: once per us (R170). -/
def execStealCountExchange (s : State) : Out :=
  let live := cdies.filter (fun d => nodeActive s d)
  .next (live.foldl (fun t d =>
    if nodeTime t d < (getNode t d).countAt + 1000 then t
    else
      let l := (live.filter (fun p => p != d && inToken s p == inToken s d)).filterMap (fun p =>
        let n := stealCount s d p
        if n = 0 then none else some (p, n))
      modNode t d (fun x => { x with counts := l, countAt := nodeTime t d })) s)

/-- The peer with the highest count, the lowest of equals. -/
def stealPeer (s : State) (thief : Nat) : Option Nat :=
  (maxBy (fun e => e.2) (((getNode s thief).counts).filter (fun e => decide (0 < e.2)
    && inToken s e.1 == inToken s thief && e.1 != thief))).map Prod.fst

/-- Room for at least one workgroup. -/
def dieHasRoom (s : State) (d : Nat) : Bool :=
  (List.range 48).any (fun u => decide (0 < freeSlots s d u) && decide (admitted s d u < 128))

/-- The record that a peer gives a thief: a VISIBLE one, or one that a task gave back (R185). -/
def stolenCand (s : State) (thief peer : Nat) : Option Cand :=
  bestCand (getNode s peer).steal (fun c => 2 ^ 33 - 1 - c.order) (visibleCands s peer thief id ++ pendingCands s peer thief)

/-- STEAL: the peer hands one record to the thief, or answers empty (R170). -/
def execSteal (thief peer : Nat) (s : State) : Out :=
  let own := !(visibleCands s thief thief (·.take 64) ++ pendingCands s thief thief).isEmpty
    || s.conts.any (fun c => contReady s thief c && c.die == thief)
  if !dieTakes s thief ∨ own ∨ !dieHasRoom s thief ∨ stealPeer s thief ≠ some peer ∨ 64 ≤ tasksWaiting s thief then .next s
  else
    let empty := modNode s thief (fun n => { n with counts := Tab.erase n.counts peer })
    if (getNode s peer).halt ∨ !nodeActive s peer then .next empty
    else match s.conts.find? (fun c => c.die == peer && contReady s thief c && (chooseCore s thief [256] 0 none).isSome) with
      | some c => .next (resumeCont s thief c)
      | none => match stolenCand s thief peer with
        | none => .next empty
        | some c =>
          .next (dispatchCand (modNode s peer (fun n => { n with steal := (handleIndex c.handle + 1) % 2048 })) thief c)

/-! ## Stages 3 to 5: the gang (R171, R172) -/

/-- The waves of a variant in order: role, index, entry. -/
def gangWaves (e : List Byte) (v : Nat) : List (Nat × Nat × RoleEnt) :=
  (List.range 3).flatMap (fun r => (List.range (roleEnt e v r).waves).map (fun i => (r, i, roleEnt e v r)))

/-- A wave at launch (R172). -/
def launchWave (t : Task) (k num d unit part : Nat) (x : Nat × Nat × RoleEnt) : Wave :=
  let arg := recArg t.rec_
  { asid := t.asid, wg := some k, num := num, role := x.1, idx := x.2.1, task := taskWord t, taskId := some t.id,
    tile := recTile t.rec_, wgid := recTile t.rec_, arg := arg, ttype := taskType t.rec_ + x.1 * 4096 + t.variant * 16384,
    entry := x.2.2.pc, node := d, unit := unit, part := part, regw := x.2.2.regw,
    regs := Tab.set (.u 0) (Tab.set (.u 0) (Tab.set (.u 0) (Tab.set (.u 0) [] 0 (.u (arg.setWidth 32))) 1
      (.u ((arg >>> 32).setWidth 32))) 2 (.u (BitVec.ofNat 32 x.2.1))) 3 (.u (BitVec.ofNat 32 x.1)),
    slot0 := some { pc := x.2.2.pc, mask := BitVec.allOnes 32 } }

/-- The pre-copies of a task (R171 stage 4). -/
def preTemplates (t : Task) : List Template := ((usedTemplates t.entry).map Prod.snd).filter (·.pre)

def pushPre (s : State) (t : Task) (k off ck : Nat) (x : Template) : State :=
  let tag := nextTag (getCore s ck).tagCount
  let c : Cmd :=
    { tag := tag, wave := none, num := 0, wg := some k, taskId := some t.id, asid := t.asid,
      agent := agentId s t.die (ck % 128), off := off, k := .pre (rangeStart x t.rec_).toNat x.soff x.size,
      scrW := [span (off + x.soff) x.size] }
  pushCmd (modCore s ck (fun y => { y with tagCount := tag })) ck c

/-- A gang launches on a core: all waves of all roles in one step. -/
def launchGang (s : State) (t : Task) (u : Nat) (ps : List Nat) (off : Nat) : State :=
  let d := t.die
  let ck := coreKey d u
  let k := s.nextWg
  let ws := gangWaves t.entry t.variant
  let first := s.nextWave
  let s1 := takeSpan (coreWakes { s with nextWg := k + 1, nextWave := first + ws.length } ck) ck off (entScratch t.entry) [] [] []
  let g : Workgroup :=
    { asid := t.asid, task := some t.id, node := d, unit := u, off := off, scratch := entScratch t.entry,
      swz := entSwz t.entry, gstop := bitOf (fieldAt t.entry 0 4) 2, waves := (List.range ws.length).map (first + ·),
      total := ws.length, prio := recPrio t.rec_ }
  let s2 := setWg (setTask s1 t.id { t with st := .running, wg := some k, cycles := 0, expired := false }) k g
  let s3 := launchAcquire s2 d u t.asid (handleDie t.handle) t.rels (some (recInputs t.entry t.rec_))
  let s4 := (preTemplates t).foldl (fun v x => pushPre v t k off ck x) s3
  ((List.range ws.length).zip (ws.zip ps)).foldl (fun v x =>
    setWave v (first + x.1) (launchWave t k x.1 d u x.2.2 x.2.1)) s4

/-- The cores on which a task's gang, new or saved, can stand now: core, partitions, offset. -/
def gangPlace (s : State) (t : Task) : Option (Nat × List Nat × Nat) :=
  match t.wg.bind (getWg s) with
  | some g => chooseCore s t.die (groupRegws s g) g.scratch (some g.off)
  | none => chooseCore s t.die ((gangWaves t.entry t.variant).map (fun x => x.2.2.regw)) (entScratch t.entry) none

/-- All leases of a task are held. -/
def leasesHeld (t : Task) : Bool := t.st == .leasing && t.parts.all (fun p => !p.pending)

/-- GANG_LAUNCH (R171 stages 3 to 5, R183). -/
def execGangLaunch (task : Nat) (s : State) : Out :=
  match getTask s task with
  | none => .next s
  | some t =>
    if !leasesHeld t ∨ !dieRuns s t.die ∨ !ctxRuns s t.asid then .next s
    else match gangPlace s t with
      | none => .next s
      | some (u, ps, off) => match t.wg with
        | some k => .next (modTask (restoreGroup s k t.die u ps) task (fun x => { x with st := .running }))
        | none =>
          let n := (preTemplates t).length
          let c := getCore s (coreKey t.die u)
          if scoreEntries < c.score.length + n ∨ lockEntries < c.locks.length + n then .next s
          else .next (launchGang s t u ps off)

/-- PENDING_LIFT: the oldest visible record of a queue, with dependencies, goes to the pending table (R167). -/
def execPendingLift (die index : Nat) (s : State) : Out :=
  match (getQidx s (die * 2048 + index)).q with
  | none => .next s
  | some q =>
    if q.soft ∨ (getNode s die).halt ∨ 4096 ≤ (s.pending.filter (fun p => handleDie p.handle == die)).length then .next s
    else match (visibleSeqs q).head? with
      | none => .next s
      | some k => match recordAt s q k with
        | none => .next s
        | some r =>
          if recDeps r = 0 then .next s
          else
            let x := takeSlot s q.handle k
            match x.2 with
            | none => .next x.1
            | some y =>
              let p : PendTask := { handle := q.handle, seq := k, asid := q.asid, rec_ := y.rec_, sender := y.slot.sender,
                                    count := recDeps y.rec_, visAt := y.slot.visAt, rels := y.ents ++ y.pending.map Prod.fst }
              .next { x.1 with pending := x.1.pending ++ [p] }

/-! ## The end of a task (R173) -/

/-- 1 is added to the word at DONE, with the task's core as releaser. -/
def addDone (s : State) (t : Task) (g : Workgroup) : State :=
  let va := recDone t.rec_
  let fail := fun (u : State) (e : UnitErr) =>
    (postFault u { cause := e.cause, sub := e.sub, origin := 7, addr := va, asid := t.asid, xkind := e.xkind,
                   agent := agentId u t.die 127, task := taskWord t, ttype := taskType t.rec_ + t.variant * 16384 } none).1
  if va = 0 then s
  else
    let r := unitRead s t.asid va 8
    match r.2 with
    | .error e => fail r.1 e
    | .ok l =>
      let w := unitWrite r.1 t.asid va (bytesOfNat 8 ((natOfBytes l + 1) % 2 ^ 64))
      match w.2 with
      | some e => fail w.1 e
      | none =>
        let a := ctxAddr t.asid va
        let es := releaseEntries w.1 g.node g.unit .pkg
        ((List.range 8).map (fun i => (a.2 + i) / 4)).eraseDups.foldl (fun u x => match homeOf u a.1 (4 * x) with
          | some h => recordRel u h (lineKey a.1 (x / 32)) (x % 32) es
          | none => u) w.1

/-- TASK_END (R173). -/
def execTaskEnd (task : Nat) (s : State) : Out :=
  match getTask s task with
  | none => .next s
  | some t => match t.wg with
    | none => .next s
    | some k => match getWg s k with
      | none => .next s
      | some g =>
        if t.st ≠ .running ∨ g.st ≠ .resident ∨ !(unended s g).isEmpty ∨ !(groupCmds s k g).isEmpty
          ∨ (groupWaves s g).any (fun x => !x.2.pend.isEmpty) then .next s
        else .next (dropGroup (addDone (endLeases s (.task task)) t g) k)

/-! ## Parking (R174-R176) -/

/-- Every unended wave of a workgroup is blocked where parking allows it (R175). -/
def parkable (s : State) (k : Nat) (g : Workgroup) : Bool :=
  let ws := unended s g
  let waits := fun (p : Path) => match p.st with
    | .blocked (.mwait _ _) | .blocked (.qpop _ _) | .blocked (.ewait _ _) => true
    | _ => false
  g.st == .resident && !ws.isEmpty && ws.all (fun x => x.2.home.isNone && x.2.run == .run && x.2.op.id == 0
      && x.2.arrive.isNone && x.2.blockedAt.isSome && (wavePaths x.2).all waits)
    && (groupCmds s k g).all (fun c => c.scrW.isEmpty && c.accW.isEmpty && c.inp.isSome)

def blockedSince (s : State) (g : Workgroup) : Nat :=
  ((unended s g).map (fun x => x.2.blockedAt.getD 0)).foldl max 0

/-- Something waits for room on a core: a ready parked workgroup of its quad, or a task that holds its leases. -/
def roomWanted (s : State) (d unit : Nat) : Bool :=
  s.wgs.any (fun e => e.2.node == d && e.2.st == .parked true && e.2.unit / 4 == unit / 4 && (parkedPlace s e.2).isNone)
    || s.tasks.any (fun e => e.2.die == d && leasesHeld e.2 && (gangPlace s e.2).isNone)

/-- WORKGROUP_PARK: the workgroup of its core that has been blocked longest (R175). -/
def execWorkgroupPark (wg : Nat) (s : State) : Out :=
  match getWg s wg with
  | none => .next s
  | some g =>
    let longest := s.wgs.all (fun e => e.1 == wg || e.2.node != g.node || e.2.unit != g.unit || !parkable s e.1 e.2
      || decide (blockedSince s g ≤ blockedSince s e.2))
    if !parkable s wg g ∨ !longest ∨ !dieRuns s g.node ∨ !roomWanted s g.node g.unit then .next s
    else .next (parkGroup s wg)

/-- Whether a path of a parked wave would wake (R176). -/
def pathWakes (s : State) (w : Wave) (p : Path) : Bool :=
  match p.st with
  | .blocked (.qpop _ h) => (match queueOf s h with
    | none => true
    | some q => !(visibleSeqs q).isEmpty)
  | .blocked (.ewait _ done) => done
  | .blocked (.mwait _ dl) => (List.range 6).any (fun c => mwaitDue s w dl c)
  | _ => false

/-- PARKED_WORKGROUP_READY (R176). -/
def execParkedWorkgroupReady (wg : Nat) (s : State) : Out :=
  match getWg s wg with
  | none => .next s
  | some g =>
    if g.st == .parked false && (unended s g).any (fun x => (wavePaths x.2).any (pathWakes s x.2)) then
      .next (setWg s wg { g with st := .parked true })
    else .next s

/-! ## Watchdogs (R180, R181) -/

/-- The state of a wave in a snapshot (R254). -/
def snapWave (w : Wave) : Nat :=
  let pc := boundaryPc w
  let st := if waveEnded w then 3 else if watchIdle w then 1 else if waveBlocked w then 2 else 0
  let n := if pc.toNat < w.entry.toNat then 2 ^ 30 - 1 else min ((pc.toNat - w.entry.toNat) / 4) (2 ^ 30 - 1)
  st * 2 ^ 30 + n

def watchExpired (t : Task) : Bool := t.st == .running && decide (2 ^ (16 + entWdc t.entry) ≤ t.cycles)

/-- WATCHDOG_FIRST_EXPIRY: a record with a snapshot; the task runs on (R181). -/
def execWatchdogFirstExpiry (task : Nat) (s : State) : Out :=
  match getTask s task with
  | none => .next s
  | some t =>
    if !watchExpired t ∨ t.expired then .next s
    else
      let g := t.wg.bind (getWg s)
      let snap := match g with
        | some g => (groupWaves s g).flatMap (fun x => bytesOfNat 4 (snapWave x.2))
        | none => []
      let s1 := (postFault s { cause := cWatchdog, sub := 0, origin := 4, asid := t.asid, task := taskWord t,
                               ttype := taskType t.rec_ + t.variant * 16384, snap := snap,
                               agent := match g with
                                 | some g => agentId s g.node g.unit
                                 | none => 0 } none).1
      .next (modTask s1 task (fun x => { x with cycles := 0, expired := true }))

/-- WATCHDOG_SECOND_EXPIRY: the context is reset, and WDX is set (R181). -/
def execWatchdogSecondExpiry (task : Nat) (s : State) : Out :=
  match getTask s task with
  | none => .next s
  | some t =>
    if !watchExpired t ∨ !t.expired then .next s
    else .next (modCtx (ctxReset s t.asid 1) t.asid (fun c => { c with wdx := true }))

/-! ## Pre-emption (R182, R274) -/

/-- The dies where a workgroup's waves run: its own, and those of detached waves (R214, R218). -/
def groupDies (s : State) (g : Workgroup) : List Nat := g.node :: (unended s g).map (fun x => x.2.node)

/-- Whether a workgroup is of the target: of a die when a wave of it runs there. -/
def preemptHits (s : State) (p : PreTarget) (g : Workgroup) : Bool :=
  match p with
  | .die d => (groupDies s g).contains d
  | .ctx a => g.asid == a
  | .halt a => g.asid == a

def isHalt : PreTarget → Bool
  | .halt _ => true
  | _ => false

/-- A deadline of MOD_PREEMPT in ns. -/
def deadlineNs (us : Nat) : Nat := max 1 us * 1000

/-- A workgroup is stopped to be held by the debugger. -/
def haltGroup (s : State) (k : Nat) : State :=
  match getWg s k with
  | none => s
  | some g => match g.st with
    | .resident => stopProgress (stopWaves (setWg s k { g with st := .halting 0 0 true, stop := none }) k) k
    | .parked _ | .saved => holdGroup s k
    | _ => s

/-- One workgroup of a pre-emption: parked ones are saved as they stand, resident ones at D1. -/
def preemptGroup (p : PreTarget) (late : Bool) (s : State) (k : Nat) : State :=
  match getWg s k with
  | none => s
  | some g =>
    let due := match g.st with
      | .parked _ => true
      | .saved => isHalt p
      | _ => late
    -- a hold that reaches a halted die waits until the die resumes (R277), and a stopped clock moves nothing (R22)
    if !due ∨ (groupDies s g).any (fun d => (getNode s d).halt || (getNode s d).busy) then s
    else if isHalt p then haltGroup s k
    else match g.st with
      | .resident =>
        let s1 := stopWaves s k
        if groupQuiet s1 k then saveGroup s1 k else s1
      | .parked _ => if groupQuiet s k then saveGroup s k else s
      | _ => s

/-- A die of the cluster other than `d` that takes work. -/
def otherDie (s : State) (d : Nat) : Nat :=
  (cdies.find? (fun x => x != d && nodeActive s x && inToken s x == inToken s d)).getD d

/-- What a die that enters ISOLATE hands on besides workgroups: tasks that wait, saved ones that were to resume there,
continuations, and the leases of held workgroups. -/
def dieHandsOn (s : State) (d : Nat) : State :=
  let waiting := s.tasks.filter (fun e => e.2.die == d && taskWaits e.2)
  let s0 := waiting.foldl (fun t e => giveBack t e.2) s
  let back := s0.tasks.filter (fun e => e.2.die == d && (match e.2.wg.bind (getWg s0) with
    | some g => g.st == .saved
    | none => false))
  let s1 := back.foldl (fun t e => modTask (endLeases t (.task e.1)) e.1 (fun x => { x with st := .saved, die := noDie })) s0
  let o := otherDie s1 d
  let heldTask := fun (t : Task) => match t.wg.bind (getWg s1) with
    | some g => (match g.st with
      | .held _ _ => true
      | _ => false)
    | none => false
  { s1 with conts := s1.conts.map (fun c => if c.die == d then { c with die := o } else c),
            tasks := Tab.mapVals (fun _ t => if t.die == d && heldTask t then { t with die := o } else t) s1.tasks,
            wgs := Tab.mapVals (fun _ g => if g.node == d && (match g.st with
              | .held _ _ => true
              | _ => false) then { g with node := noDie } else g) s1.wgs }

/-- Whether work of the target is still where it was. -/
def preemptLeft (s : State) (p : PreTarget) : Bool :=
  s.wgs.any (fun e => preemptHits s p e.2 && (match e.2.st with
    | .held _ _ => false
    | .saved => isHalt p
    | _ => true))

/-- The Drain and Save stages of the k-th pre-emption as far as its time allows. -/
def preemptStep (s : State) (p : Preempt) : State :=
  let late := decide (deadlineNs s.mods.d1 ≤ p.count)
  let hit := (s.wgs.filter (fun e => preemptHits s p.target e.2)).map Prod.fst
  let s1 := hit.foldl (preemptGroup p.target late) s
  let s2 := match p.target with
    | .die d => dieHandsOn s1 d
    | _ => s1
  if late && !preemptLeft s2 p.target then
    match p.target with
    | .die _ => { s2 with preempts := s2.preempts.map (fun x => if x.target == p.target then { x with saved := true } else x) }
    | _ => { s2 with preempts := s2.preempts.filter (fun x => x.target != p.target) }
  else s2

/-- PREEMPT_SAVE (R182). -/
def execPreemptSave (k : Nat) (s : State) : Out :=
  match s.preempts[k]? with
  | none => .next s
  | some p => .next (preemptStep s p)

/-- PREEMPT_FORCE: at D1 + D2 a workgroup with unfinished engine operations resets its context (R182). -/
def execPreemptForce (k : Nat) (s : State) : Out :=
  match s.preempts[k]? with
  | none => .next s
  | some p =>
    if isHalt p.target ∨ p.count < deadlineNs s.mods.d1 + deadlineNs s.mods.d2 then .next s
    else
      let late := (s.wgs.filter (fun e => preemptHits s p.target e.2 && !groupQuiet s e.1)).map (fun e => e.2.asid)
      .next (late.eraseDups.foldl (fun t a => modCtx (ctxReset t a 2) a (fun c => { c with prex := true })) s)

/-! ## Answers to routed faults (R111, R117, R118) -/

/-- An answer through HUB_FLT_ANS. -/
def answerFault (s : State) (seq : Word) (ok : Bool) : State :=
  match s.flt.awaiting.find? (fun a => a.1 == seq.toNat) with
  | none => s
  | some (q, who) =>
    let s1 := { s with flt := { s.flt with awaiting := s.flt.awaiting.filter (fun a => a.1 != q) } }
    match who with
    | .task id => (match getTask s1 id with
      | none => s1
      | some t => (match t.st with
        | .faulted _ sub xkind addr =>
          if ok then
            requestRanges (modTask s1 id (fun x => { x with st := .leasing })) (.task id) t.asid (recRanges t.entry t.rec_)
          else
            let s2 := taskDenied s1 id sub xkind addr
            (match t.wg with
             | some k => dropGroup s2 k
             | none => s2)
        | _ => s1))
    | .standing a k => if ok then retryStanding s1 a k else s1
    | .thread w => modWave s1 w (fun x => { x with stall := some (q, some ok) })
    | .remote m r => sendPkt s1 { src := roleHub s1, dst := roleHub s1, mod := some m, cls := .rsp, msg := .faultAns r ok } 0

/-- RESOLVED (R117). -/
def execResolved (seq : Word) (s : State) : Out := .next (answerFault s seq true)

/-- DENIED (R117). -/
def execDenied (seq : Word) (s : State) : Out := .next (answerFault s seq false)

/-- FAULT_RECORD_POST (R255). -/
def execFaultRecordPost (s : State) : Out := .next (postOldest s)

end Sys2Proof.Machine
end

