-- ==== Sys2Proof/Machine/Context.lean ====
section
/-! DEFINITION. Contexts and key slots: creation, destruction, `keydrop` (R134-R140). -/

namespace Sys2Proof.Machine

/-! ## Ending a context (R137) -/

/-- The live queues of a context. -/
def queuesOf (s : State) (asid : Nat) : List Word :=
  s.queues.filterMap (fun e => match e.2.q with
    | some q => if q.asid == asid then some q.handle else none
    | none => none)

/-- Steps 1 to 3 of DESTROY: work is reset by force, queues are quarantined, leases end. -/
def endContext (s : State) (asid : Nat) : State :=
  let s1 := ctxReset s asid 3
  let s2 := (queuesOf s1 asid).foldl (fun t h => destroyQueue t h false) s1
  let s3 := (getCtx s2 asid).leases.foldl (fun t e => endLeases t (.standing asid e.1)) s2
  let s4 := { s3 with
    queues := Tab.mapVals (fun _ (y : QIdx) => if y.owner == some asid then { y with owner := none } else y) s3.queues
    varsels := s3.varsels.filter (fun v => v.asid != asid)
    gbars := s3.gbars.filter (fun b => b.asid != asid)
    flt := { s3.flt with awaiting := s3.flt.awaiting.filter (fun a => match a.2 with
      | .standing x _ => x != asid
      | _ => true) } }
  modCtx s4 asid (fun c => { c with live := false, awaitsAtinv := true, leases := [], ttCache := [], sched := .halted })

/-! ## Key slots (R138, R140, R439) -/

/-- Live contexts bound to a slot. -/
def boundTo (s : State) (slot : Nat) : List Nat :=
  (s.ctxs.filter (fun e => e.2.live && e.2.slot == slot)).map Prod.fst

/-- The destruction of a slot is sent on CTL to every C-die and hub. -/
def startKeyDestroy (s : State) (slot agent : Nat) : State :=
  let k := getKey s slot
  if !k.alloc ∨ k.destroying.isSome then s
  else
    let due := homeNodes.filter (fun n => !nodeLost s n)
    due.foldl (fun t n => send t (roleHub t) n .ctl 0 (.keyDestroy slot k.gen agent))
      (modKey s slot (fun k => { k with destroying := some due, cleared := [] }))

/-- The slot under which a line's page is encrypted. -/
def lineSlot (s : State) (k : Nat) : Option Nat :=
  match homeOf s (lineAsid k) (lineNo k * 128) with
  | none => none
  | some h => match xlatePeek s h (lineAsid k) (lineNo k * 128) .read true with
    | .ok p => some p.key
    | .error _ => none

/-- A node clears a slot's keys and drops, unwritten, each line tagged with it (R140). Weight slots of its W-dies that
are tagged with it become EMPTY (R439). -/
def clearKeyAt (s : State) (n slot : Nat) : State :=
  let out := fun (node k : Nat) => node == n && lineSlot s (k % 2 ^ 61) == some slot
  let homed := fun (k : Nat) => homeOf s (lineAsid k) (lineNo k * 128) == some n && lineSlot s k == some slot
  let s1 := { s with l1 := s.l1.filter (fun e => !out (e.1 / 2 ^ 61 / 64) e.1)
                     l2 := s.l2.filter (fun e => !out (e.1 / 2 ^ 61 / 64) e.1)
                     llc := s.llc.filter (fun e => !out (e.1 / 2 ^ 61) e.1) }
  let s2 := (s1.words.filter (fun e => homed e.1)).foldl (fun t e =>
    lanes32.foldl (fun u w => if wordSt u e.1 w = .v then setWordSt u e.1 w .i else u) t) s1
  (wdiesOf n).foldl (fun t w => modWdie t w (fun d =>
    { d with slots := Tab.mapVals (fun _ (x : WSlot) =>
        if x.key == slot && x.st != .absent && x.st != .empty then {} else x) d.slots })) s2

def serveKeyDestroy (s : State) (n : Nat) : State :=
  match servable s n with
  | some p => match p.msg with
    | .keyDestroy slot gen _ =>
      let s1 := takeMsg s n
      if (getKey s1 slot).gen ≠ gen then s1
      else modKey (clearKeyAt s1 p.dst slot) slot (fun k =>
        { k with destroying := k.destroying.map (fun l => l.filter (fun d => d != p.dst)), cleared := k.cleared ++ [p.dst] })
    | _ => s
  | none => s

/-- KEY_DESTRUCTION: a die clears the slot's keys, drops its lines and acknowledges (R140). -/
def execKeyDestruction (n : Nat) (s : State) : Out := .next (serveKeyDestroy s n)

/-- Every die has acknowledged: contexts bound to the slot end, and the slot returns to the free pool. -/
def endKeySlot (s : State) (slot : Nat) : State :=
  modKey ((boundTo s slot).foldl endContext s) slot (fun k => { k with alloc := false, destroying := none, cleared := [] })

/-- Hub firmware's `atinv` over the whole space of an ASID. -/
def firmwareAtinv (asid : Nat) : Atinv := { who := .firmware, asid := asid, range := wholeSpace asid, force := false }

/-- Contexts whose `atinv` hub firmware issues now: those that have ended and whose slot is not being destroyed. -/
def endingContexts (s : State) : List Nat :=
  (s.ctxs.filter (fun e => e.2.awaitsAtinv && (getKey s e.2.slot).destroying.isNone)).map Prod.fst

/-- Slots that every die has acknowledged. -/
def endingSlots (s : State) : List Nat := (s.keys.filter (fun e => e.2.destroying == some [])).map Prod.fst

/-- Hub firmware goes on with what is ending (R137, R140). -/
def firmwareStep (s : State) : State :=
  let s1 := (endingSlots s).foldl endKeySlot s
  let s2 := (endingContexts s1).foldl (fun t a => (atinvStep t (firmwareAtinv a)).1) s1
  { s2 with funcs := Tab.mapVals (fun _ (f : Func) =>
      if f.ctxBusy && !(getCtx s2 f.ctxAsid).awaitsAtinv then { f with ctxBusy := false } else f) s2.funcs }

/-- Hub firmware has something to do. -/
def firmwareDue (s : State) : Bool :=
  !(endingSlots s).isEmpty || (endingContexts s).any (fun a => atinvReady s (firmwareAtinv a))

/-! ## CREATE and DESTROY (R134-R137) -/

/-- A 128-bit entry of the home map in a descriptor. -/
def descHome (d : List Byte) (i : Nat) : BitVec 128 := BitVec.ofNat 128 (fieldAt d (0x400 + 16 * i) 16)

/-- A reserved bit of a register image of the descriptor is set (R6, R84, R86, R101, R112, R163). -/
def descWordsBad (d : List Byte) : Bool :=
  let set := fun (o : Nat) (m : DWord) => BitVec.ofNat 64 (fieldAt d o 8) &&& m != 0
  set 0 0x7FFF800000000000#64 || set 8 0xFFC0000000000FE0#64 || set 0x10 0xFFC0000000000FFF#64
    || set 0x18 0x000000003FFFFFE0#64
    || (List.range 16).any (fun k => set (0x800 + 8 * k) 0x1000000000003FFF#64)
    || (List.range 120).any (fun i => set (0x880 + 8 * i) 0x40C000000000007F#64)

/-- A malformed descriptor (R6, R135, R136). -/
def descBad (d : List Byte) : Bool :=
  let zero := fun (lo hi : Nat) => ((d.drop lo).take (hi - lo)).all (fun b => b == 0)
  let es := (List.range 64).map (descHome d)
  !zero 0x01C 0x400 || !zero 0xC80 0x1000 || descWordsBad d || es.any homeEntBad
    || (List.range 64).any (fun i => (List.range i).any (fun j => homeOverlap (descHome d i) (descHome d j)))

/-- The lowest free key slot. -/
def freeSlot (s : State) : Option Nat := ((List.range 1023).map (· + 1)).find? (fun k => !(getKey s k).alloc)

/-- Contexts may exist in Manufacture, Deployed and Field-Debug (R143). -/
def lcContexts (s : State) : Bool := s.secure.lc != .provisioned && s.secure.lc != .retired

/-- The ERR of CREATE, the first of the table that applies; a descriptor that could not be read is not checked, and one whose
address is not 4 KiB aligned counts as unread (assumption log 17). -/
def createErr (s : State) (func asid : Nat) (join : Bool) (d : List Byte) : Nat :=
  let f := getFunc s func
  let c := getCtx s asid
  let j := getCtx s f.ctxJoin.toNat
  (firstSome (fun (x : Nat × Bool) => if x.2 then some x.1 else none)
    [(1, f.ctxBusy), (2, asid == 0), (3, c.live), (4, c.awaitsAtinv), (5, !join && (freeSlot s).isNone),
     (6, join && !(j.live && j.func == func)), (8, s.mods.hostFails || f.ctxDesc.toNat % 4096 != 0), (7, descBad d),
     (9, !lcContexts s)]).getD 0

def maskRset (x : DWord) : DWord :=
  let n := bitsOf x.toNat 56 6
  let y := x &&& 0xBF3FFFFFFFFFFF80#64
  if n < 7 ∨ 53 < n then y &&& ~~~((1#64) <<< 63) else y

/-- The state that a descriptor gives a context (R135); reserved bits read zero (R6). -/
def descCtx (d : List Byte) (func slot : Nat) : Ctx :=
  let q := fun (o : Nat) => BitVec.ofNat 64 (fieldAt d o 8)
  let homes := (List.range 64).filterMap (fun i => if descHome d i = 0 then none else some (i, descHome d i))
  let sets := (List.range 120).filterMap (fun i =>
    let x := maskRset (q (0x880 + 8 * i))
    if x = 0 then none else some (8 + i, x))
  let repl := (List.range 16).filterMap (fun i =>
    let x : Word := BitVec.ofNat 32 (fieldAt d (0xC40 + 4 * i) 4)
    if x = 0 then none else some (i, x))
  { live := true, func := func, slot := slot, home := homes,
    ptbase := (q 0 &&& 0x8000001FFFFFFFFF#64) ||| (BitVec.ofNat 64 slot <<< 37),
    dlq := q 8 &&& 0x003FFFFFFFFFF01F#64, raceBase := q 0x10 &&& 0x003FFFFFFFFFF000#64,
    raceCtl := (q 0x18).setWidth 32 &&& 0xC000001F#32, rset := sets, repl := repl }

/-- The context is made with its key slot, and its standing leases are requested (R112, R136, R138). -/
def createContext (s : State) (func asid : Nat) (join : Bool) (d : List Byte) : State :=
  let slot := if join then (getCtx s (getFunc s func).ctxJoin.toNat).slot else (freeSlot s).getD 0
  let s1 := if join then s else modKey s slot (fun k => { alloc := true, gen := k.gen + 1 })
  let s2 := setCtx s1 asid (descCtx d func slot)
  let s3 := (List.range 16).foldl (fun t k =>
    let x := BitVec.ofNat 64 (fieldAt d (0x800 + 8 * k) 8)
    if x = 0 then t else writeStanding t asid k x) s2
  modFunc s3 func (fun f => { f with ctxErr := 0, ctxSlot := slot })

/-- CTX_CREATE: a CREATE in `MOD_CTX_CMD` of a function (R134-R136). -/
def execCtxCreate (func : Nat) (cmd : Word) (s : State) : Out :=
  if !s.mods.ready then .next s
  else
    let asid := bitsOf cmd.toNat 0 14
    let join := cmd.getLsbD 27
    let d := hostRead s (getFunc s func).ctxDesc.toNat 4096
    let e := createErr s func asid join d
    if e ≠ 0 then .next (modFunc s func (fun f => { f with ctxErr := e }))
    else .next (createContext s func asid join d)

/-- CTX_DESTROY: the context ends; its key slot goes with the last context bound to it; hub firmware then issues the
`atinv` (R137). -/
def execCtxDestroy (func : Nat) (cmd : Word) (s : State) : Out :=
  let asid := bitsOf cmd.toNat 0 14
  let f := getFunc s func
  let c := getCtx s asid
  if f.ctxBusy then .next (modFunc s func (fun f => { f with ctxErr := 1 }))
  else if asid = 0 ∨ !c.live ∨ c.func ≠ func then .next (modFunc s func (fun f => { f with ctxErr := 3 }))
  else
    let s1 := modFunc (endContext s asid) func (fun f => { f with ctxErr := 0, ctxBusy := true, ctxAsid := asid })
    .next (if c.slot ≠ 0 ∧ (boundTo s1 c.slot).isEmpty then startKeyDestroy s1 c.slot 0 else s1)

end Sys2Proof.Machine
end

