-- ==== Sys2Proof/Machine/Ctl.lean ====
section
/-! DEFINITION. The control registers of contexts and the commands given through them: tokens, queues, leases, task types,
scheduling, debugging (R84-R89, R112, R153, R164, R177, R184, R257, R259, R273-R277, R431, R432). -/

namespace Sys2Proof.Machine

/-- A context that exists: a live one, or the firmware's. -/
def ctxThere (s : State) (asid : Nat) : Bool := (getCtx s asid).live || asid == 0

/-- A command to a context that does not exist does nothing. -/
def onCtx (s : State) (asid : Nat) (f : State → State) : Out := .next (if ctxThere s asid then f s else s)

/-! ## Token commands (R89) -/

/-- The home of a token region: the block lies in one granule, or in a single LOCAL range. -/
def tokenHome (s : State) (asid base size : Nat) : Option Nat :=
  if base % size ≠ 0 then none
  else match homeOf s asid base with
    | none => none
    | some h =>
      let local_ := (getCtx s asid).home.any (fun e =>
        let x := homeEnt e.2
        x.policy == 1 && decide (x.base * 65536 ≤ base) && decide (base + size ≤ (x.base + x.count) * 65536))
      if isCdie h ∧ (size ≤ 65536 ∨ local_) then some h else none

def tokenMeets (t : Token) (h asid base size : Nat) : Bool :=
  t.node == h && t.asid == asid && decide (t.base < base + size) && decide (base < t.base + t.size)

def tokCmdSize (x : DWord) : Nat := 2 ^ (12 + bitsOf x.toNat 56 4)
def tokCmdBase (x : DWord) : Nat := bitsOf x.toNat 12 42 * 4096

def tokFail (s : State) (asid e : Nat) : State := modCtx s asid (fun c => { c with tokErr := e })

/-- DRAIN for a token region goes to every owner of a region inside it. -/
def tokenDrain (s : State) (t : Token) (tag : Nat) : State :=
  let rs := [({ lo := t.base, hi := t.base + t.size } : Range)]
  let own := fun (x : Region) => x.node == t.node && x.asid == t.asid
    && rangesHit (some rs) (x.base * 128) ((x.base + regionLines x.level) * 128)
  (((s.regions.filter own).map (·.owner)).eraseDups).foldl (fun u a => send u t.node (agentNode a) .syn t.base
    (.drain a false t.asid (some rs) (agentId u t.node 127) tag)) s

/-- CREATE of CTX_TOKEN_CMD. -/
def tokenCreate (s : State) (asid0 : Nat) (x : DWord) : State :=
  let base := tokCmdBase x
  let size := tokCmdSize x
  let asid := if bitOf base 53 then 0 else asid0
  if (getCtx s asid0).tokBusy then tokFail s asid0 6
  else match tokenHome s asid base size with
    | none => tokFail s asid0 3
    | some h =>
      if !nodeActive s h then tokFail s asid0 5
      else if s.tokens.any (fun t => tokenMeets t h asid base size) then tokFail s asid0 2
      else if 4096 ≤ (s.tokens.filter (fun t => t.node == h)).length then tokFail s asid0 1
      else
        let tag := s.nextReq
        let t : Token := { node := h, asid := asid, base := base, size := size, holder := none, creating := some tag,
                           cmdBy := asid0 }
        let s1 := modCtx { s with nextReq := tag + 1, tokens := s.tokens ++ [t] } asid0 (fun c =>
          { c with tokBusy := true, tokErr := 0 })
        tokenProgress (tokenDrain s1 t tag) h

/-- DESTROY of CTX_TOKEN_CMD: the holder hands the token back (R91), and the entry goes. -/
def tokenDestroy (s : State) (asid0 : Nat) (x : DWord) : State :=
  let base := tokCmdBase x
  let size := tokCmdSize x
  let asid := if bitOf base 53 then 0 else asid0
  if (getCtx s asid0).tokBusy then tokFail s asid0 6
  else match tokenHome s asid base size with
    | none => tokFail s asid0 3
    | some h =>
      if !nodeActive s h then tokFail s asid0 5
      else match s.tokens.find? (fun t => t.node == h && t.asid == asid && t.base == base && t.size == size) with
        | none => tokFail s asid0 4
        | some t =>
          let tag := s.nextReq
          let u := { t with dying := true, cmdBy := asid0 }
          let s1 := modCtx { s with nextReq := tag + 1, tokens := s.tokens.map (fun y => if y == t then u else y) } asid0
            (fun c => { c with tokBusy := true, tokErr := 0 })
          tokenProgress (tokenDrain s1 u tag) h

/-- A write of CTX_TOKEN_CMD. -/
def tokenCommand (s : State) (asid : Nat) (x : DWord) : State :=
  match bitsOf x.toNat 60 4 with
  | 1 => tokenCreate s asid x
  | 2 => tokenDestroy s asid x
  | _ => s

def execTokenCreate (asid : Nat) (cmd : DWord) (s : State) : Out := onCtx s asid (tokenCreate · asid cmd)
def execTokenDestroy (asid : Nat) (cmd : DWord) (s : State) : Out := onCtx s asid (tokenDestroy · asid cmd)

/-- QUEUE_CREATE and QUEUE_DESTROY: commands of CTX_QUEUE_CMD or MOD_Q_CMD (R153-R155). -/
def execQueueCreate (asid : Nat) (cmd : DWord) (s : State) : Out := onCtx s asid (fun t =>
  runQueueCmd t asid cmd (createQueue · asid cmd))
def execQueueDestroy (asid : Nat) (cmd : DWord) (s : State) : Out := onCtx s asid (fun t =>
  runQueueCmd t asid cmd (destroyCommand · asid cmd))

/-- CTX_LEASE_WRITE (R112). -/
def execCtxLeaseWrite (asid k : Nat) (value : DWord) (s : State) : Out :=
  onCtx s asid (fun t => if k < 16 then writeStanding t asid k value else t)

/-- A write of CTX_TTYPE: task units drop the context's entries, instruction caches its lines (R164, R205). -/
def writeTtype (s : State) (asid : Nat) (x : DWord) : State :=
  modCtx { s with icache := s.icache.filter (fun e => lineAsid (e.1 % 2 ^ 61) != asid) } asid
    (fun c => { c with ttype := x &&& 0x003FFFFFFFC00001#64, ttCache := [] })

def execCtxTtypeWrite (asid : Nat) (value : DWord) (s : State) : Out := onCtx s asid (writeTtype · asid value)

/-! ## CTX_SCHED (R184, R185) -/

def hasPreempt (s : State) (t : PreTarget) : Bool := s.preempts.any (fun p => p.target == t)

/-- CTX_SCHED.STATE: STOPPING becomes STOPPED when nothing is left to pre-empt. -/
def schedState (s : State) (asid : Nat) : Nat :=
  match (getCtx s asid).sched with
  | .run => 0
  | .stopping => if hasPreempt s (.ctx asid) then 1 else 2
  | .stopped => 2
  | .halted => 3

def schedStop (s : State) (asid : Nat) : State :=
  if (getCtx s asid).sched ≠ .run then s
  else modCtx { s with preempts := s.preempts ++ [{ target := .ctx asid }] } asid (fun c => { c with sched := .stopping })

def schedRun (s : State) (asid : Nat) : State :=
  if schedState s asid = 1 then s else modCtx s asid (fun c => { c with sched := .run })

def execSchedStop (asid : Nat) (s : State) : Out := onCtx s asid (schedStop · asid)
def execSchedRun (asid : Nat) (s : State) : Out := onCtx s asid (schedRun · asid)
def execSchedReset (asid : Nat) (s : State) : Out := onCtx s asid (ctxReset · asid 0)

/-- A write of CTX_SCHED. -/
def writeSched (s : State) (asid : Nat) (x : Word) : State :=
  let s1 := modCtx s asid (fun c => { c with wdx := c.wdx && !x.getLsbD 25, prex := c.prex && !x.getLsbD 24 })
  match bitsOf x.toNat 28 4 with
  | 1 => schedStop s1 asid
  | 2 => schedRun s1 asid
  | 3 => ctxReset s1 asid 0
  | _ => s1

/-! ## Debugging (R273-R277) -/

/-- Program-level debugging is available (R273). -/
def debugOpen (s : State) : Bool := s.secure.lc == .manufacture || s.secure.lc == .deployed || s.secure.lc == .fieldDebug

/-- CTX_DBG.STATE. -/
def dbgState (s : State) (asid : Nat) : Nat :=
  if (getCtx s asid).dbgSt = 0 then 0 else if hasPreempt s (.halt asid) then 1 else 2

/-- HALT of CTX_DBG. -/
def dbgHalt (s : State) (asid : Nat) : State :=
  if !debugOpen s ∨ (getCtx s asid).dbgSt ≠ 0 then s
  else modCtx { s with preempts := s.preempts ++ [{ target := .halt asid }] } asid (fun c => { c with dbgSt := 1 })

/-- The bytes of a run of pool slots. -/
def readRun (s : State) (asid slot n : Nat) : State × Option (List Byte) :=
  let va := vaFull (poolBase (getCtx s asid) + 65536 * slot)
  let r := unitRead s asid va 512
  match r.2 with
  | .error _ => (r.1, none)
  | .ok h =>
    let total := fieldAt h 4 4
    if total < 512 ∨ n * 65536 < total ∨ fieldAt h 0 4 ≠ 2 ∨ !imageReserved h then (r.1, none)
    else
      let x := unitRead r.1 asid va total
      (x.1, match x.2 with
        | .ok l => some l
        | .error _ => none)

/-- The handler bank of a held wave is that of its area, and a monitor that was armed counts as lost: that of the
interrupted state, when there was one (R262, R265). -/
def resumedWave (old x : Wave) (area : List Byte) : Wave :=
  match old.handler with
  | none => x
  | some h =>
    let h1 := match areaBank area with
      | some b => { h with regs := b.1, preds := b.2 }
      | none => h
    if h.mon0.isSome then { x with handler := some { h1 with mon0 := x.mon }, mon := none }
    else { x with handler := some h1 }

/-- The waves of a held image; none when the image is refused. -/
def imageWaves (img : List Byte) (ws : List (Nat × Wave)) : Option (List (Nat × Wave)) :=
  ws.foldr (fun x acc => match acc, (imageArea img x.2.num).bind (fun a => (areaWave x.2 a).map (fun w => resumedWave x.2 w a)) with
    | some l, some w => some ((x.1, w) :: l)
    | _, _ => none) (some [])

/-- A refused image ends its workgroup (R275). -/
def refuseImage (s : State) (asid agent : Nat) (save : Nat) : State :=
  (postFault s { cause := cIllegalOpnd, sub := 4, origin := 6, asid := asid, agent := agent, save := save } none).1

/-- A held workgroup is taken back from its run: it waits for a core, as saved work does, its leases kept. -/
def resumeGroup (s : State) (k slot n : Nat) : State :=
  match getWg s k with
  | none => s
  | some g =>
    let r := readRun s g.asid slot n
    let s1 := freeRunSlots r.1 g.asid slot n
    let ws := (unended s1 g).filter (fun x => !heldAlone x.2)
    match r.2.bind (fun img => (imageWaves img ws).map (fun l => (img, l))) with
    | none => dropGroup (refuseImage s1 g.asid 0 (slotVa (getCtx s g.asid) slot)) k
    | some (img, l) =>
      let s2 := l.foldl (fun t x => setWave t x.1 { x.2 with run := .run }) s1
      let bars := (List.range 16).foldl (fun t i => Tab.set {} t i
        { imageBar img i with leaving := (Tab.get {} g.bars i).leaving }) []
      let s3 := setWg s2 k { g with
        st := .saved, bars := bars, img := padTo g.scratch (imageScr img), imgAcc := padTo (g.scratch / 2) (imageAcc img),
        imgFe := (List.range (g.scratch / 128)).filter (fun i => !imageFull img i) }
      match g.task with
      | none => s3
      | some t => modTask s3 t (fun x => if x.parts.isEmpty && !(recRanges x.entry x.rec_).isEmpty then { x with st := .saved }
          else { x with st := .leasing })

/-- A wave held alone goes on where it stands (R275, R437). -/
def resumeWave (s : State) (id slot n : Nat) : State :=
  let w := getWave s id
  let r := readRun s w.asid slot n
  let s1 := freeRunSlots r.1 w.asid slot n
  match r.2.bind (fun img => (imageArea img w.num).bind (fun a => (areaWave w a).map (fun x => resumedWave w x a))) with
  | some x => setWave s1 id { x with run := .run }
  | none =>
    let s2 := refuseImage s1 w.asid (waveAgent s w) (slotVa (getCtx s w.asid) slot)
    let t : TrapInfo := { haltInfo s w with cause := cIllegalOpnd, sub := 4, posted := true }
    let s3 := setWave s2 id { w with run := .stopped 0 }
    match w.wg.bind (fun k => (getWg s3 k).map (fun g => (k, g))) with
    | some (k, g) => beginStop s3 k id g t false
    | none => endWave s3 id

/-- RESUME of CTX_DBG: every held workgroup and wave of the context. While the context is still halting it is ignored, as
RUN is in STOPPING (assumption log 18). -/
def dbgResume (s : State) (asid : Nat) : State :=
  if !debugOpen s ∨ dbgState s asid = 1 then s
  else
    let s1 := s.wgs.foldl (fun t e => match e.2.st with
      | .held a n => if e.2.asid = asid then resumeGroup t e.1 a n else t
      | _ => t) s
    let s2 := s1.waves.foldl (fun t e => match e.2.run with
      | .held a n => if e.2.asid = asid then resumeWave t e.1 a n else t
      | _ => t) s1
    modCtx s2 asid (fun c => { c with dbgSt := 0 })

def execDbgHalt (asid : Nat) (s : State) : Out := onCtx s asid (dbgHalt · asid)
def execDbgResume (asid : Nat) (s : State) : Out := onCtx s asid (dbgResume · asid)

/-- A write of CTX_DBG. -/
def writeDbg (s : State) (asid : Nat) (x : Word) : State :=
  if !debugOpen s then s
  else
    let s1 := modCtx s asid (fun c => { c with holdf := x.getLsbD 27, brkd := x.getLsbD 26 })
    match bitsOf x.toNat 28 4 with
    | 1 => dbgHalt s1 asid
    | 2 => dbgResume s1 asid
    | _ => s1

/-- The life-cycle states in which a die may be halted (R276). -/
def haltOpen (s : State) : Bool := s.secure.lc == .manufacture || s.secure.lc == .fieldDebug

/-- DIE_HALT: the die freezes, and debug-hold is raised (R59, R276), at the end of a relock if one runs (R277); else
REJ. -/
def execDieHalt (die : Nat) (s : State) : Out :=
  if !isCdie die then .next s
  else if !haltOpen s then .next (modNode s die (fun n => { n with rej := true }))
  else if (getNode s die).halt then .next s
  else if (getNode s die).busy then .next (modNode s die (fun n => { n with haltPend := true }))
  else .next (haltDie s die)

/-- DIE_RESUME (R276). -/
def execDieResume (die : Nat) (s : State) : Out :=
  if !isCdie die ∨ !haltOpen s then .next s else .next (unhalt s die)

/-! ## The registers by number (R431, R432) -/

inductive CtlKind where
  | none_ | ro | rw | supOnly
  deriving DecidableEq, Repr

def ctlKind (n : Nat) : CtlKind :=
  if n = 0 then .supOnly
  else if n ∈ [2, 3, 6, 0xF, 0x11] then .ro
  else if n < 0x12 then .rw
  else if n < 0x20 then .none_
  else if n < 0x30 then .rw
  else if n < 0x40 then .supOnly
  else if n < 0xF8 then .rw
  else if 0x100 ≤ n ∧ n < 0x106 then .ro
  else .none_

def ctlWritable (n : Nat) (sup : Bool) : Bool :=
  match ctlKind n with
  | .rw => true
  | .supOnly => sup
  | _ => false

/-- The trap that a wave or thread handles now (R259, R278). -/
def trapOf (w : Wave) : Option TrapInfo :=
  match w.handler with
  | some h => some h.trap
  | none => if w.general && w.sup then w.trapped else none

/-- CORE_TRAP registers of a wave (R259). -/
def coreTrapReg (w : Wave) (n : Nat) : Nat :=
  match trapOf w with
  | none => 0
  | some t => match n with
    | 0 => t.cause + 2 ^ 15 * b2n t.deferred + 2 ^ 16 * min t.lost 255
    | 1 => t.sub
    | 2 => t.pc.toNat
    | 3 => t.fmask.toNat
    | 4 => t.pmask.toNat
    | _ => t.addr.toNat

def leaseReg (x : Standing) : Nat := x.reg.toNat + 2 ^ 14 * standingStat x

/-- The value of a context's control register. -/
def ctlValue (s : State) (asid n : Nat) : Nat :=
  let c := getCtx s asid
  if 0x80 ≤ n then (Tab.get 0 c.rset (n - 0x80 + 8)).toNat
  else if 0x40 ≤ n then (Tab.get 0 c.podPeer (n - 0x40)).toNat
  else if 0x30 ≤ n then (Tab.get 0 c.repl (n - 0x30)).toNat
  else if 0x20 ≤ n then leaseReg (Tab.get {} c.leases (n - 0x20))
  else match n with
    | 0 => c.ptbase.toNat
    | 1 => c.dlq.toNat
    | 2 => c.dlqHead.toNat
    | 3 => c.dlqLost
    | 4 => c.raceBase.toNat
    | 5 => c.raceCtl.toNat
    | 6 => c.raceHead.toNat
    | 7 => c.ttype.toNat
    | 8 => c.cont.toNat
    | 9 => schedState s asid * 2 ^ 26 + b2n c.wdx * 2 ^ 25 + b2n c.prex * 2 ^ 24
    | 0xA => c.trapPc.toNat
    | 0xB => c.trapEn.toNat
    | 0xC => b2n c.holdf * 2 ^ 27 + b2n c.brkd * 2 ^ 26 + dbgState s asid * 2 ^ 24
    | 0xD => c.dbgPool.toNat
    | 0xF => b2n c.tokBusy * 2 ^ 31 + c.tokErr * 2 ^ 16
    | 0x11 => c.qHandle.toNat * 2 ^ 32 + b2n c.qCmd.isSome * 2 ^ 31 + c.qErr * 2 ^ 16
    | _ => 0

/-- A read: an RC field clears after it (R5). -/
def ctlRead (s : State) (asid n : Nat) : State × Nat :=
  (if n = 3 then modCtx s asid (fun c => { c with dlqLost := 0 }) else s, ctlValue s asid n)

/-- A write, of the low 32 bits or all 64, by the register's fields (R5, R6). -/
def ctlWrite (s : State) (asid n : Nat) (x : DWord) : State :=
  let lo := x.setWidth 32
  if 0x80 ≤ n then modCtx s asid (fun c => { c with rset := Tab.set 0 c.rset (n - 0x80 + 8) (maskRset x) })
  else if 0x40 ≤ n then modCtx s asid (fun c => { c with podPeer := Tab.set 0 c.podPeer (n - 0x40) (x &&& 0x80000000000003FF#64) })
  else if 0x30 ≤ n then modCtx s asid (fun c => { c with repl := Tab.set 0 c.repl (n - 0x30) lo })
  else if 0x20 ≤ n then writeStanding s asid (n - 0x20) x
  else match n with
    | 0 => modCtx s asid (fun c => { c with ptbase := x &&& 0x80007FFFFFFFFFFF#64 })
    | 1 => modCtx s asid (fun c => { c with dlq := x &&& 0x003FFFFFFFFFF01F#64 })
    | 4 => modCtx s asid (fun c => { c with raceBase := x &&& 0x003FFFFFFFFFF000#64 })
    | 5 => modCtx s asid (fun c => { c with raceCtl := lo &&& 0xC000001F#32 })
    | 7 => writeTtype s asid x
    | 8 => modCtx s asid (fun c => { c with cont := x &&& 0xF83FFFFFFFFFFFC0#64 })
    | 9 => writeSched s asid lo
    | 0xA => modCtx s asid (fun c => { c with trapPc := x })
    | 0xB => modCtx s asid (fun c => { c with trapEn := lo })
    | 0xC => writeDbg s asid lo
    | 0xD => if debugOpen s then modCtx s asid (fun c => { c with dbgPool := x &&& 0xF83FFFFFFFFF0000#64 }) else s
    | 0xE => tokenCommand s asid x
    | 0x10 => queueCommand s asid x
    | _ => s

end Sys2Proof.Machine
end

