-- ==== Sys2Proof/Machine/Errors.lean ====
section
/-! DEFINITION. Retention of cores, and errors of memories (R221, R222, R267-R272). -/

namespace Sys2Proof.Machine

/-! ## Retention (R221, R222) -/

/-- The waves that occupy a core: not ended, and not of a parked, saved or held workgroup. -/
def residentWaves (s : State) (ck : Nat) : List (Nat × Wave) :=
  s.waves.filter (fun e => waveCore e.2 == ck && !waveEnded e.2 &&
    (match e.2.wg.bind (getWg s) with
     | none => true
     | some g => (match g.st with
       | .resident | .halting _ _ _ => true
       | _ => false)))

/-- A path blocked by an instruction that lets its core rest. -/
def restingPath (p : Path) : Bool :=
  match p.st with
  | .blocked (.mwait _ _) | .blocked (.qpop _ _) | .blocked (.ewait _ false) | .blocked (.csleep _ _) => true
  | _ => false

def restingWave (w : Wave) : Bool :=
  w.op.id == 0 && w.arrive.isNone && !w.queue.any eligible &&
    (match w.handler with
     | some h => restingPath h.path
     | none => (wavePaths w).all restingPath)

/-- A compute core that may enter retention: 10 us without a launch or an instruction, every wave resting, no engine
command in flight (R221). -/
def mayRetain (s : State) (ck : Nat) : Bool :=
  let c := getCore s ck
  decide (ck / 128 < 32) && decide (ck % 128 < 48) && !c.retention && decide (c.idleSince + 10000 ≤ s.time)
    && c.score.isEmpty && (residentWaves s ck).all (fun e => restingWave e.2)

/-- CORE_RETENTION_ENTRY (R221). -/
def execCoreRetentionEntry (core : Nat) (s : State) : Out :=
  if mayRetain s core then .next (modCore s core (fun c => { c with retention := true })) else .next s

/-- A blocked path whose wake-up has come (R249, R400, R427, R438). -/
def wakeDue (s : State) (w : Wave) (b : Block) : Bool :=
  match b with
  | .mwait _ d => [0, 1, 2, 3, 5].any (fun c => mwaitDue s w d c)
  | .csleep _ d => [0, 1, 2, 3].any (fun c => mwaitDue s w d c)
  | .qpop _ h => (match queueOf s h with
    | none => true
    | some q => !(visibleSeqs q).isEmpty || opCode s h (waveSlot s w) != qOk)
  | .ewait _ done => done
  | .racq _ e => e.isSome
  | .mig _ => false

def pathDue (s : State) (w : Wave) (p : Path) : Bool :=
  match p.st with
  | .blocked b => wakeDue s w b
  | _ => true

def waveDue (s : State) (w : Wave) : Bool :=
  w.op.id != 0 || w.arrive.isSome || w.queue.any eligible || !w.deferred.isEmpty ||
    (match w.handler with
     | some h => pathDue s w h.path
     | none => (wavePaths w).any (pathDue s w))

/-- CORE_WAKE: a wave of the core would wake (R222). A launch wakes it by itself. -/
def execCoreWake (core : Nat) (s : State) : Out :=
  if (residentWaves s core).any (fun e => waveDue s e.2) then .next (coreWakes s core) else .next s

/-! ## Errors of memory, LLC and L2 (R267, R268, R272) -/

/-- ECC_CORRECTABLE: corrected, and counted (R267, R272). -/
def execEccCorrectable (die : Nat) (s : State) : Out :=
  if isCdie die then .next (modNode s die (fun n => { n with ce := satInc 32 n.ce 1 })) else .next s

/-- The agent that holds a word newer than its home. -/
def dirtyHolder (s : State) (k w : Nat) : Option Nat :=
  if wordSt s k w ≠ .g then none
  else (homeOf s (lineAsid k) (lineNo k * 128)).bind (fun h => wordOwner s h (lineAsid k) (lineNo k))

/-- A word becomes Z at its home. A word registered to a core goes there by the holder's writeback. -/
def poisonWord (s : State) (k w sub : Nat) : State :=
  let s1 := match dirtyHolder s k w with
    | some a =>
      let t := ownerClean s a k (laneBit w)
      dropCopies t a k (laneBit w) ((homeOf s (lineAsid k) (lineNo k * 128)).getD noDie)
    | none => s
  let s2 := setWordSt s1 k w .z
  { s2 with eccFound := Tab.put s2.eccFound (k * 32 + w) sub }

/-- A clean L2 line is fetched again. -/
def dropL2 (s : State) (node k : Nat) : State :=
  { s with l2 := (List.range 64).foldl (fun t u =>
      let l := getLine t (node * 64 + u) k
      setLine t (node * 64 + u) k (lineDrop l (l.valid &&& ~~~l.dirty))) s.l2 }

/-- ECC_UNCORRECTABLE: in memory (level 0), LLC (1) or L2 (2) of a node, in the word of an address (R267, R268). -/
def execEccUncorrectable (node level asid va : Nat) (s : State) : Out :=
  let a := va % 2 ^ 54
  let k := lineKey (if bitOf a 53 then 0 else asid) (a / 128)
  let w := a % 128 / 4
  if 2 < level ∨ (homeOf s (lineAsid k) (lineNo k * 128)).isNone then .next s
  else
    let s1 := countUe s node level
    if level = 2 ∧ ((dirtyHolder s1 k w).map agentNode != some node) then .next (dropL2 s1 node k)
    else .next (poisonWord s1 k w level)

/-- PATROL_SCRUB: reading changes nothing; what it finds is an event of its own (R267). -/
def execPatrolScrub (_die : Nat) (s : State) : Out := .next s

/-- WDIE_ROW_SCRUB: `bad` names the slots, 0-63, with a row whose checksum fails (R270). -/
def execWdieRowScrub (wdie : Nat) (bad : List Nat) (s : State) : Out :=
  if 16 ≤ wdie ∨ !nodeActive s (32 + wdie) then .next s
  else
    let mark := fun (t : Tab WSlot) (k : Nat) => Tab.modify {} t k (fun x => { x with st := .bad })
    .next (modWdie s wdie (fun d => { d with slots := (bad.filter (fun k => decide (k < 64))).foldl mark d.slots }))

end Sys2Proof.Machine
end

