-- ==== Sys2Proof/Machine/Pod.lean ====
section
/-! DEFINITION. Messages between the modules of a pod: their words, their arrival, and the hubs that forward them (R43, R46-R51,
R117, R151, R155, R397). -/

namespace Sys2Proof.Machine

/-! ## The words of a message (R43, R46, R47)

The words of a message between modules, in the model's own layout (assumption log 14): word 0 holds the kind in [7:0], the module
it is for in [13:8], its hop count in [17:14], its class in [20:18], its flow id in [24:21]. Kind 0, a record of `spawn`: word 1
sender [31:0] and ASID [63:32], word 2 key slot and handle, word 3 wave and lane, then the record. Kind 1, an arrival at a pod
barrier: word 1 participant and ASID, word 2 i and n, word 3 wave and request. Kind 2, its answer: word 1 wave and request, word 2
code. Kind 3, the answer to a record: word 1 wave and lane, word 2 code. Kind 4, a FLUSH: word 1 the queue's number. Kind 5, its
answer: word 1 the queue's number. Kind 6, a routed fault: word 1 SUB and kind, word 2 origin and ASID, word 3 the address, word 4
agent and task, word 5 number and hub. Kind 7, its answer: word 1 number and outcome. Kind 8, HELD: word 1 the request. -/

def wordLo (l : List DWord) (i : Nat) : Nat := (l.getD i 0).toNat % 2 ^ 32
def wordHi (l : List DWord) (i : Nat) : Nat := (l.getD i 0).toNat / 2 ^ 32

/-- The class of a code; 6 and 7 are reserved (R47). -/
def clsOf : Nat → Option Cls
  | 0 => some .req | 1 => some .rsp | 2 => some .reg | 3 => some .syn | 4 => some .bulk | 5 => some .ctl | _ => none

/-- The message that the words of a kind stand for, for this module. -/
def podMsg (smod : Nat) (l : List DWord) : Option Msg :=
  let agent := smod * 8192 + wordLo l 1 % 8192
  match wordLo l 0 % 256 with
  | 0 => some (.spawn agent (wordHi l 1) (wordLo l 2) (BitVec.ofNat 32 (wordHi l 2))
      ((List.range 8).flatMap (fun i => bytesOf 8 (l.getD (4 + i) 0))) [] (wordLo l 3) (wordHi l 3) smod)
  | 1 => some (.gbarArr (wordHi l 1) (wordLo l 2) (wordHi l 2) .sys (wordLo l 3) agent (wordHi l 3) [])
  | 2 => some (.gbarDep (wordLo l 1) (wordHi l 1) { code := wordLo l 2 % 4 })
  | 3 => some (.spawnRsp (wordLo l 1) (wordHi l 1) (wordLo l 2 % 256))
  | 4 => some (.flush 64 (wordLo l 1))
  | 5 => some (.flushAck (64 + smod) (wordLo l 1))
  | 6 => some (.fault (wordHi l 5 % 2) (wordLo l 2 % 8) (wordLo l 1 % 4) (wordHi l 1 % 16) (wordHi l 2 % 16384) (l.getD 3 0)
      (smod * 8192 + wordLo l 4 % 8192) (BitVec.ofNat 32 (wordHi l 4)) (wordLo l 5))
  | 7 => some (.faultAns (wordLo l 1) (bitOf (wordHi l 1) 0))
  | 8 => some (.held (wordLo l 1))
  | _ => none

/-- Where a message of another module goes on this one. -/
def podDst (s : State) (m : Msg) : Nat :=
  match m with
  | .spawn _ _ _ h _ _ _ _ _ => handleDie h
  | _ => roleHub s

/-- A message of another module becomes a packet: for this module, or for a third that this one forwards to (R43). -/
def podPkt (s : State) (smod : Nat) (cls : Cls) (l : List DWord) : Option Pkt :=
  let m := bitsOf (wordLo l 0) 8 6
  if m = s.mods.podId then
    (podMsg smod l).map (fun x => { src := roleHub s, dst := podDst s x, smod := some smod, cls := cls, msg := x })
  else some { src := roleHub s, dst := roleHub s, mod := some m, smod := some smod, cls := cls,
              hops := bitsOf (wordLo l 0) 14 4 + 1, msg := .pass l }

/-! ## Arrival (R49, R51) -/

/-- An error is logged at the fault processor in the role (R43, R47, R53). -/
def logNet (s : State) (e : NetErr) : State := modNode s (roleHub s) (fun n => { n with netLog := n.netLog ++ [e] })

/-- A hub sends a message on in the next segment of its way, in the flow with its flow id (R51). -/
def nextSegment (s : State) (p : Pkt) (flow : Nat) : State := sendPkt s p (flow * 65536)

/-- A message of another module arrives: in an ordered class in SEQ order, held for reorder, or discarded; each goes on in the
order of its flow. One of a reserved class is discarded and logged (R47, R49, R51). -/
def podArrival (s : State) (smod snode seq : Nat) (l : List DWord) : State :=
  let flow := bitsOf (wordLo l 0) 21 4
  match clsOf (bitsOf (wordLo l 0) 18 3) with
  | none => logNet s (.badClass smod snode)
  | some cls => match podPkt s smod cls l with
    | none => s
    | some p0 =>
      if !clsOrdered cls then nextSegment s p0 flow
      else
        let key := (65536 + smod * 64 + snode, clsCode cls, flow)
        let p := { p0 with seq := seq % 65536 }
        let f := getFlow s.net key
        let ahead := (p.seq + 65536 - f.expect) % 65536
        if ahead = 0 then
          let r := drainReorder (f.reorder.length + 1) ((f.expect + 1) % 65536) f.reorder
          (p :: r.1).foldl (fun t q => nextSegment t q flow)
            { s with net := putFlow s.net { f with expect := r.2.1, reorder := r.2.2 } }
        else if ahead < 32768 then
          (if f.reorder.any (fun q => q.seq == p.seq) then s
           else { s with net := putFlow s.net { f with reorder := f.reorder ++ [p] } })
        else s

/-! ## No route (R43, R117) -/

/-- The answer that a request of another module has when it goes no further. -/
def podRefusal (smod : Nat) (l : List DWord) : Option Msg :=
  match podMsg smod l with
  | some (.spawn _ _ _ _ _ _ w lane _) => some (.spawnRsp w lane qUnreach)
  | some (.gbarArr _ _ _ _ w _ id _) => some (.gbarDep w id { code := 3 })
  | some (.fault _ _ _ _ _ _ _ _ q) => some (.faultAns q false)
  | _ => none

/-- A module answers no FLUSH any more. -/
def flushGone (s : State) (index m : Nat) : State :=
  modQidx s index (fun y => { y with quar := y.quar.map (fun z => { z with due := z.due.filter (fun d => d != 64 + m) }) })

/-- A message for module `m` that goes no further. A request of this module completes with a module-unreachable error, which is
logged, a routed fault is answered DENIED, and a request of another module is answered there (R43, R117). -/
def podUnreachable (s0 : State) (p : Pkt) (m : Nat) : State :=
  let s := if p.smod.isNone then logNet s0 (.unreachable m) else s0
  match p.msg with
  | .spawn _ _ _ _ _ _ w lane _ => spawnAnswered s w lane qUnreach
  | .gbarArr _ _ _ _ w _ id _ =>
    let t := answeredId s id
    if waveExists t w ∧ (getWave t w).op.id = id then modWave t w (fun x => { x with gdep := some { code := 3 } }) else t
  | .fault _ _ _ _ _ _ _ _ q => answerFault s (BitVec.ofNat 32 q) false
  | .flush _ index => flushGone s index m
  | .pass l => match p.smod.bind (fun sm => (podRefusal sm l).map (fun x => (sm, x))) with
    | some (sm, x) => sendPkt s { src := roleHub s, dst := roleHub s, mod := some sm, cls := .rsp, msg := x } 0
    | none => s
  | _ => s

/-- Requests to a module that can no longer be reached complete with a module-unreachable error (R43). -/
def podFailed (s : State) (m : Nat) : State :=
  if moduleReachable s m then s
  else
    let mine := fun (p : Pkt) => p.mod == some m
    let lost := s.net.inbox.filter mine
    let s1 := lost.foldl (fun t p => podUnreachable t p m)
      { s with net := { s.net with inbox := s.net.inbox.filter (fun p => !mine p) } }
    { s1 with queues := Tab.mapVals (fun _ (y : QIdx) =>
        { y with quar := y.quar.map (fun z => { z with due := z.due.filter (fun d => d != 64 + m) }) }) s1.queues }

/-! ## At the hubs (R43, R51) -/

/-- A record of another module reaches its queue (R151, R397): the code goes back to the sender's module. -/
def podSpawn (s : State) (p : Pkt) : State :=
  match p.msg with
  | .spawn agent _ slot h rec_ ents w lane m =>
    -- R151: the slot of the handle is that of the queue's context, whose peer entry is valid and names the sender's
    let q := (getQidx s (handleKey h)).q
    let peer : DWord := (q.map (fun q => Tab.get 0 (getCtx s q.asid).podPeer m)).getD 0
    let key := match q with
      | none => 1024
      | some q => if peer.getLsbD 63 ∧ bitsOf peer.toNat 0 10 = slot then (getCtx s q.asid).slot else 1024
    let c := enqueueCode s h key
    let r := if c ≠ qOk then (s, c)
      else match queueOf s h with
        | none => (s, qAbsent)
        | some q => homeEnqueue s q none rec_ (BitVec.ofNat 32 agent) ents
    sendPkt r.1 { src := p.dst, dst := roleHub s, mod := some m, cls := .rsp, msg := .spawnRsp w lane r.2 } 0
  | _ => s

/-- A message leaves for another module in the flow from this hub: in an ordered class it takes the next SEQ (R49, R51). -/
def leaveModule (s : State) (hub m : Nat) (p : Pkt) : State :=
  if !clsOrdered p.cls then s
  else
    let flow := (p.fl.map (fun k => k.2.2)).getD 0
    let f := getFlow s.net (131072 + hub * 64 + m, clsCode p.cls, flow)
    { s with net := putFlow s.net { f with next := (f.next + 1) % 65536 } }

/-- A hub forwards a message to another module, or hands one of another module on to where it is served (R43). -/
def execHubForward (hub n : Nat) (s : State) : Out :=
  match servable s n with
  | none => .next s
  | some p =>
    if p.dst ≠ hub then .next s
    else match p.mod with
      | some m =>
        let t := takeMsg s n
        if 3 < p.hops then .next (podUnreachable t p m)
        else if hubReaches s hub m then .next (leaveModule t hub m p)
        else
          let other := if hub = 48 then 49 else 48
          if hubReaches s other m then
            .next (nextSegment t { p with src := hub, dst := other, fl := none } ((p.fl.map (fun k => k.2.2)).getD 0))
          else .next (podUnreachable t p m)
      | none => match p.msg with
        | .spawn .. => .next (podSpawn (takeMsg s n) p)
        | .spawnRsp w lane code =>
          .next (spawnAnswered (takeMsg s n) w lane code)
        | .fault h origin sub xkind asid addr agent task q =>
          .next (postFaultAt (takeMsg s n) (48 + h)
            { cause := cLeaseViolation, sub := sub, origin := origin, addr := addr, agent := agent, asid := asid, xkind := xkind,
              task := task } (some (.remote (p.smod.getD 0) q))).1
        | .faultAns q ok => .next (answerFault (takeMsg s n) (BitVec.ofNat 32 q) ok)
        | _ => .next s

end Sys2Proof.Machine
end

