-- ==== Sys2Proof/Machine/Power.lean ====
section
/-! DEFINITION. Clocks, power, cooling, supply, links, bring-up and module reset (R20-R22, R28-R31, R36-R44, R144). -/

namespace Sys2Proof.Machine

/-! ## Core clocks (R21, R22) -/

/-- CEIL: the lower of the power and thermal ceilings (R31). -/
def ceilOf (x : NodeSt) : Nat := min x.ceilP x.ceilT

/-- The effective target of a core clock. -/
def effTarget (x : NodeSt) : Nat := min x.freq (ceilOf x)

/-- A relock toward a target: 2 us of package time. -/
def startRelock (now : Nat) (x : NodeSt) (t : Nat) : NodeSt := { x with busy := true, target := t, relockEnd := now + 2000 }

/-- A change of FREQ or of a ceiling: the clock steps, or during a relock the new target waits in NEXT (R22). -/
def clockChange (s : State) (n : Nat) (f : NodeSt → NodeSt) : State :=
  modNode s n (fun x =>
    let y := f x
    if x.busy then (if effTarget x = effTarget y then y else { y with next := effTarget y, pend := true })
    else if effTarget y = y.cur then y
    else startRelock s.time y (effTarget y))

/-- The codes of FREQ (R21). -/
def freqOk (c : Nat) : Bool := decide (0x10 ≤ c) && decide (c ≤ 0x32)

/-- FREQ_WRITE: `DIE_CLK_CTL` (R21, R22). -/
def execFreqWrite (die : Nat) (freq : BitVec 6) (s : State) : Out :=
  if !isCdie die then .next s
  else if !freqOk freq.toNat then .next (modNode s die (fun x => { x with badf := true }))
  else .next (clockChange s die (fun x => { x with freq := freq.toNat }))

/-- RELOCK_END (R22, R277). -/
def execRelockEnd (die : Nat) (s : State) : Out :=
  let x := getNode s die
  if !x.busy ∨ s.time < x.relockEnd then .next s
  else
    let y := { x with cur := x.target, pend := false }
    if x.pend ∧ x.next ≠ x.target then .next (setNode s die (startRelock s.time y x.next))
    else
      -- a halt that came during the relock takes effect (R277)
      let t := setNode s die { y with busy := false, haltPend := false }
      .next (if x.haltPend then haltDie t die else t)

/-! ## Power and cooling (R28-R31) -/

/-- PWR_CAP_WRITE: 400 to 1000 (R30). -/
def execPwrCapWrite (cap : BitVec 16) (s : State) : Out :=
  .next (modMods s (fun m => { m with cap := min 1000 (max 400 cap.toNat) }))

/-- The cap in force (R28). -/
def capNow (m : ModSt) : Nat := if m.limit then min m.cap 800 else m.cap

/-- One step of a die's power ceiling (R31). -/
def powerStep (avg cap c : Nat) : Nat :=
  if cap < avg then (if 0x10 < c then c - 1 else c) else if avg < cap - 20 then (if c < 0x32 then c + 1 else c) else c

/-- POWER_CAP_WINDOW: the end of a 1 ms window (R30, R31). -/
def execPowerCapWindow (avg : BitVec 16) (s : State) : Out :=
  if s.time < s.mods.capAt + 1000000 then .next s
  else
    let s1 := modMods s (fun m => { m with avg := avg.toNat, capAt := s.time })
    .next (cdies.foldl (fun t d => clockChange t d (fun x =>
      { x with ceilP := powerStep avg.toNat (capNow s1.mods) x.ceilP })) s1)

/-- One step of a die's thermal ceiling, which stays among the codes of FREQ (R21, R31). -/
def thermStep (celsius c : Nat) : Nat :=
  if 100 < celsius then (if 0x10 < c then c - 1 else c) else if celsius < 95 then (if c < 0x32 then c + 1 else c) else c

/-- THERMAL_CEILING_STEP: each 100 us (R31). -/
def execThermalCeilingStep (die celsius : Nat) (s : State) : Out :=
  if !isCdie die ∨ s.time < (getNode s die).thermAt + 100000 then .next s
  else .next (clockChange s die (fun x => { x with ceilT := thermStep celsius x.ceilT, thermAt := s.time }))

/-- THERMAL_TRIP: at 110 C the die resets as an unplanned reset (R31). -/
def execThermalTrip (die celsius : Nat) (s : State) : Out :=
  if !isCdie die ∨ celsius < 110 then .next s else .next (dieReset s die)

/-! ## Module reset (R36, R144) -/

/-- The module registers after a reset: those of the always-on domain, straps and measured values are kept (R29, R43). -/
def resetMods (m : ModSt) : ModSt :=
  { fault := m.fault, podId := m.podId, volt := m.volt, disconnected := m.disconnected, goodSince := m.goodSince,
    badSince := m.badSince, highSince := m.highSince, capAt := m.capAt }

/-- Every key is cleared, and slot 0 has new keys (R144). -/
def resetKeys (s : State) : Tab KeySlot :=
  let old := Tab.mapVals (fun _ k => { gen := k.gen }) s.keys
  Tab.put old 0 { alloc := true, gen := (getKey s 0).gen + 1 }

/-- The staged images of some types are loaded and run; one whose version the fused counter has passed is refused (R127,
R147). -/
def loadImages (x : Secure) (now : Nat) (types : List Nat) : Secure :=
  types.foldl (fun y t => match Tab.find y.staged t with
    | some i =>
      if i.version < y.counter then { y with staged := Tab.erase y.staged t, pendErr := 6 }
      else { y with running := Tab.put y.running t { i with startAt := now }, staged := Tab.erase y.staged t }
    | none => y) x

/-- The code with which an image is refused when it is loaded again: its key is no longer accepted, or its version is below
the fused counter (R142, R147). Its digests and signatures stay as they were verified. -/
def imageRefused (x : Secure) (i : Img) : Option Nat :=
  if i.signer.any (fun d => [0, 1].all (fun k => x.revoked.contains k || Tab.find x.roots k != some d)) then some 3
  else if i.version < x.counter then some 6 else none

/-- What the security processor keeps over a reset: fuses and images. Staged images are loaded, and every image is checked
again; one that is refused is not run, and without a hub image the module waits for another (R36, R127, R141-R147). -/
def resetSecure (x : Secure) (now : Nat) : Secure :=
  let y := loadImages { x with pendErr := 0 } now [1, 2, 3]
  let err := firstSome (fun t => imageRefused y (Tab.get ({} : Img) y.running t)) [1, 2, 3]
  let bad := imageRefused y (Tab.get ({} : Img) y.running 1)
  { y with running := Tab.mapVals (fun _ (i : Img) => { i with startAt := now })
             (y.running.filter (fun e => (imageRefused y e.2).isNone)),
           recovery := bad, pendErr := err.getD y.pendErr }

/-- The module resets: every context ends, caches, cores and tables are empty; memory is wiped by the steps of R36 that
follow. -/
def resetModule (s : State) : State :=
  { agenda := s.agenda, cur := s.cur, free := s.free, nextWave := s.nextWave, nextWg := s.nextWg, nextTask := s.nextTask,
    nextReq := s.nextReq, time := s.time, mods := resetMods s.mods, secure := resetSecure s.secure s.time, keys := resetKeys s,
    mem := s.mem, memKey := s.memKey, msix := s.msix }

/-- MODULE_RESET (R36). -/
def execModuleReset (s : State) : Out := .next (resetModule s)

/-! ## Supply (R28, R29): V in units of 0.25 V -/

/-- SUPPLY_LOW: 48 to 50 V. -/
def execSupplyLow (volt : Nat) (s : State) : Out :=
  if volt < 192 ∨ 200 ≤ volt then .next s
  else .next (modMods s (fun m => { m with low := true, limit := true, volt := volt, goodSince := s.time,
                                           badSince := s.time, highSince := none }))

/-- SUPPLY_LIMIT_CLEAR: V has stayed at or above 50 V for 1 ms. -/
def execSupplyLimitClear (s : State) : Out :=
  if !s.mods.limit ∨ s.time < s.mods.goodSince + 1000000 then .next s
  else .next (modMods s (fun m => { m with limit := false, volt := max m.volt 200 }))

/-- SUPPLY_DIP: below 48 V for less than 1 ms. -/
def execSupplyDip (s : State) : Out :=
  .next (modMods s (fun m => { m with low := true, dip := satInc 8 m.dip 1, goodSince := s.time,
                                           badSince := s.time, highSince := none }))

/-- A supply fault resets the module; FAULT stays, and a module that the input protection disconnected stays so. -/
def supplyFault (s : State) (off : Bool) : State :=
  resetModule (modMods s (fun m =>
    { m with fault := true, disconnected := off || m.disconnected, badSince := s.time, highSince := none }))

/-- SUPPLY_FAULT_LOW: below 48 V for 1 ms or more. -/
def execSupplyFaultLow (s : State) : Out := .next (supplyFault s false)

/-- SUPPLY_HIGH: 58 to 60 V. V has been there since the first such event that no event of another voltage followed. -/
def execSupplyHigh (volt : Nat) (s : State) : Out :=
  if volt ≤ 232 ∨ 240 < volt then .next s
  else .next (modMods s (fun m => { m with high := true, volt := volt, badSince := s.time,
                                           highSince := some (m.highSince.getD s.time) }))

/-- SUPPLY_FAULT_HIGH: 58 to 60 V for more than 10 ms. -/
def execSupplyFaultHigh (s : State) : Out :=
  match s.mods.highSince with
  | none => .next s
  | some t => if s.time ≤ t + 10000000 then .next s else .next (supplyFault s false)

/-- SUPPLY_OVERVOLTAGE: above 60 V the input protection disconnects the module. -/
def execSupplyOvervoltage (s : State) : Out := .next (supplyFault s true)

/-- SUPPLY_RESTORED: V has stayed within 50 to 58 V for 100 ms, and the module comes up by R36. -/
def execSupplyRestored (s : State) : Out :=
  if !s.mods.disconnected ∨ s.time < s.mods.badSince + 100000000 then .next s
  else .next (modMods s (fun m => { m with disconnected := false }))

/-! ## Links (R38-R44) -/

/-- The hub of an attached C-die (R11). -/
def hubOf (d : Nat) : Option Nat := if 1 ≤ d ∧ d ≤ 4 then some 48 else if 19 ≤ d ∧ d ≤ 22 then some 49 else none

/-- The node at the far end of UCIe module n of a C-die (R38, R41). -/
def linkPartner (d n : Nat) : Option Nat :=
  if !isCdie d then none
  else
    let r := dieRow d
    let c := dieCol d
    match n / 4 with
    | 0 => if r = 0 then none else some (dieAt (r - 1) c)
    | 1 => if c = 7 then none else some (dieAt r (c + 1))
    | 2 => if r = 3 then none else some (dieAt (r + 1) c)
    | 3 => if c = 0 then none else some (dieAt r (c - 1))
    | 4 => if 24 ≤ d then some (32 + 2 * (d - 24) + (n - 16) / 2) else if n = 16 then hubOf d else none
    | _ => none

/-- The index of a mesh module at its far end. -/
def linkFar (n : Nat) : Nat := (n / 4 + 2) % 4 * 4 + n % 4

def getLink (s : State) (d n : Nat) : LinkSt := Tab.get {} (getNode s d).links n
def modLink (s : State) (d n : Nat) (f : LinkSt → LinkSt) : State :=
  modNode s d (fun x => { x with links := Tab.modify {} x.links n f })

/-- A module and its far end, where that one is reported too. -/
def modPair (s : State) (d n : Nat) (f : LinkSt → LinkSt) : State :=
  let s1 := modLink s d n f
  if n < 16 then (match linkPartner d n with
    | some e => modLink s1 e (linkFar n) f
    | none => s1) else s1

/-- Whether every module from a die to a partner is disabled. -/
def pairDown (s : State) (d e : Nat) : Bool :=
  (List.range 20).all (fun n => linkPartner d n != some e || (getLink s d n).dis)

/-- The arrays of a W-die are lost and its slots become absent: it is wiped (R35). -/
def wdieDown (s : State) (n : Nat) : State :=
  modNode { s with wdies := Tab.erase s.wdies (n - 32) } n (fun x => { x with svc := .wipe })

/-- A W-die that its links have lost is isolated as one that is isolated alone: by its wipe (R35, R40). -/
def isolateWdie (s : State) (w : Nat) : State :=
  modMods (wdieDown s w) (fun m =>
    match m.svcOn with
    | some _ => m
    | none => { m with svcOn := some w, svcNode := w })

/-- UCIE_MODULE_FAIL: retraining of module n of a die has failed (R40). -/
def execUcieModuleFail (die n : Nat) (s : State) : Out :=
  match linkPartner die n with
  | none => .next s
  | some e =>
    let s1 := modPair s die n (fun l => { l with up := false, dis := true })
    if !pairDown s1 die e then .next s1
    else if isCdie e then
      (let d := max die e
       if nodeLost s1 d then .next s1 else .next (dieDown s1 d))
    else if isWdie e then (if nodeActive s1 e then .next (isolateWdie s1 e) else .next s1)
    else .next s1

/-- LINK_LEVEL_RETRY (R41). -/
def execLinkLevelRetry (die n : Nat) (s : State) : Out :=
  match linkPartner die n with
  | none => .next s
  | some _ => .next (modLink s die n (fun l => { l with retry := satInc 16 l.retry 1 }))

/-- LINK_RETRAIN: a module has retrained, with `repl` lanes replaced (R40, R41). -/
def execLinkRetrain (die n repl : Nat) (s : State) : Out :=
  match linkPartner die n with
  | none => .next s
  | some _ =>
    if 4 < repl ∨ (getLink s die n).dis then .next s
    else .next (modPair s die n (fun l => { l with up := true, retrain := satInc 8 l.retrain 1, repl := repl }))

def modTrib (s : State) (k : Nat) (f : TribSt → TribSt) : State :=
  modNode s (48 + k / 8) (fun x => { x with tribs := Tab.modify {} x.tribs k f })

/-- UNCORRECTABLE_FEC_CODEWORD (R44). -/
def execUncorrectableFecCodeword (k : Nat) (s : State) : Out :=
  if 16 ≤ k then .next s else .next (modTrib s k (fun t => { t with uncor := satInc 16 t.uncor 1 }))

/-- TRIBUTARY_LINK_FAIL (R43, R44). -/
def execTributaryLinkFail (k : Nat) (s : State) : Out :=
  if 16 ≤ k then .next s
  else .next ((List.range 64).foldl podFailed (modTrib s k (fun t => { t with up := false, dis := true })))

/-! ## Bring-up (R36, R144) -/

def groupCode : LinkGroup → Nat
  | .hubDie => 0 | .mesh => 1 | .wdie => 2 | .tributary => 3

/-- Whether UCIe module n of a die belongs to a group. -/
def inGroup (g : LinkGroup) (d n : Nat) : Bool :=
  match g, linkPartner d n with
  | _, none => false
  | .hubDie, some e => isHub e
  | .mesh, some e => isCdie e
  | .wdie, some e => isWdie e
  | .tributary, some _ => false

/-- A die that fails training or self-test enters ISOLATED with FAIL set (R36). -/
def failDie (s : State) (n : Nat) : State :=
  let s1 := modNode s n (fun x => { x with absent := true, svc := .isolated })
  modMods s1 (fun m => { m with svcFail := true, svcOn := some (m.svcOn.getD n), svcNode := m.svcOn.getD n })

/-- The modules of a group carry traffic where both ends are present. -/
def trainGroup (s : State) (g : LinkGroup) : State :=
  cdies.foldl (fun t d => (List.range 20).foldl (fun u n =>
    if !inGroup g d n then u
    else
      let ok := !(getNode u d).absent && !((linkPartner d n).any (fun e => (getNode u e).absent))
      modLink u d n (fun l => { l with up := ok, dis := !ok })) t) s

/-- LINK_TRAINING_COMPLETE: a group of links has trained; `failed` names the dies, or the Tributary links, that did not.
After the first three groups package time starts at 0 on every die (R36). -/
def execLinkTrainingComplete (g : LinkGroup) (failed : List Nat) (s : State) : Out :=
  let m := s.mods
  if m.trained.contains (groupCode g) ∨ m.disconnected then .next s
  else match g with
    | .tributary =>
      if m.boot ≠ .farWiped then .next s
      else
        let s1 := (List.range 16).foldl (fun t k => modTrib t k (fun x =>
          if failed.contains k then { x with dis := true }
          else { x with up := true, peer := (Config.tribPeer k).toNat, peerLink := (Config.tribPeerLink k).toNat })) s
        .next (modMods s1 (fun x => { x with trained := x.trained ++ [3] }))
    | _ =>
      if s.secure.recovery.isSome ∨ m.trained.length ≠ groupCode g then .next s
      else
        let s1 := trainGroup ((failed.filter (fun n => decide (n < 50))).foldl failDie s) g
        let s2 := modMods s1 (fun x => { x with trained := x.trained ++ [groupCode g],
                                                boot := if groupCode g = 2 then .timeStarted else .linksTrained })
        .next (if groupCode g = 2 then allNodes.foldl (fun t n => modNode t n (fun x => { x with ptime := 0 })) s2 else s2)

/-- Whether a physical address is near memory, far memory, of a C-die (R18). -/
def isFar (a : Nat) : Bool := decide (paNode a < 32) && decide (2 ^ 40 ≤ paOffset a)
def isNear (a : Nat) : Bool := decide (paNode a < 32) && !isFar a

/-- The bytes of some addresses are zeros under a new key, and untagged (R144). -/
def wipeMem (s : State) (p : Nat → Bool) : State :=
  { s with mem := s.mem.filter (fun c => !(decide (c.1 < 2 ^ 52) && p c.1)),
           memKey := s.memKey.filter (fun c => !(decide (c.1 * 128 < 2 ^ 52) && p (c.1 * 128))) }

/-- The caches, scratchpads, accumulator memory and register words of the C-dies and the arrays of the W-dies hold nothing
(R36). -/
def wipeArrays (s : State) : State :=
  let keep := fun (n : Nat) => !isCdie n
  { s with llc := s.llc.filter (fun e => keep (e.1 / 2 ^ 61)), l2 := s.l2.filter (fun e => keep (e.1 / 2 ^ 61 / 64)),
           l1 := s.l1.filter (fun e => keep (e.1 / 2 ^ 61 / 64)), icache := s.icache.filter (fun e => keep (e.1 / 2 ^ 61 / 64)),
           words := [], eccFound := [], wdies := [],
           cores := s.cores.filter (fun c => keep (c.1 / 128)),
           waves := s.waves.map (fun e => if e.1 < 128 then e else (e.1, { e.2 with regs := [], preds := [], badRegs := [] })) }

/-- MODULE_WIPE_COMPLETE: near memory with caches and arrays, then far memory (R36, R144). -/
def execModuleWipeComplete (far : Bool) (s : State) : Out :=
  if s.mods.boot = .timeStarted ∧ !far then
    .next (modMods (wipeArrays (wipeMem s isNear)) (fun m => { m with boot := .nearWiped }))
  else if s.mods.boot = .nearWiped ∧ far then
    .next (modMods (wipeMem s isFar) (fun m => { m with boot := .farWiped }))
  else .next s

/-- MOD_READY_SET: the last step of R36; each cluster must have a C-die, and the hub a valid image (R147). -/
def execModReadySet (s : State) : Out :=
  let one := fun (b : Bool) => cdies.any (fun d => nodeActive s d && decide (24 ≤ d) == b)
  if s.mods.boot ≠ .farWiped ∨ s.secure.recovery.isSome ∨ !s.mods.trained.contains 3 ∨ !one true ∨ !one false then .next s
  else
    let s1 := cdies.foldl (fun t d => clockChange (modNode t d (fun x =>
      { x with freq := 0x28, cur := 0x28, next := 0x28, busy := false, pend := false })) d id) s
    .next (modMods s1 (fun m => { m with boot := .ready, ready := true, tokmov := 0 }))

/-- CONFIG_REQUEST_RETRY: an endpoint answers a configuration request with Retry Status (R36). -/
def execConfigRequestRetry (hub : Nat) (s : State) : Out :=
  if s.mods.ready ∨ !isHub hub then .next s else .next { s with crs := Tab.modify 0 s.crs hub (· + 1) }

end Sys2Proof.Machine
end

