-- ==== Sys2Proof/Machine/Flow.lean ====
section
/-! DEFINITION. Flows, the home-table rewrite, FLOW_RESET and debug-hold as events; messages between modules (R43-R61,
R151, R397). -/

namespace Sys2Proof.Machine

/-! ## Messages (R49, R52) -/

/-- An ordered message arrives (R49). -/
def execFlowMessageArrival (a : Arrival) (ack : Bool) (s : State) : Out :=
  match a with
  | .wire n => .next (deliver s n ack)
  | .pod smod snode seq words =>
    if smod = s.mods.podId ∨ 64 ≤ smod then .next s else .next (podArrival s smod snode seq words)

/-- The path of the k-th flow fails: what travelled on it is lost, and every unacknowledged message is sent again over the path
that the links now give (R40, R49, R52). -/
def execFlowPathFail (k : Nat) (s : State) : Out :=
  match s.net.flows[k]? with
  | none => .next s
  | some f => .next { s with net := { s.net with
      flows := listModify s.net.flows k (fun g => { g with path := if g.path.isEmpty then [] else routeOf s (g.key.1 / 64) (g.key.1 % 64) })
      wire := s.net.wire.filter (fun p => p.fl != some f.key) ++ f.unacked } }

/-! ## Home-table rewrite (R54-R57) -/

/-- ERR of a GO that is rejected (R55). -/
def goError (s : State) (asid index : Nat) : Option Nat :=
  let new := s.mods.rehomeEnt
  let t := (getCtx s asid).home
  firstSome (fun (x : Nat × Bool) => if x.2 then some x.1 else none)
    [(1, s.rehome.isSome),
     (2, new == 0 || homeEntBad new || Tab.get 0 t index == 0),
     (3, t.any (fun e => e.1 != index && homeOverlap new e.2)),
     (4, (entDies (roleHub s) new).any (fun d => !nodeActive s d))]

/-- A GO: rejected with ERR, or MOVE_MARK goes to every die and hub (R54-R56). -/
def goRehome (s : State) (asid index : Nat) : State :=
  match goError s asid index with
  | some e => modMods s (fun m => { m with rehomeErr := e })
  | none =>
    let r : Rehome := { id := s.nextReq, asid := asid, index := index, old := Tab.get 0 (getCtx s asid).home index,
                        new := s.mods.rehomeEnt }
    let s1 := modMods { s with nextReq := s.nextReq + 1, rehome := some r } (fun m => { m with rehomeErr := 0 })
    (rehomeNodes s1).foldl (fun t d => send t (roleHub t) d .ctl 0 (.moveMark r.id)) s1

/-- GO: a write of `MOD_REHOME_CTL`; a CMD other than 1 is ignored (R54). -/
def execGo (value : Word) (s : State) : Out :=
  if bitsOf value.toNat 28 4 ≠ 1 then .next s
  else .next (goRehome s (bitsOf value.toNat 0 14) (bitsOf value.toNat 14 6))

/-- Whether a message that a node sent still waits in its egress (R56). -/
def egressWaits (s : State) (node : Nat) : Bool :=
  s.net.flows.any (fun f => f.key.1 / 64 == node && !f.backlog.isEmpty)

def serveMoveMark (s : State) (n : Nat) : State :=
  match servable s n with
  | some p => match p.msg, s.rehome with
    | .moveMark id, some r =>
      if r.id ≠ id then takeMsg s n
      else
        let s1 : State := { s with rehome := some { r with
          marked := if r.marked.contains p.dst then r.marked else r.marked ++ [p.dst] } }
        if egressWaits s1 p.dst then holdMsg s1 n
        else send (takeMsg s1 n) p.dst (roleHub s) .ctl 0 (.markAck id)
    | .moveMark _, none => takeMsg s n
    | _, _ => s
  | none => s

/-- MOVE_MARK reaches a die (R56). -/
def execMoveMark (n : Nat) (s : State) : Out := .next (serveMoveMark s n)

def serveMarkAck (s : State) (n : Nat) : State :=
  match servable s n with
  | some p => match p.msg with
    | .markAck id =>
      let t := takeMsg s n
      (match t.rehome with
       | some r => if r.id = id ∧ r.phase = 1 then
           rehomeProgress { t with rehome := some { r with acks := p.src :: r.acks } } else t
       | none => t)
    | _ => s
  | none => s

/-- MARK_ACK reaches the module task unit; after the last, HANDOFF begins (R56). -/
def execMarkAck (n : Nat) (s : State) : Out := .next (serveMarkAck s n)

def serveHandoffState (s : State) (n : Nat) : State :=
  match servable s n with
  | some p => match p.msg with
    | .handoff id g =>
      let t := takeMsg s n
      (match t.rehome with
       | some r => if r.id = id ∧ r.phase = 2 then moveTables t r.asid g p.src p.dst else t
       | none => t)
    | .handoffData id g =>
      let t := takeMsg s n
      (match t.rehome with
       | some r => if r.id = id ∧ r.phase = 2 then
           send (moveBytes t r.asid g p.src p.dst) p.dst p.src .rsp (g * 65536) (.handoffAck id g) else t
       | none => t)
    | .handoffAck id g => send (takeMsg s n) p.dst p.src .reg (g * 65536) (.handoffEnd id g)
    | _ => s
  | none => s

/-- HANDOFF_STATE: a new home takes over a granule's tables, or its bytes, which it acknowledges; on the acknowledgement the old
home sends HANDOFF_END (R56). -/
def execHandoffState (n : Nat) (s : State) : Out := .next (serveHandoffState s n)

def serveHandoffEnd (s : State) (n : Nat) : State :=
  match servable s n with
  | some p => match p.msg with
    | .handoffEnd id g =>
      let t := takeMsg s n
      (match t.rehome with
       | some r => if r.id = id ∧ r.phase = 2 then
           rehomeProgress { t with rehome := some { r with ends := r.ends.filter (fun x => x != (p.dst, g)) } } else t
       | none => t)
    | _ => s
  | none => s

/-- HANDOFF_END reaches a new home; after the last, COMMIT is sent (R56). -/
def execHandoffEnd (n : Nat) (s : State) : Out := .next (serveHandoffEnd s n)

def serveCommit (s : State) (n : Nat) : State :=
  match servable s n with
  | some p => match p.msg with
    | .commit =>
      let t := takeMsg s n
      (match t.rehome with
       | some r => if r.phase = 3 then
           rehomeProgress (releaseKept { t with rehome := some { r with committed := p.dst :: r.committed } } p.dst)
         else t
       | none => t)
    | _ => s
  | none => s

/-- COMMIT reaches a die: it switches its entry, replays, and releases what it held (R56, R57). -/
def execCommit (n : Nat) (s : State) : Out := .next (serveCommit s n)

def serveRedirect (s : State) (n : Nat) : State :=
  match servable s n with
  | some p => match p.msg with
    | .redirect m c seq =>
      let t := takeMsg s n
      let fl := if clsOrdered c then some (p.dst * 64 + p.src, clsCode c, flowId c ((msgHome m).getD (0, 0)).2) else none
      let q : Pkt := { src := p.dst, dst := p.src, cls := c, fl := fl, seq := seq, msg := m }
      (match t.rehome with
       | some r => if r.committed.contains p.dst then replay t q
         else { t with rehome := some { r with redirected := keepRedirected r.redirected q } }
       | none => replay t q)
    | _ => s
  | none => s

/-- REDIRECT reaches the source, which keeps the message until COMMIT (R57). -/
def execRedirect (n : Nat) (s : State) : Out := .next (serveRedirect s n)

/-! ## FLOW_RESET (R58) -/

/-- A workgroup of die `d` lost a detached wave with die `n`: it ends with a die-lost record (R218). -/
def endShipped (s : State) (d n : Nat) : State :=
  let hit := s.wgs.filter (fun g => g.2.node == d && g.2.waves.any (fun i => (Tab.find s.waves i).isNone))
  hit.foldl (fun t g =>
    let f : FaultInfo := { cause := cDieLost, sub := 0, origin := 0, detached := true, agent := agentId t n 127,
                           asid := g.2.asid }
    dropGroup (postFault t f none).1 g.1) s

/-- A die handles FLOW_RESET (R58, R116, R218). -/
def flowResetAt (s : State) (d n : Nat) : State :=
  let dead := s.net.outst.filter (fun o => o.pkt.src == d && o.pkt.dst == n)
  let s1 : State := { s with net := { s.net with
      outst := s.net.outst.filter (fun o => !(o.pkt.src == d && o.pkt.dst == n))
      wire := s.net.wire.filter (fun p => !((p.src == d && p.dst == n) || (p.src == n && p.dst == d)))
      flows := s.net.flows.filter (fun f => !(f.key.1 == d * 64 + n || f.key.1 == n * 64 + d)) } }
  let s2 : State := dead.foldl failRequest { s1 with grantWaits := s1.grantWaits.filter (fun g => !(g.node == d && g.src == n)) }
  let s3 : State := match s2.rehome with
    | some r => { s2 with rehome := some { r with
        held := r.held.filter (fun p => !(p.src == d && p.dst == n))
        redirected := r.redirected.filter (fun p => !(p.src == d && p.dst == n)) } }
    | none => s2
  let s4 := (nodeParts s3 d).foldl (fun u x =>
    if x.2.2.grantor == n then modPart u x.1 x.2.1 (fun p => { p with lost := true }) else u) s3
  -- waves here whose home die is lost end
  let gone := s4.waves.filter (fun e => e.2.node == d && (match e.2.home with
    | some h => h.1 == n
    | none => false))
  let s5 := gone.foldl (fun t e => freeLanding (voidReservations { t with waves := Tab.erase t.waves e.1 } e.1) e.2) s4
  rehomeProgress (retryHeld (homeWalk (endShipped s5 d n) d n) d)

def serveFlowReset (s : State) (n : Nat) : State :=
  match servable s n with
  | some p => match p.msg with
    | .flowReset lost => flowResetAt (takeMsg s n) p.dst lost
    | _ => s
  | none => s

/-- FLOW_RESET reaches a die (R58). -/
def execFlowReset (n : Nat) (s : State) : Out := .next (serveFlowReset s n)

/-! ## Debug-hold (R59, R60) -/

/-- A node takes the hold or its clearing, and acknowledges it. -/
def holdAt (s : State) (node : Nat) (on : Bool) : State :=
  modMods (modNode s node (fun x => { x with dbgHold := on }))
    (fun m => { m with dbgPend := m.dbgPend.filter (fun d => d != node) })

def serveHold (s : State) (n : Nat) (on : Bool) : State :=
  match servable s n with
  | some p => match p.msg with
    | .hold _ => if on then holdAt (takeMsg s n) p.dst true else s
    | .holdClear => if on then s else holdAt (takeMsg s n) p.dst false
    | _ => s
  | none => s

/-- DEBUG_HOLD: every die stops its response timers and watchdog counts (R59). -/
def execDebugHold (n : Nat) (s : State) : Out := .next (serveHold s n true)

/-- DEBUG_HOLD_CLEAR (R60). -/
def execDebugHoldClear (n : Nat) (s : State) : Out := .next (serveHold s n false)

end Sys2Proof.Machine
end

