-- ==== Sys2Proof/Machine/Crypt.lean ====
section
/-! DEFINITION. SHA-512 and the check of an RSASSA-PSS signature, as the security processor makes it (R145): RSA-4096,
e = 65,537, SHA-512, MGF1 with SHA-512, salt of 64 bytes. The algorithms are those of FIPS 180-4 and RFC 8017, which the
spec names without repeating them (PRESUMED, assumption log 19). -/

namespace Sys2Proof.Machine

/-! ## SHA-512 -/

def shaK0 : List (BitVec 64) :=
  [0x428A2F98D728AE22, 0x7137449123EF65CD, 0xB5C0FBCFEC4D3B2F, 0xE9B5DBA58189DBBC,
   0x3956C25BF348B538, 0x59F111F1B605D019, 0x923F82A4AF194F9B, 0xAB1C5ED5DA6D8118,
   0xD807AA98A3030242, 0x12835B0145706FBE, 0x243185BE4EE4B28C, 0x550C7DC3D5FFB4E2,
   0x72BE5D74F27B896F, 0x80DEB1FE3B1696B1, 0x9BDC06A725C71235, 0xC19BF174CF692694]
def shaK1 : List (BitVec 64) :=
  [0xE49B69C19EF14AD2, 0xEFBE4786384F25E3, 0x0FC19DC68B8CD5B5, 0x240CA1CC77AC9C65,
   0x2DE92C6F592B0275, 0x4A7484AA6EA6E483, 0x5CB0A9DCBD41FBD4, 0x76F988DA831153B5,
   0x983E5152EE66DFAB, 0xA831C66D2DB43210, 0xB00327C898FB213F, 0xBF597FC7BEEF0EE4,
   0xC6E00BF33DA88FC2, 0xD5A79147930AA725, 0x06CA6351E003826F, 0x142929670A0E6E70]
def shaK2 : List (BitVec 64) :=
  [0x27B70A8546D22FFC, 0x2E1B21385C26C926, 0x4D2C6DFC5AC42AED, 0x53380D139D95B3DF,
   0x650A73548BAF63DE, 0x766A0ABB3C77B2A8, 0x81C2C92E47EDAEE6, 0x92722C851482353B,
   0xA2BFE8A14CF10364, 0xA81A664BBC423001, 0xC24B8B70D0F89791, 0xC76C51A30654BE30,
   0xD192E819D6EF5218, 0xD69906245565A910, 0xF40E35855771202A, 0x106AA07032BBD1B8]
def shaK3 : List (BitVec 64) :=
  [0x19A4C116B8D2D0C8, 0x1E376C085141AB53, 0x2748774CDF8EEB99, 0x34B0BCB5E19B48A8,
   0x391C0CB3C5C95A63, 0x4ED8AA4AE3418ACB, 0x5B9CCA4F7763E373, 0x682E6FF3D6B2B8A3,
   0x748F82EE5DEFB2FC, 0x78A5636F43172F60, 0x84C87814A1F0AB72, 0x8CC702081A6439EC,
   0x90BEFFFA23631E28, 0xA4506CEBDE82BDE9, 0xBEF9A3F7B2C67915, 0xC67178F2E372532B]
def shaK4 : List (BitVec 64) :=
  [0xCA273ECEEA26619C, 0xD186B8C721C0C207, 0xEADA7DD6CDE0EB1E, 0xF57D4F7FEE6ED178,
   0x06F067AA72176FBA, 0x0A637DC5A2C898A6, 0x113F9804BEF90DAE, 0x1B710B35131C471B,
   0x28DB77F523047D84, 0x32CAAB7B40C72493, 0x3C9EBE0A15C9BEBC, 0x431D67C49C100D4C,
   0x4CC5D4BECB3E42B6, 0x597F299CFC657E2A, 0x5FCB6FAB3AD6FAEC, 0x6C44198C4A475817]

def shaK : List (BitVec 64) := shaK0 ++ shaK1 ++ shaK2 ++ shaK3 ++ shaK4

def shaInit : List (BitVec 64) :=
  [0x6A09E667F3BCC908, 0xBB67AE8584CAA73B, 0x3C6EF372FE94F82B, 0xA54FF53A5F1D36F1,
   0x510E527FADE682D1, 0x9B05688C2B3E6C1F, 0x1F83D9ABFB41BD6B, 0x5BE0CD19137E2179]

/-- The number of big-endian bytes. -/
def beNat (l : List Byte) : Nat := l.foldl (fun a b => a * 256 + b.toNat) 0

/-- A number as n big-endian bytes. -/
def beBytes (n v : Nat) : List Byte := (List.range n).map (fun i => BitVec.ofNat 8 (v / 256 ^ (n - 1 - i)))

/-- The message padded to a multiple of 128 bytes. -/
def shaPad (m : List Byte) : List Byte :=
  m ++ [0x80#8] ++ List.replicate ((239 - m.length % 128) % 128) 0 ++ beBytes 16 (8 * m.length)

/-- The schedule, newest word first; `n` words are still to come. -/
def shaSchedule : Nat → List (BitVec 64) → List (BitVec 64)
  | 0, w => w
  | n + 1, w =>
    let a := w.getD 14 0
    let b := w.getD 1 0
    let s0 := a.rotateRight 1 ^^^ a.rotateRight 8 ^^^ (a >>> 7)
    let s1 := b.rotateRight 19 ^^^ b.rotateRight 61 ^^^ (b >>> 6)
    shaSchedule n ((s1 + w.getD 6 0 + s0 + w.getD 15 0) :: w)

/-- One round on the working variables a to h. -/
def shaRound (v : List (BitVec 64)) (x : BitVec 64 × BitVec 64) : List (BitVec 64) :=
  match v with
  | [a, b, c, d, e, f, g, h] =>
    let s1 := e.rotateRight 14 ^^^ e.rotateRight 18 ^^^ e.rotateRight 41
    let t1 := h + s1 + ((e &&& f) ^^^ (~~~e &&& g)) + x.1 + x.2
    let s0 := a.rotateRight 28 ^^^ a.rotateRight 34 ^^^ a.rotateRight 39
    let t2 := s0 + ((a &&& b) ^^^ (a &&& c) ^^^ (b &&& c))
    [t1 + t2, a, b, c, d + t1, e, f, g]
  | v => v

/-- One block of 128 bytes. -/
def shaBlock (h : List (BitVec 64)) (b : List Byte) : List (BitVec 64) :=
  let w := (List.range 16).map (fun i => BitVec.ofNat 64 (beNat ((b.drop (8 * i)).take 8)))
  let ws := (shaSchedule 64 w.reverse).reverse
  List.zipWith (· + ·) h ((shaK.zip ws).foldl shaRound h)

/-- `n` blocks of a padded message. -/
def shaBlocks : Nat → List Byte → List (BitVec 64) → List (BitVec 64)
  | 0, _, h => h
  | n + 1, l, h => shaBlocks n (l.drop 128) (shaBlock h (l.take 128))

/-- The digest, as 64 bytes. -/
def sha512 (m : List Byte) : List Byte :=
  let p := shaPad m
  (shaBlocks (p.length / 128) p shaInit).flatMap (fun x => beBytes 8 x.toNat)

/-- A digest as a number, the first byte lowest, as digests stand in headers and fuses. -/
def shaBits (m : List Byte) : BitVec 512 := BitVec.ofNat 512 (natOfBytes (sha512 m))

/-! ## RSASSA-PSS -/

/-- b ^ (2 ^ n) modulo m. -/
def squareMod (m : Nat) : Nat → Nat → Nat
  | 0, b => b
  | n + 1, b => squareMod m n (b * b % m)

/-- b ^ 65,537 modulo m. -/
def rsaPublic (m b : Nat) : Nat := squareMod m 16 b * b % m

/-- MGF1: the mask of n bytes. -/
def mgf1 (seed : List Byte) (n : Nat) : List Byte :=
  ((List.range ((n + 63) / 64)).flatMap (fun i => sha512 (seed ++ beBytes 4 i))).take n

/-- The signature of a message under a modulus of 4,096 bits; both are 512 bytes, big-endian. -/
def pssOk (modulus msg sig : List Byte) : Bool :=
  let n := beNat modulus
  let s := beNat sig
  if n < 2 ^ 4095 ∨ n ≤ s then false
  else
    let em := beBytes 512 (rsaPublic n s)
    let masked := em.take 447
    let h := (em.drop 447).take 64
    let db := List.zipWith (fun (a b : Byte) => a ^^^ b) masked (mgf1 h 447)
    let db := db.set 0 (db.getD 0 0 &&& 0x7F#8)
    em.getD 511 0 == 0xBC#8 && (masked.getD 0 0).toNat / 128 == 0
      && (db.take 382).all (fun b => b == 0) && db.getD 382 0 == 1#8
      && h == sha512 (List.replicate 8 0 ++ sha512 msg ++ db.drop 383)

end Sys2Proof.Machine
end

