-- ==== Sys2Proof/Machine/Service.lean ====
section
/-! DEFINITION. Clusters and service in place (R12-R14, R32-R35). -/

namespace Sys2Proof.Machine

/-! ## Clusters (R12-R14) -/

/-- The dies in service of a cluster, by a value of TOKMOV. -/
def clusterDies (s : State) (tok : BitVec 24) (token : Bool) : List Nat :=
  cdies.filter (fun d => nodeActive s d && (decide (24 ≤ d) || tok.getLsbD d) == token)

/-- CLUSTER_WRITE: `MOD_CLUSTER` (R14). -/
def execClusterWrite (value : Word) (s : State) : Out :=
  let new := value.setWidth 24
  let m := s.mods
  let diff := (List.range 24).filter (fun d => new.getLsbD d != m.tokmov.getLsbD d)
  let rej : Out := .next (modMods s (fun x => { x with moveRej := true }))
  if m.move.isSome then rej
  else match diff with
    | [] => .next s
    | [d] =>
      if !nodeActive s d ∨ (clusterDies s new true).isEmpty ∨ (clusterDies s new false).isEmpty then rej
      else .next (modMods s (fun x => { x with move := some { die := d, value := new.getLsbD d }, moveDie := d }))
    | _ => rej

/-- Whether a die holds a task, or a workgroup of one or of a continuation. -/
def dieWorks (s : State) (d : Nat) : Bool :=
  s.tasks.any (fun t => t.2.die == d) || s.wgs.any (fun g => g.2.node == d)

/-- CLUSTER_MOVE_COMPLETE (R14). -/
def execClusterMoveComplete (s : State) : Out :=
  match s.mods.move with
  | none => .next s
  | some v =>
    if dieWorks s v.die then .next s
    else .next (modMods s (fun m => { m with
      tokmov := if v.value then m.tokmov ||| ((1#24) <<< v.die) else m.tokmov &&& ~~~((1#24) <<< v.die), move := none }))

/-! ## Service in place (R32-R35) -/

/-- Whether the die is the last of its cluster in service. -/
def lastOfCluster (s : State) (n : Nat) : Bool :=
  isCdie n && (clusterDies s s.mods.tokmov (inToken s n)).all (fun d => d == n)

/-- The lowest code of those whose conditions hold (R34). -/
def rejectCode (l : List (Nat × Bool)) : Option Nat := firstSome (fun x => if x.2 then some x.1 else none) l

def svcReject (s : State) (c : Nat) : State := modMods s (fun m => { m with svcReason := c })

/-- The die in service and its state. -/
def inService (s : State) (n : Nat) (l : List Svc) : Bool := s.mods.svcOn == some n && l.contains (getNode s n).svc

/-- A node and the W-dies that go with it take a state (R35). -/
def setSvc (s : State) (n : Nat) (x : Svc) : State :=
  (n :: (wdiesOf n).map (fun w => 32 + w)).foldl (fun t k => modNode t k (fun y => { y with svc := x })) s

/-- ISOLATE (R33-R35): a W-die alone passes to REHOME at once; hub 0's package-time role goes to hub 1 (R27). -/
def execIsolate (node : Nat) (s : State) : Out :=
  let other := if node = 48 then 49 else 48
  match rejectCode [(1, s.mods.svcOn.isSome), (2, lastOfCluster s node), (3, isHub node && !nodeActive s other),
      (4, decide (50 ≤ node)), (5, s.mods.move.isSome)] with
  | some c => .next (svcReject s c)
  | none =>
    let s1 := modMods s (fun m => { m with svcOn := some node, svcNode := node,
                                           source := if node = 48 then 1 else if node = 49 then 0 else m.source })
    if isWdie node then .next (modNode s1 node (fun x => { x with svc := .rehome }))
    else
      let s2 := setSvc s1 node .drain
      .next (if isCdie node then { s2 with preempts := s2.preempts ++ [{ target := .die node }] } else s2)

/-- Whether a home-map entry names a die as a home. -/
def entNames (x : BitVec 128) (n : Nat) : Bool :=
  let e := homeEnt x
  (e.policy == 1 && e.dies == n) || (e.policy == 2 && decide (n < 32) && bitOf e.dies n)

/-- State of R33's REHOME row that is still held on a die. -/
def stateHeld (s : State) (n : Nat) : Bool :=
  s.ctxs.any (fun c => (c.2.live || c.1 == 0) && c.2.home.any (fun e => entNames e.2 n))
    || s.regions.any (fun r => r.node == n || agentNode r.owner == n)
    || s.tokens.any (fun t => t.node == n || t.holder.any (fun h => agentNode h == n))
    || s.queues.any (fun q => q.1 / 2048 == n && q.2.q.isSome)

/-- NEXT: the die's links are fenced and it enters WIPE (R33, R58). -/
def execNext (node : Nat) (s : State) : Out :=
  match rejectCode [(4, decide (50 ≤ node)), (6, inService s node [.rehome] && stateHeld s node),
      (7, !inService s node [.rehome])] with
  | some c => .next (svcReject s c)
  | none => .next (if isWdie node then wdieDown s node else dieDown s node)

/-- The types of image that a node and its W-dies load. -/
def imageTypes (node : Nat) : List Nat :=
  if isHub node then [1] else if isWdie node then [3] else if (wdiesOf node).isEmpty then [2] else [2, 3]

/-- READMIT: firmware is loaded, links retrained, and the self-test runs (R33, R127). -/
def execReadmit (node : Nat) (s : State) : Out :=
  match rejectCode [(4, decide (50 ≤ node)), (7, !inService s node [.isolated])] with
  | some c => .next (svcReject s c)
  | none =>
    let s1 := setSvc s node .load
    .next { s1 with secure := loadImages s1.secure s1.time (imageTypes node) }

/-- The next node out of ACTIVE, when one returns. -/
def nextInService (s : State) (n : Nat) : Option Nat := allNodes.find? (fun d => d != n && (getNode s d).svc != .active)

/-- ABORT: dispatch to the die resumes (R33). -/
def execAbort (node : Nat) (s : State) : Out :=
  match rejectCode [(4, decide (50 ≤ node)), (7, !inService s node [.drain, .rehome])] with
  | some c => .next (svcReject s c)
  | none =>
    let s1 := setSvc { s with preempts := s.preempts.filter (fun p => p.target != .die node) } node .active
    let o := nextInService s1 node
    .next (modMods s1 (fun m => { m with svcOn := o, svcNode := o.getD m.svcNode }))

/-- No work is resident on a node and no engine operation is in flight. -/
def nodeEmpty (s : State) (n : Nat) : Bool :=
  !dieWorks s n && !s.waves.any (fun e => decide (128 ≤ e.1) && e.2.node == n)
    && !s.cores.any (fun c => c.1 / 128 == n && !c.2.score.isEmpty)

/-- SVC_DRAIN_COMPLETE (R33). -/
def execSvcDrainComplete (s : State) : Out :=
  match s.mods.svcOn with
  | none => .next s
  | some n =>
    if (getNode s n).svc ≠ .drain ∨ !nodeEmpty s n then .next s
    else .next (setSvc { s with preempts := s.preempts.filter (fun p => p.target != .die n) } n .rehome)

/-- The node whose wipe ends next: the one in service, else the lowest. -/
def wiping (s : State) : Option Nat :=
  let on := (s.mods.svcOn.toList ++ allNodes).filter (fun n => (getNode s n).svc == .wipe)
  on.head?

/-- WIPE_COMPLETE: the die's memory and arrays hold zeros (R33, R35, R144). -/
def execWipeComplete (s : State) : Out :=
  match wiping s with
  | none => .next s
  | some n => .next (setSvc (if isCdie n then wipeMem s (fun a => paNode a == n) else s) n .isolated)

/-- SELF_TEST_DONE: package time is synchronised and the clock set to FREQ, or FAIL is set (R33). -/
def execSelfTestDone (pass : Bool) (s : State) : Out :=
  match s.mods.svcOn with
  | none => .next s
  | some n =>
    if (getNode s n).svc ≠ .load then .next s
    else if !pass then .next (modMods (setSvc s n .isolated) (fun m => { m with svcFail := true }))
    else
      let now := nodeTime s (48 + s.mods.source)
      let s1 := modNode (setSvc s n .readmit) n (fun x =>
        { x with absent := false, ptime := now, slew := 0, out := false, lost := false, missRun := 0, stampAt := now,
                 cur := x.freq, busy := false, pend := false })
      let s1 := if isCdie n then clockChange s1 n id else s1
      .next ((wdiesOf n).foldl (fun t w => modNode t (32 + w) (fun x => { x with absent := false, ptime := now })) s1)

/-- DIE_TASK_UNIT_READY: dispatch to the die begins (R33). -/
def execDieTaskUnitReady (s : State) : Out :=
  match s.mods.svcOn with
  | none => .next s
  | some n =>
    if (getNode s n).svc ≠ .readmit then .next s
    else
      let s1 := setSvc s n .active
      let o := nextInService s1 n
      .next (modMods s1 (fun m => { m with svcOn := o, svcNode := o.getD m.svcNode }))

end Sys2Proof.Machine
end

