-- ==== Sys2Proof/Machine/Image.lean ====
section
/-! DEFINITION. The capability list, attestation, firmware images and the life cycle (R127-R129, R141-R148). -/

namespace Sys2Proof.Machine

/-! ## Capabilities (R128, R129) -/

/-- Capability 0x0001: part number, stepping, serial number. -/
def identity (x : Secure) : Nat := 0xE320 + x.stepping.toNat * 2 ^ 16 + x.serial.toNat * 2 ^ 24

/-- The bits of a list of positions. -/
def bitsAt (n : Nat) (p : Nat → Bool) : Nat := sumNat ((List.range n).map (fun i => if p i then 2 ^ i else 0))

/-- Nodes present and ACTIVE. -/
def diesPresent (s : State) : Nat := bitsAt 50 (nodeActive s)

def lcCode : LC → Nat
  | .manufacture => 0 | .provisioned => 1 | .deployed => 2 | .fieldDebug => 3 | .retired => 4

def tribUp (s : State) (k : Nat) : Bool := (Tab.get ({} : TribSt) (getNode s (48 + k / 8)).tribs k).up

def runningImg (s : State) (t : Nat) : Img := Tab.get {} s.secure.running t

/-- The payload of a capability ID; near memory is 48 GiB and far memory 128 GiB on each C-die (R18), and a W-die has 64
weight slots (R424). -/
def capPayload (s : State) (id : Nat) : Nat :=
  match id with
  | 1 => identity s.secure
  | 2 => diesPresent s
  | 3 => 65536 + 262144 * 2 ^ 32
  | 4 => 1024 + ((List.range 1024).filter (fun k => !(getKey s k).alloc)).length * 2 ^ 11
  | 5 => lcCode s.secure.lc
  | 6 => (runningImg s 1).version % 2 ^ 64
  | 7 => s.mods.podId + bitsAt 16 (tribUp s) * 2 ^ 6
  | 8 => 1536 + 4096 * 2 ^ 32
  | 9 => 64 * ((List.range 16).filter (fun w => nodeActive s (32 + w))).length
  | 10 => s.secure.recovery.getD 0 % 256
  | _ => 0

/-- The IDs in the chain: Recovery only while no valid image has been found (R129, R147). -/
def capIds (s : State) : List Nat :=
  (List.range 9).map (· + 1) ++ (if s.secure.recovery.isSome then [10] else [])

/-- The 16-byte entry at an offset of the capability list, which stands in the order of its IDs without gaps (assumption
log 20); 0 at any other offset. -/
def capEntry (s : State) (off : Nat) : Nat :=
  if off % 16 ≠ 0 then 0
  else match (capIds s)[off / 16]? with
    | none => 0
    | some id =>
      let next := if off / 16 + 1 < (capIds s).length then off + 16 else 0
      id + (Config.capVersion id).toNat * 2 ^ 16 + next * 2 ^ 32 + capPayload s id * 2 ^ 64

/-! ## Attestation (R148) -/

/-- Bytes 0 to 511 of a report. -/
def reportBody (s : State) (func : Nat) : List Byte :=
  padTo 512 (bytesOfNat 8 (identity s.secure) ++ bytesOfNat 8 (lcCode s.secure.lc + s.secure.counter * 2 ^ 8)
    ++ bytesOf 64 (getFunc s func).attNonce
    ++ bytesOf 64 (runningImg s 1).digest ++ bytesOf 64 (runningImg s 2).digest ++ bytesOf 64 (runningImg s 3).digest
    ++ bytesOfNat 8 (diesPresent s))

/-- A report with its signature under the attestation key, which no port reads: a free value. -/
def reportBytes (s : State) (func : Nat) : List Byte :=
  reportBody s func ++ (List.range 512).map (Config.attSignature s.free)

def certBytes : List Byte := (List.range Config.attCertificateLength.toNat).map Config.attCertificate

/-- An attestation command writes to the host, unless the key no longer exists; `ok` says that the host takes the
write. -/
def attest (s : State) (func : Nat) (ok : Bool) (bytes : List Byte) : State :=
  if s.secure.lc = .retired then modFunc s func (fun f => { f with attErr := 3, attLen := 0 })
  else if !ok then modFunc s func (fun f => { f with attErr := 2, attLen := 0 })
  else modFunc (outsideStore s (hostAddr (getFunc s func).attAddr.toNat) bytes) func
    (fun f => { f with attErr := 0, attLen := bytes.length % 2 ^ 16 })

/-- Attestation command `k` of a function acts: alone, or as the one that is in progress. A command that finds another in
progress has ERR 0x01 (R127). -/
def attCommand (s : State) (func k : Nat) (ok : Bool) (bytes : List Byte) : State :=
  if 64 ≤ func then s
  else if (getFunc s func).attCmd.any (fun c => c != k) then modFunc s func (fun f => { f with attErr := 1 })
  else attest (modFunc s func (fun f => { f with attCmd := none })) func ok bytes

/-- ATT_REPORT: REPORT of `MOD_ATT_CMD` (R127, R148). -/
def execAttReport (func : Nat) (ok : Bool) (s : State) : Out := .next (attCommand s func 1 ok (reportBytes s func))

/-- ATT_CERT: CERT of `MOD_ATT_CMD` (R127). -/
def execAttCert (func : Nat) (ok : Bool) (s : State) : Out := .next (attCommand s func 2 ok certBytes)

/-! ## Images (R142, R145-R147) -/

/-- An image read from the host: header, key block, body. -/
structure ImgFile where
  head : List Byte
  keys : List Byte
  body : List Byte
  deriving DecidableEq, Repr

def imgFile (l : List Byte) : ImgFile := { head := l.take 1024, keys := (l.drop 1024).take 1024, body := l.drop 2048 }

def imgType (f : ImgFile) : Nat := fieldAt f.head 0 2
def imgAdvance (f : ImgFile) : Bool := bitOf (fieldAt f.head 2 2) 0
def imgCosign (f : ImgFile) : Bool := bitOf (fieldAt f.head 2 2) 1
def imgVersion (f : ImgFile) : Nat := fieldAt f.head 8 8
def modulus1 (f : ImgFile) : List Byte := f.keys.take 512
def modulus2 (f : ImgFile) : List Byte := f.keys.drop 512
def imgSig (f : ImgFile) : List Byte := (f.head.drop 512).take 512

def allZero (l : List Byte) : Bool := l.all (fun b => b == 0)

/-- The header is malformed for a command that takes some types; a body that is not as long as the header says, and a
reserved field of a life-cycle body that is not zero, count as malformed (DEDUCED). -/
def headBad (f : ImgFile) (types : List Nat) : Bool :=
  let n := fieldAt f.head 4 4
  let lcBad := imgType f == 4 &&
    (n != (if imgCosign f then 1024 else 512) || decide (8 ≤ (byteAt f.body 0).toNat) || !allZero ((f.body.drop 1).take 7)
      || !allZero ((f.body.take 512).drop 88)
      || ((byteAt f.body 0).toNat % 8 != 1 && !allZero ((f.body.drop 24).take 64)))
  decide (f.head.length < 1024) || decide (f.keys.length < 1024) || !types.contains (imgType f)
    || decide (4 ≤ fieldAt f.head 2 2) || !allZero ((f.head.drop 144).take 368) || n != f.body.length
    || (!imgCosign f && !allZero (modulus2 f)) || lcBad

/-- The digests fused by Niresh: 0 and 1 firmware roots, 2 manufacturing key, 3 debug key. -/
def nireshKey (x : Secure) (k : Nat) : Option (BitVec 512) :=
  if x.revoked.contains k then none else Tab.find x.roots k

/-- Keys by which a life-cycle command may be signed. -/
inductive LcKey where
  | manufacturing | debug | owner
  deriving DecidableEq, Repr

def lcKeyDigest (x : Secure) : LcKey → Option (BitVec 512)
  | .manufacturing => nireshKey x 2
  | .debug => nireshKey x 3
  | .owner => if x.owner = 0 then none else some x.owner

def isKey (x : Secure) (k : LcKey) (modulus : List Byte) : Bool := lcKeyDigest x k == some (shaBits modulus)

/-- The signing modulus is that of an accepted key (R145). -/
def keyAccepted (x : Secure) (f : ImgFile) : Bool :=
  if imgType f = 4 then [LcKey.manufacturing, .debug, .owner].any (fun k => isKey x k (modulus1 f))
  else [0, 1].any (fun k => nireshKey x k == some (shaBits (modulus1 f)))

/-- The transitions, with the keys that sign the header and the co-signature (R143). -/
def lcTransition (from_ : LC) (dest : Nat) : Option (LcKey × Option LcKey) :=
  match from_, dest with
  | .manufacture, 1 => some (.manufacturing, none)
  | .provisioned, 2 => some (.owner, none)
  | .deployed, 3 => some (.debug, some .owner)
  | .fieldDebug, 2 => some (.owner, none)
  | .retired, _ => none
  | _, 4 => some (.owner, none)
  | _, _ => none

def lcTarget (f : ImgFile) : Nat := (byteAt f.body 0).toNat % 8

/-- The checks of R142 that every image passes, in the order of the table. -/
def commonChecks (x : Secure) (f : ImgFile) (types : List Nat) : List (Nat × Bool) :=
  [(0x01, headBad f types), (0x02, shaBits f.keys != BitVec.ofNat 512 (fieldAt f.head 80 64)),
   (0x03, !keyAccepted x f), (0x04, !pssOk (modulus1 f) (f.head.take 512) (imgSig f)),
   (0x05, shaBits f.body != BitVec.ofNat 512 (fieldAt f.head 16 64)), (0x06, decide (imgVersion f < x.counter))]

/-- The co-signature that a transition needs is there and verifies. -/
def cosignOk (x : Secure) (f : ImgFile) (k : LcKey) : Bool :=
  imgCosign f && isKey x k (modulus2 f) && pssOk (modulus2 f) (f.body.take 512) (f.body.drop 512)

/-- The checks of a life-cycle command (R143, R146). -/
def lcChecks (x : Secure) (f : ImgFile) : List (Nat × Bool) :=
  let t := lcTransition x.lc (lcTarget f)
  let retire := lcTarget f == 4
  [(0x07, t.isNone), (0x08, t.any (fun k => !isKey x k.1 (modulus1 f))),
   (0x09, t.any (fun k => k.2.any (fun k2 => !cosignOk x f k2))),
   (0x0A, fieldAt f.body 8 8 != identity x),
   (0x0B, fieldAt f.body 16 8 != x.transitions && !(retire && decide (1024 ≤ x.transitions))),
   (0x0C, decide (1024 ≤ x.transitions) && !retire), (0x0E, imgAdvance f)]

def firstCode (l : List (Nat × Bool)) : Nat := (firstSome (fun x => if x.2 then some x.1 else none) l).getD 0

def firmwareCode (x : Secure) (f : ImgFile) (types : List Nat) : Nat :=
  firstCode (commonChecks x f types ++ [(0x0E, imgCosign f)])

def lcCodeOf (x : Secure) (f : ImgFile) : Nat := firstCode (commonChecks x f [4] ++ lcChecks x f)

/-- The image that `MOD_IMG_ADDR` and `MOD_IMG_LEN` name. -/
def hostImage (s : State) : ImgFile :=
  let f := getFunc s 0
  imgFile (hostRead s f.imgAddr.toNat f.imgLen.toNat)

/-- ERR of the command, and PENDERR when it is refused. -/
def imgResult (s : State) (code : Nat) : State :=
  let s1 := modFunc s 0 (fun f => { f with imgErr := code })
  if code = 0 then s1 else { s1 with secure := { s1.secure with pendErr := code } }

def imgOf (f : ImgFile) (now : Nat) : Img :=
  { digest := shaBits (f.head ++ f.keys ++ f.body), version := imgVersion f, advance := imgAdvance f, startAt := now,
    signer := some (shaBits (modulus1 f)) }

/-- Image command `k` acts: alone, or as the one that is in progress. A command that finds another in progress has code 0x0F
(R127, R142). -/
def imgCommand (s : State) (k : Nat) (act : State → State) : Out :=
  if (getFunc s 0).imgCmd.any (fun c => c != k) then .next (imgResult s 0x0F)
  else .next (act (modFunc s 0 (fun f => { f with imgCmd := none })))

/-- IMG_STAGE: `ok` says that the image could be read from the host (R127). -/
def execImgStage (ok : Bool) (s : State) : Out :=
  imgCommand s 1 (fun s =>
    let f := hostImage s
    let c := if ok then firmwareCode s.secure f [1, 2, 3] else 0x0D
    let s1 := imgResult s c
    if c ≠ 0 then s1
    else { s1 with secure := { s1.secure with staged := Tab.put s1.secure.staged (imgType f) (imgOf f s.time) } })

/-- IMG_RECOVER: accepted only while the Recovery capability is present (R127, R147). -/
def execImgRecover (ok : Bool) (s : State) : Out :=
  if s.secure.recovery.isNone then .next s
  else imgCommand s 3 (fun s =>
    let f := hostImage s
    let c := if ok then firmwareCode s.secure f [1] else 0x0D
    let s1 := imgResult s c
    if c ≠ 0 then s1
    else { s1 with secure := { s1.secure with running := Tab.put s1.secure.running 1 (imgOf f s.time), recovery := none } })

/-! ## Life cycle (R141, R143, R144) -/

/-- The sideband debug port, which reads any memory, is open (R143). -/
def sidebandOpen (s : State) : Bool := s.secure.lc == .manufacture || s.secure.lc == .fieldDebug

def lcOfCode : Nat → LC
  | 0 => .manufacture | 1 => .provisioned | 2 => .deployed | 3 => .fieldDebug | _ => .retired

/-- A node after a change of life-cycle state: its place in the fabric is kept, its work is gone. -/
def lcNode (n : NodeSt) : NodeSt :=
  { n with rr := 0, steal := 0, counts := [], halt := false, haltPend := false, dbgHold := false }

/-- Every context ends, and the wipes of R36 follow before `MOD_READY` is set again (R144). Links stay trained and
package time runs on. -/
def lcWipe (s : State) : State :=
  let z := resetModule s
  -- a module whose links had not trained goes on with its bring-up where it was
  let up := [0, 1, 2].all s.mods.trained.contains
  { z with mods := { s.mods with ready := false, boot := if up then .timeStarted else s.mods.boot,
                                 trained := if up then [0, 1, 2] else s.mods.trained, move := none, dbgPend := [] }
           nodes := Tab.mapVals (fun _ n => lcNode n) s.nodes
           funcs := Tab.mapVals (fun _ (f : Func) => { f with ctxBusy := false, attCmd := none, imgCmd := none }) s.funcs
           winErr := s.winErr
           crs := s.crs
           hostData := s.hostData
           secure := s.secure }

/-- A transition is performed: fuses, then the wipe (R143, R144, R146). -/
def lcPerform (s : State) (f : ImgFile) : State :=
  let x := s.secure
  let dest := lcOfCode (lcTarget f)
  let y : Secure := { x with
    lc := dest
    transitions := min 1024 (x.transitions + 1)
    owner := if dest = .provisioned then BitVec.ofNat 512 (fieldAt f.body 24 64) else x.owner
    attKey := dest != .retired }
  lcWipe { s with secure := y }

/-- IMG_LIFECYCLE (R127, R143, R146). -/
def execImgLifecycle (ok : Bool) (s : State) : Out :=
  imgCommand s 2 (fun s =>
    let f := hostImage s
    let c := if ok then lcCodeOf s.secure f else 0x0D
    let s1 := imgResult s c
    if c ≠ 0 then s1 else lcPerform s1 f)

/-- ADVANCE_COMMIT: an image with ADVANCE that has run for 10 s raises the fused counter to its version, at most 63
(R147). -/
def execAdvanceCommit (s : State) : Out :=
  let due := s.secure.running.filter (fun e => e.2.advance && decide (e.2.startAt + 10000000000 ≤ s.time))
  .next { s with secure := { s.secure with
    counter := due.foldl (fun c e => max c (min 63 e.2.version)) s.secure.counter } }

end Sys2Proof.Machine
end

