-- ==== Sys2Proof/Machine/Port.lean ====
section
/-! DEFINITION. The enqueue windows of host functions, and their control-register access (R127, R130-R133). -/

namespace Sys2Proof.Machine

/-! ## Enqueue windows (R130-R133) -/

/-- The key of a function's own count of discarded writes to a window. -/
def windowKey (func k : Nat) : Nat := func * 65536 + k

def windowDiscard (s : State) (func k : Nat) : State :=
  { s with winErr := Tab.modify 0 s.winErr (windowKey func k) (fun n => satInc 16 n 1) }

/-- A window write of whole records, aligned and within 0x000-0xEFF of its window (R130, R131). One longer than the eight
records of R130 has none of the three faults of R131: its records are enqueued in order, as those of several writes. -/
def windowWriteOk (wo len : Nat) : Bool :=
  decide (0 < len) && len % 64 == 0 && wo % 64 == 0 && decide (wo + len ≤ 0xF00)

/-- The sender of a window write (R163). -/
def hostSender (func : Nat) : Word := BitVec.ofNat 32 (2 ^ 31 + func)

/-- The n-th record of a window write. -/
def windowRecord (bytes : List Byte) (i : Nat) : List Byte := (bytes.drop (64 * i)).take 64

/-- Records to a queue of the function's own context: each into the ring, or to the dead-letter area (R131, R162). -/
def windowEnqueue (s : State) (func : Nat) (q : Queue) (bytes : List Byte) : State :=
  (List.range (bytes.length / 64)).foldl (fun t i =>
    (enqueue t q.handle (windowRecord bytes i) (hostSender func) (handleSlot q.handle) q.asid (roleHub t) []).1) s

/-- Records to a destroyed queue of a live context: each a dead letter, with the code of a lost home when the queue went
with its die (R131, R155). -/
def windowDead (s : State) (func k asid : Nat) (bytes : List Byte) : State :=
  let x := getQidx s k
  let h := makeHandle (k / 2048) (k % 2048) (getCtx s asid).slot (x.gen.getD 0)
  let code := if !nodeActive s (k / 2048) ∨ x.quar.any (·.lost) then qDieLost else qAbsent
  (List.range (bytes.length / 64)).foldl (fun t i =>
    deadLetter t asid (windowRecord bytes i) h code (hostSender func) (roleHub t)) s

/-- The live context of a function that a queue index belongs or belonged to. -/
def windowOwner (s : State) (func k : Nat) : Option Nat :=
  match (match (getQidx s k).q with
    | some q => some q.asid
    | none => (getQidx s k).owner) with
  | some a => if (getCtx s a).live ∧ (getCtx s a).func = func then some a else none
  | none => none

/-- A write to window k, at offset `wo` within it. -/
def windowWrite (s : State) (func k wo : Nat) (bytes : List Byte) : State :=
  if !s.mods.ready then modMods s (fun m => { m with werr := satInc 16 m.werr 1 })
  else if !windowWriteOk wo bytes.length then windowDiscard s func k
  else match windowOwner s func k, (getQidx s k).q with
    | none, _ => windowDiscard s func k
    | some _, some q => windowEnqueue s func q bytes
    | some a, none => windowDead s func k a bytes

/-- ENQUEUE_WINDOW_WRITE: a host write at an offset of BAR2 (R130-R132). While the home die is halted, or the hub's traffic
stalls behind a halted die, the write waits at the hub (R61). -/
def execEnqueueWindowWrite (func off : Nat) (bytes : List Byte) (s : State) : Out :=
  if 64 ≤ func ∨ 2 ^ 28 ≤ off then .next s
  else if s.mods.ready && ((getNode s (off / 4096 / 2048)).halt || hubStalls s (roleHub s)) then .next s
  else .next (windowWrite s func (off / 4096) (off % 4096) bytes)

/-- The status of a window: FREE and DEPTH of a queue of the function (R133). -/
def windowStatus (s : State) (func k : Nat) : Nat :=
  match windowOwner s func k, (getQidx s k).q with
  | some _, some q => ringFree q * 2 ^ 32 + (visibleSeqs q).length
  | _, _ => 0

/-- A read of a window; WERR clears (R133). -/
def windowRead (s : State) (func off : Nat) : State × Nat :=
  let k := off / 4096
  if off % 4096 = 0xF00 then (s, windowStatus s func k)
  else if off % 4096 = 0xF08 then
    ({ s with winErr := Tab.erase s.winErr (windowKey func k) }, Tab.get 0 s.winErr (windowKey func k))
  else (s, 0)

/-! ## Control registers from the host (R127) -/

/-- The live context of the function that `MOD_HCTL_ASID` names. -/
def hctlCtx (s : State) (func : Nat) : Option Nat :=
  let a := (getFunc s func).hctlAsid
  if (getCtx s a).live ∧ (getCtx s a).func = func then some a else none

def hctlFail (s : State) (func : Nat) : State := modFunc s func (fun f => { f with hctlErr := true })

/-- `ctlw` for the host: a general-core thread in user mode; the PF may write what R431 marks "S only". -/
def hctlWrite (s : State) (func : Nat) (x : DWord) : State :=
  let n := (getFunc s func).hctlNum
  match hctlCtx s func with
  | none => hctlFail s func
  | some a => if ctlWritable n (func == 0) then ctlWrite s a n x else hctlFail s func

/-- `ctlr` for the host. -/
def hctlRead (s : State) (func : Nat) : State × Nat :=
  let n := (getFunc s func).hctlNum
  match hctlCtx s func with
  | none => (hctlFail s func, 0)
  | some a => if ctlKind n = .none_ then (hctlFail s func, 0) else ctlRead s a n

/-- HCTL_VAL_WRITE (R127). -/
def execHctlValWrite (func : Nat) (value : DWord) (s : State) : Out :=
  .next (if 64 ≤ func then s else hctlWrite s func value)

/-- HCTL_VAL_READ (R127). -/
def execHctlValRead (func : Nat) (s : State) : Out :=
  .next (if 64 ≤ func then s else
    (let r := hctlRead s func
     { r.1 with hostData := r.2 }))

end Sys2Proof.Machine
end

