-- ==== Sys2Proof/Machine/Regs.lean ====
section
/-! DEFINITION. The register blocks of the module, its dies and hubs, the function registers, and the ways to them: the BARs
of the host functions and control space (R5, R6, R12, R13, R21, R26, R29, R30, R32, R37, R41, R43, R44, R54, R60, R117,
R122-R127, R132, R141, R182, R255, R272, R276, R278). -/

namespace Sys2Proof.Machine

/-! ## Module-wide registers (R125) -/

/-- A register of R125; `hi` names the upper slot of a 128-bit one, `h` a hub 0 or 1. -/
inductive CReg where
  | ready | werr | podId | lc | supply | dbgStat | cluster | clusterStat | pwrCap | svcCtl | svcStat
  | rehomeEnt (hi : Bool) | rehomeCtl | rehomeStat | preempt | arot (i : Nat) (hi : Bool)
  | clkCtl (d : Nat) | clkStat (d : Nat) | diePtime (d : Nat) | ecc (d : Nat) | dbgCtl (d : Nat)
  | link (d n : Nat)
  | fltBase (h : Nat) | fltHead (h : Nat) | fltTail (h : Nat) | fltLost (h : Nat) | fltAns (h : Nat)
  | trapVec (h : Nat) | hubPtime (h : Nat) | tribStat (h n : Nat) | tribRoute (h m : Nat)
  deriving DecidableEq, Repr

/-- The `MOD_` block, by offset within it. -/
def modReg (o : Nat) : Option CReg :=
  match o with
  | 0x0 => some .ready | 0x8 => some .werr | 0x10 => some .podId | 0x18 => some .lc | 0x20 => some .supply
  | 0x28 => some .dbgStat | 0x100 => some .cluster | 0x108 => some .clusterStat | 0x200 => some .pwrCap
  | 0x300 => some .svcCtl | 0x308 => some .svcStat | 0x400 => some (.rehomeEnt false) | 0x408 => some (.rehomeEnt true)
  | 0x410 => some .rehomeCtl | 0x418 => some .rehomeStat | 0x500 => some .preempt
  | _ =>
    if 0x1000 ≤ o ∧ o < 0x2000 ∧ o % 8 = 0 then some (.arot ((o - 0x1000) / 16) (o % 16 == 8)) else none

/-- The `DIE_` block of C-die d. -/
def dieReg (d o : Nat) : Option CReg :=
  match o with
  | 0x0 => some (.clkCtl d) | 0x8 => some (.clkStat d) | 0x10 => some (.diePtime d) | 0x18 => some (.ecc d)
  | 0x20 => some (.dbgCtl d)
  | _ => if 0x100 ≤ o ∧ o < 0x1A0 ∧ o % 8 = 0 then some (.link d ((o - 0x100) / 8)) else none

/-- The `HUB_` block of hub h. -/
def hubReg (h o : Nat) : Option CReg :=
  match o with
  | 0x0 => some (.fltBase h) | 0x8 => some (.fltHead h) | 0x10 => some (.fltTail h) | 0x18 => some (.fltLost h)
  | 0x20 => some (.fltAns h) | 0x100 => some (.trapVec h) | 0x108 => some (.hubPtime h)
  | _ =>
    if 0x200 ≤ o ∧ o < 0x240 ∧ o % 8 = 0 then some (.tribStat h ((o - 0x200) / 8))
    else if 0x1000 ≤ o ∧ o < 0x1200 ∧ o % 8 = 0 then some (.tribRoute h ((o - 0x1000) / 8))
    else none

/-- The register whose slot starts at an offset of the PF's BAR0 (R124, R125). -/
def regAt (off : Nat) : Option CReg :=
  let block := off / 2 ^ 20
  let o := off % 2 ^ 20
  if block = 1 then modReg o
  else if 2 ≤ block ∧ block < 34 then dieReg (block - 2) o
  else if block = 34 ∨ block = 35 then hubReg (block - 34) o
  else none

def svcCode : Svc → Nat
  | .active => 0 | .drain => 1 | .rehome => 2 | .wipe => 3 | .isolated => 4 | .load => 5 | .readmit => 6

def ptimeStat (x : NodeSt) : Nat :=
  b2n x.out * 2 ^ 31 + b2n x.lost * 2 ^ 30 + x.miss * 2 ^ 16 + natOfInt (max (-32767) (min 32767 x.offset)) 16

/-- MOD_SUPPLY_STAT (R29). -/
def supplyStat (m : ModSt) : Nat :=
  b2n m.fault * 2 ^ 31 + b2n m.low * 2 ^ 30 + b2n m.high * 2 ^ 29 + b2n m.limit * 2 ^ 28 + m.dip * 2 ^ 8 + m.volt % 256

/-- MOD_DBG_STAT (R60). -/
def dbgStat (s : State) : Nat :=
  let n := (haltedDies s).length
  b2n (n != 0) * 2 ^ 31 + b2n (!s.mods.dbgPend.isEmpty) * 2 ^ 30 + s.mods.dbgFirst * 2 ^ 8 + n

/-- MOD_CLUSTER_STAT (R13). -/
def clusterStat (m : ModSt) : Nat := b2n m.move.isSome * 2 ^ 31 + b2n m.moveRej * 2 ^ 30 + m.moveDie

/-- MOD_SVC_STAT (R32). -/
def svcStat (s : State) : Nat :=
  b2n s.mods.svcOn.isSome * 2 ^ 31 + svcCode (getNode s s.mods.svcNode).svc * 2 ^ 24 + s.mods.svcReason * 2 ^ 16
    + b2n s.mods.svcFail * 2 ^ 15 + s.mods.svcNode

/-- MOD_REHOME_STAT (R54). -/
def rehomeStat (s : State) : Nat :=
  b2n s.rehome.isSome * 2 ^ 31 + ((s.rehome.map (·.phase)).getD 0) * 2 ^ 28 + s.mods.rehomeErr * 2 ^ 16

/-- DIE_CLK_STAT (R21). -/
def clkStat (x : NodeSt) : Nat :=
  b2n x.busy * 2 ^ 31 + b2n x.pend * 2 ^ 30 + b2n x.badf * 2 ^ 29 + x.next * 2 ^ 8 + x.cur

/-- DIE_DBG_CTL (R276): a halt during a relock takes effect when the relock ends (R277). -/
def dbgCtl (x : NodeSt) : Nat := b2n (x.halt || x.haltPend) * 2 ^ 31 + b2n x.halt * 2 ^ 30 + b2n x.rej * 2 ^ 29

/-- DIE_LINK_STAT (R41). -/
def linkStat (s : State) (d n : Nat) : Nat :=
  if (linkPartner d n).isNone then 0
  else
    let l := getLink s d n
    b2n l.up * 2 ^ 31 + b2n l.dis * 2 ^ 30 + l.repl * 2 ^ 24 + l.retrain * 2 ^ 16 + l.retry

/-- HUB_TRIB_STAT (R44). -/
def tribStat (x : TribSt) : Nat :=
  b2n x.up * 2 ^ 31 + b2n x.dis * 2 ^ 30 + x.peer * 2 ^ 24 + x.peerLink * 2 ^ 20 + x.uncor

def getTrib (s : State) (h n : Nat) : TribSt := Tab.get {} (getNode s (48 + h)).tribs (8 * h + n)

/-- The half of a 128-bit register. -/
def half (x : BitVec 128) (hi : Bool) : Nat := if hi then x.toNat / 2 ^ 64 else x.toNat % 2 ^ 64

def setHalf (x : BitVec 128) (hi : Bool) (v : DWord) : BitVec 128 :=
  if hi then v ++ x.setWidth 64 else x.extractLsb' 64 64 ++ v

/-- The value that a read returns (R5). -/
def regValue (s : State) (r : CReg) : Nat :=
  let m := s.mods
  match r with
  | .ready => b2n m.ready
  | .werr => m.werr
  | .podId => m.podId
  | .lc => s.secure.pendErr * 2 ^ 3 + lcCode s.secure.lc
  | .supply => supplyStat m
  | .dbgStat => dbgStat s
  | .cluster => 0xFF000000 + m.tokmov.toNat
  | .clusterStat => clusterStat m
  | .pwrCap => m.avg * 2 ^ 16 + m.cap
  | .svcCtl => 0
  | .svcStat => svcStat s
  | .rehomeEnt hi => half m.rehomeEnt hi
  | .rehomeCtl => 0
  | .rehomeStat => rehomeStat s
  | .preempt => m.d2 * 2 ^ 16 + m.d1
  | .arot i hi => half (Tab.get 0 s.arot i) hi
  | .clkCtl d => ceilOf (getNode s d) * 2 ^ 8 + (getNode s d).freq
  | .clkStat d => clkStat (getNode s d)
  | .diePtime d => ptimeStat (getNode s d)
  | .ecc d => (getNode s d).ue * 2 ^ 48 + (getNode s d).lastu * 2 ^ 40 + (getNode s d).ce
  | .dbgCtl d => dbgCtl (getNode s d)
  | .link d n => linkStat s d n
  | .fltBase h => (getNode s (48 + h)).fltBase.toNat
  | .fltHead h => (getNode s (48 + h)).fltHead.toNat
  | .fltTail h => (getNode s (48 + h)).fltTail.toNat
  | .fltLost h => (getNode s (48 + h)).fltLost
  | .fltAns _ => 0
  | .trapVec h => (getNode s (48 + h)).trapVec.toNat
  | .hubPtime h => ptimeStat (getNode s (48 + h))
  | .tribStat h n => tribStat (getTrib s h n)
  | .tribRoute h k => Tab.get 0 (getNode s (48 + h)).routes k

/-- A read clears the RC fields (R5). -/
def regClear (s : State) (r : CReg) : State :=
  match r with
  | .werr => modMods s (fun m => { m with werr := 0 })
  | .lc => { s with secure := { s.secure with pendErr := 0 } }
  | .supply => modMods s (fun m => { m with dip := 0 })
  | .diePtime d => modNode s d (fun n => { n with miss := 0 })
  | .ecc d => modNode s d (fun n => { n with ue := 0, ce := 0 })
  | .link d n => modLink s d n (fun l => { l with retry := 0 })
  | .fltLost h => modNode s (48 + h) (fun n => { n with fltLost := 0 })
  | .hubPtime h => modNode s (48 + h) (fun n => { n with miss := 0 })
  | .tribStat h n => modTrib s (8 * h + n) (fun t => { t with uncor := 0 })
  | _ => s

def regRead (s : State) (r : CReg) : State × Nat := (regClear s r, regValue s r)

/-- The bytes of a slot that its register has. -/
def regWidth : CReg → Nat
  | .rehomeEnt _ | .arot _ _ | .ecc _ | .fltBase _ | .fltAns _ | .trapVec _ => 8
  | _ => 4

/-- What the bytes that a narrow write leaves out supply: the RW fields as they stand. -/
def regKeep (s : State) (r : CReg) : Nat :=
  match r with
  | .cluster => s.mods.tokmov.toNat
  | .pwrCap => s.mods.cap
  | .rehomeEnt _ | .preempt | .arot _ _ | .fltBase _ | .fltTail _ | .trapVec _ | .tribRoute _ _ => regValue s r
  | .clkCtl d => (getNode s d).freq
  | .dbgCtl d => b2n ((getNode s d).halt || (getNode s d).haltPend) * 2 ^ 31
  | _ => 0

/-- A MOD_AROT entry as it is stored: reserved bits zero, VALID only beside a SIZE of 16 to 53 (R117). -/
def arotStored (x : BitVec 128) : BitVec 128 :=
  let y := x &&& (0x8000FFFFFFE00000003FFFFFFFFF0000#128)
  let n := bitsOf y.toNat 92 6
  if n < 16 ∨ 53 < n then y &&& ~~~((1#128) <<< 127) else y

/-- A write of DIE_DBG_CTL: HALT by the PF alone, in the states of R276; a refused one sets REJ. -/
def writeDbgCtl (s : State) (pf : Bool) (d : Nat) (x : Word) : State :=
  let s1 := if x.getLsbD 29 then modNode s d (fun n => { n with rej := false }) else s
  if pf && haltOpen s then
    outState (if x.getLsbD 31 then execDieHalt d s1 else execDieResume d s1) s1
  else if x.getLsbD 31 then modNode s1 d (fun n => { n with rej := true })
  else s1

/-- A write of MOD_SVC_CTL; other CMDs are ignored (R32). -/
def writeSvc (s : State) (x : Word) : State :=
  let n := bitsOf x.toNat 0 6
  match bitsOf x.toNat 28 4 with
  | 1 => outState (execIsolate n s) s
  | 2 => outState (execNext n s) s
  | 3 => outState (execReadmit n s) s
  | 4 => outState (execAbort n s) s
  | _ => s

/-- A write by the fields' access codes, reserved bits ignored (R5, R6). `pf` says that the PF writes. -/
def regWrite (s : State) (pf : Bool) (r : CReg) (x : DWord) : State :=
  let lo := x.setWidth 32
  match r with
  | .supply => modMods s (fun m => { m with
      fault := m.fault && !x.getLsbD 31, low := m.low && !x.getLsbD 30, high := m.high && !x.getLsbD 29 })
  | .cluster => outState (execClusterWrite lo s) s
  | .clusterStat => modMods s (fun m => { m with moveRej := m.moveRej && !x.getLsbD 30 })
  | .pwrCap => outState (execPwrCapWrite (x.setWidth 16) s) s
  | .svcCtl => writeSvc s lo
  | .svcStat => modMods s (fun m => { m with svcFail := m.svcFail && !x.getLsbD 15 })
  | .rehomeEnt hi => modMods s (fun m => { m with rehomeEnt := setHalf m.rehomeEnt hi x &&& ~~~(0x3F#128 <<< 120 ||| 0xFFF#128 <<< 76) })
  | .rehomeCtl => outState (execGo lo s) s
  | .preempt => modMods s (fun m => { m with d2 := bitsOf x.toNat 16 16, d1 := bitsOf x.toNat 0 16 })
  | .arot i hi => { s with arot := Tab.set 0 s.arot i (arotStored (setHalf (Tab.get 0 s.arot i) hi x)) }
  | .clkCtl d => outState (execFreqWrite d (x.setWidth 6) s) s
  | .clkStat d => modNode s d (fun n => { n with badf := n.badf && !x.getLsbD 29 })
  | .dbgCtl d => writeDbgCtl s pf d lo
  | .fltBase h => modNode s (48 + h) (fun n => { n with fltBase := x &&& 0x000FFFFFFFFFF01F#64 })
  | .fltTail h => modNode s (48 + h) (fun n => { n with fltTail := lo })
  | .fltAns _ =>
    (match bitsOf x.toNat 62 2 with
     | 1 => answerFault s lo true
     | 2 => answerFault s lo false
     | _ => s)
  | .trapVec h => modNode s (48 + h) (fun n => { n with trapVec := x })
  | .tribRoute h m => podFailed (modNode s (48 + h) (fun n => { n with routes := Tab.set 0 n.routes m (bitsOf x.toNat 0 16) })) m
  | _ => s

/-- The bytes of a write at an offset that fall into the slot at `base`, over what the others keep. -/
def overBytes (keep base off : Nat) (l : List Byte) : DWord :=
  BitVec.ofNat 64 (natOfBytes ((bytesOfNat 8 keep).mapIdx (fun i b =>
    if off ≤ base + i ∧ base + i < off + l.length then byteAt l (base + i - off) else b)))

/-- Bytes written at an offset of the blocks: each slot whose register they touch is written once. -/
def blockWrite (s : State) (pf : Bool) (off : Nat) (l : List Byte) : State :=
  ((List.range ((off % 8 + l.length + 7) / 8)).map (fun i => off / 8 * 8 + 8 * i)).foldl (fun t base =>
    match regAt base with
    | none => t
    | some r =>
      if off < base + regWidth r ∧ base < off + l.length then regWrite t pf r (overBytes (regKeep t r) base off l)
      else t) s

/-- The number in n bytes at an offset; every register whose slot they touch is read. -/
def blockRead (s : State) (off n : Nat) : State × Nat :=
  let r := ((List.range ((off % 8 + n + 7) / 8)).map (fun i => off / 8 * 8 + 8 * i)).foldl
    (fun (a : State × List Byte) base =>
      match regAt base with
      | none => (a.1, a.2 ++ List.replicate 8 0)
      | some r => ((regRead a.1 r).1, a.2 ++ bytesOfNat 8 (regRead a.1 r).2)) (s, [])
  (r.1, natOfBytes ((r.2.drop (off % 8)).take n))

/-! ## Control space (R126) -/

/-- The offset of the blocks that a physical address of control space names; the register block of a W-die is empty. -/
def ctrlOffset (pa : Nat) : Option Nat := if isHub (paNode pa) then some (paOffset pa) else none

def ctrlRead (s : State) (pa n : Nat) : State × Nat :=
  match ctrlOffset pa with
  | some o => blockRead s o n
  | none => (s, 0)

def ctrlWrite (s : State) (pa : Nat) (l : List Byte) : State :=
  match ctrlOffset pa with
  | some o => blockWrite s false o l
  | none => s

def ctrlIo : CtrlIo := { read := ctrlRead, write := ctrlWrite }

/-! ## Function registers (R127) -/

/-- `MOD_Q_CMD` (R153). -/
def hostQueueCmd (s : State) (func : Nat) (x : DWord) : State :=
  let a := (getFunc s func).qAsid.toNat
  if (getCtx s a).live ∧ (getCtx s a).func = func then
    modFunc (queueCommand s a x) func (fun f => { f with qErr := none })
  else modFunc s func (fun f => { f with qErr := some 5 })

def hostQueueStat (s : State) (func : Nat) : Nat :=
  let f := getFunc s func
  match f.qErr with
  | some e => e * 2 ^ 16
  | none => if (getCtx s f.qAsid.toNat).live ∧ (getCtx s f.qAsid.toNat).func = func then
      ctlValue s f.qAsid.toNat 0x11 else 0

/-- A read of the function registers, by offset within them. -/
def funcRead (s : State) (func o : Nat) : State × Nat :=
  let f := getFunc s func
  if 0x200 ≤ o ∧ o < 0x240 then (s, f.attNonce.toNat / 2 ^ (64 * ((o - 0x200) / 8)) % 2 ^ 64)
  else match o with
    | 0x000 => (s, f.ctxDesc.toNat)
    | 0x010 => (s, f.ctxJoin.toNat)
    | 0x018 => (s, b2n f.ctxBusy * 2 ^ 31 + f.ctxErr * 2 ^ 16 + f.ctxSlot)
    | 0x020 => (s, f.qAsid.toNat)
    | 0x030 => (s, hostQueueStat s func)
    | 0x100 => (s, b2n f.hctlErr * 2 ^ 31 + f.hctlAsid)
    | 0x108 => (s, f.hctlNum)
    | 0x110 => hctlRead s func
    | 0x240 => (s, f.attAddr.toNat)
    | 0x250 => (s, b2n f.attCmd.isSome * 2 ^ 31 + f.attErr * 2 ^ 16 + f.attLen)
    | 0x300 => (s, if func = 0 then f.imgAddr.toNat else 0)
    | 0x308 => (s, if func = 0 then f.imgLen.toNat else 0)
    | 0x318 => (s, if func = 0 then b2n f.imgCmd.isSome * 2 ^ 31 + f.imgErr else 0)
    | _ => (s, 0)

def putNonce (x : BitVec 512) (k : Nat) (v : DWord) : BitVec 512 :=
  (x &&& ~~~((BitVec.allOnes 64).setWidth 512 <<< (64 * k))) ||| ((v.setWidth 512) <<< (64 * k))

/-- A write of `MOD_CTX_CMD`. -/
def hostCtxCmd (s : State) (func : Nat) (x : Word) : State :=
  match bitsOf x.toNat 28 4 with
  | 1 => outState (execCtxCreate func x s) s
  | 2 => outState (execCtxDestroy func x s) s
  | _ => s

/-- A write of `MOD_ATT_CMD`: the command acts at once, or stays in progress until its event (R127). -/
def hostAttCmd (s : State) (func : Nat) (x : Word) : State :=
  let k := bitsOf x.toNat 28 4
  if k ≠ 1 ∧ k ≠ 2 then s
  else if (getFunc s func).attCmd.isSome then modFunc s func (fun f => { f with attErr := 1 })
  else if s.mods.slow then modFunc s func (fun f => { f with attCmd := some k })
  else if k = 1 then outState (execAttReport func (!s.mods.hostFails) s) s
  else outState (execAttCert func (!s.mods.hostFails) s) s

/-- A write of `MOD_IMG_CMD`: the command acts at once, or stays in progress until its event (R127). RECOVER is accepted
only while the Recovery capability is present. -/
def hostImgCmd (s : State) (x : Word) : State :=
  let k := bitsOf x.toNat 28 4
  let ok := !s.mods.hostFails
  if k = 0 ∨ 3 < k ∨ (k = 3 ∧ s.secure.recovery.isNone) then s
  else if (getFunc s 0).imgCmd.isSome then imgResult s 0x0F
  else if s.mods.slow then modFunc s 0 (fun f => { f with imgCmd := some k })
  else match k with
    | 1 => outState (execImgStage ok s) s
    | 2 => outState (execImgLifecycle ok s) s
    | _ => outState (execImgRecover ok s) s

/-- A write of the function registers. -/
def funcWrite (s : State) (func o : Nat) (x : DWord) : State :=
  let lo := x.setWidth 32
  if 0x200 ≤ o ∧ o < 0x240 then modFunc s func (fun f => { f with attNonce := putNonce f.attNonce ((o - 0x200) / 8) x })
  else match o with
    | 0x000 => modFunc s func (fun f => { f with ctxDesc := x })
    | 0x008 => hostCtxCmd s func lo
    | 0x010 => modFunc s func (fun f => { f with ctxJoin := lo &&& 0x3FFF#32 })
    | 0x020 => modFunc s func (fun f => { f with qAsid := lo &&& 0x3FFF#32 })
    | 0x028 => hostQueueCmd s func x
    | 0x100 => modFunc s func (fun f => { f with hctlAsid := bitsOf x.toNat 0 14, hctlErr := f.hctlErr && !x.getLsbD 31 })
    | 0x108 => modFunc s func (fun f => { f with hctlNum := bitsOf x.toNat 0 9 })
    | 0x110 => hctlWrite s func x
    | 0x240 => modFunc s func (fun f => { f with attAddr := x })
    | 0x248 => hostAttCmd s func lo
    | 0x300 => if func = 0 then modFunc s func (fun f => { f with imgAddr := x }) else s
    | 0x308 => if func = 0 then modFunc s func (fun f => { f with imgLen := lo }) else s
    | 0x310 => if func = 0 then hostImgCmd s lo else s
    | _ => s

/-! ## The BARs (R122, R124) -/

/-- The offset within the function registers that an offset of BAR0 names. -/
def funcOffset (func off : Nat) : Option Nat :=
  if func = 0 then (if 0x10000 ≤ off ∧ off < 0x20000 then some (off - 0x10000) else none)
  else if 0x8000 ≤ off ∧ off < 0x10000 then some (off - 0x8000) else none

/-- Whether an offset of BAR0 lies in the capability list. -/
def inCaps (func off : Nat) : Bool := decide (off < if func = 0 then 0x10000 else 0x8000)

/-- A read of 8 bytes of BAR0. -/
def bar0Read (s : State) (func off : Nat) : State × Nat :=
  if inCaps func off then (s, capEntry s (off / 16 * 16) / 2 ^ (64 * (off / 8 % 2)) % 2 ^ 64)
  else match funcOffset func off with
    | some o => funcRead s func o
    | none => if func = 0 ∧ off < 2 ^ 26 then blockRead s off 8 else (s, 0)

/-- A write of 8 bytes of BAR0. -/
def bar0Write (s : State) (func off : Nat) (x : DWord) : State :=
  if inCaps func off then s
  else match funcOffset func off with
    | some o => funcWrite s func o x
    | none => if func = 0 ∧ off < 2 ^ 26 then blockWrite s true off (bytesOf 8 x) else s

/-- REGISTER_WRITE: a host function writes the 8-byte slot at an offset of its BAR0 (R5, R122). -/
def execRegisterWrite (func off : Nat) (value : DWord) (s : State) : Out :=
  .next (if 64 ≤ func ∨ off % 8 ≠ 0 then s else bar0Write s func off value)

/-- REGISTER_READ_CLEAR: a host function reads 8 bytes at an offset of its BAR0, or of its BAR2, whose offsets are written
from 2^32 on here; RC fields clear after it (R5, R133). No register begins at an offset that is not a multiple of 8, so a
read there gives zero (R125). -/
def execRegisterReadClear (func off : Nat) (s : State) : Out :=
  if 64 ≤ func ∨ 2 ^ 32 + 2 ^ 28 ≤ off then .next s
  else if off % 8 ≠ 0 then .next { s with hostData := 0 }
  else
    let r := if off < 2 ^ 32 then bar0Read s func off else windowRead s func (off - 2 ^ 32)
    .next { r.1 with hostData := r.2 }

end Sys2Proof.Machine
end

