-- ==== Sys2Proof/Machine/GlobalOps.lean ====
section
/-! DEFINITION. The instructions of global memory, to which control space may answer (R126, R371-R373, R377-R381, R389). -/

namespace Sys2Proof.Machine

def execLd (sx : Bool) (f : MemF) (s : State) : Out := loadOp ctrlIo (.ld sx f) sx f s

def execLdc (sx : Bool) (f : MemF) (s : State) : Out := loadOp ctrlIo (.ldc sx f) sx f s

def execSt (f : MemF) (s : State) : Out := storeOp ctrlIo f s

def execStm (f : MemF) (s : State) : Out := multicastOp ctrlIo f s

def execAtom (op : AtomOp) (f : MemF) (s : State) : Out := atomGlobal ctrlIo (.atom op f) f (atomFn op f) true s

def execAcas (f : MemF) (s : State) : Out := atomGlobal ctrlIo (.acas f) f (casFn f) true s

def execRed (op : AtomOp) (f : MemF) (s : State) : Out := atomGlobal ctrlIo (.red op f) f (atomFn op f) false s

def execMon (f : MemF) (s : State) : Out := monOp ctrlIo f s

end Sys2Proof.Machine
end

