-- ==== Sys2Proof/Machine/IntOps.lean ====
section
/-! DEFINITION. Integer arithmetic, logic, shifts, bit fields and predicate moves (R329-R337). -/

namespace Sys2Proof.Machine

/-! ## Integer arithmetic (R329-R332) -/

/-- An integer instruction with a register result in the operation type. -/
def aluInt (i : Instr) (f : ArithF) (rule : ShapeRule) (preds : List Opnd) (srcs : List Src) (r : Rd → Nat → Int)
    (s : State) : Out :=
  aluPure i f.h (.reg (tyWords f.ty) rule) { preds := preds, srcs := srcs } (fun x l => reduceInt f.ty f.sat (r x l)) s

/-- `nop` has no effect (R364). -/
def execNop (f : ArithF) (s : State) : Out := retireOnly (.nop f) s

/-- The value that a `mov` leaves in rseed or fpctl: its lanes write in ascending order (R6, R325). -/
def movSpecial (f : ArithF) (x : Rd) : Option Word :=
  ((maskLanes (workMask x f.h.g)).getLast?).map (fun l => BitVec.ofNat 32 (bitsA f x l))

/-- `mov`, also to rseed and fpctl (R196, R330). -/
def execMov (f : ArithF) (s : State) : Out :=
  match f.h.dst with
  | .sreg .rseed => gate (.mov f) s (fun id w p => .next (retire s id (match movSpecial f ⟨s, w, p⟩ with
      | some v => { w with rseed := v }
      | none => w)))
  | .sreg .fpctl => gate (.mov f) s (fun id w p => .next (retire s id (match movSpecial f ⟨s, w, p⟩ with
      | some v => writeFpctl w v
      | none => w)))
  | _ => aluInt (.mov f) f .affMov [] (src1 f) (intA f) s

def execSel (f : ArithF) (s : State) : Out :=
  aluInt (.sel f) f .plain [f.h.sc] (src2 f) (fun x l => if predBit x f.h.sc l then intA f x l else intB f x l) s

/-- The second source of `lea` (R330). -/
def leaB (f : ArithF) (x : Rd) (l : Nat) : Int :=
  let b := opnd x (if tySigned f.ty then .s32 else .n32) f.hi f.h.sb l
  if tySigned f.ty then signedOf b 32 else (b : Int)

def execLea (k : BitVec 3) (f : ArithF) (s : State) : Out :=
  aluInt (.lea k f) f (affineRule f .affAdd) [] [⟨f.h.sa, tyWords f.ty⟩, ⟨f.h.sb, 1⟩]
    (fun x l => intA f x l + leaB f x l * (2 ^ k.toNat : Nat)) s

def execIadd (f : ArithF) (s : State) : Out :=
  aluInt (.iadd f) f (affineRule f .affAdd) [] (src2 f) (fun x l => intA f x l + intB f x l) s

def execIsub (f : ArithF) (s : State) : Out :=
  aluInt (.isub f) f (affineRule f .affAdd) [] (src2 f) (fun x l => intA f x l - intB f x l) s

def execIadd3 (f : ArithF) (s : State) : Out :=
  aluInt (.iadd3 f) f .plain [] (src3 f) (fun x l => intA f x l + intB f x l + intC f x l) s

def execIaddx (f : ArithF) (s : State) : Out :=
  aluInt (.iaddx f) f .plain [f.h.sc] (src2 f)
    (fun x l => intA f x l + intB f x l + (b2n (predBit x f.h.sc l) : Int)) s

def execIaddxCo (f : ArithF) (s : State) : Out :=
  aluPure (.iaddxCo f) f.h .pred {}
    (fun x l => b2n (decide (2 ^ tyWidth f.ty ≤ bitsA f x l + bitsB f x l + b2n (predBit x f.h.sc l)))) s

def execImul (f : ArithF) (s : State) : Out :=
  aluInt (.imul f) f (affineRule f .affMul) [] (src2 f) (fun x l => intA f x l * intB f x l) s

def execImulh (f : ArithF) (s : State) : Out :=
  aluInt (.imulh f) f .plain [] (src2 f) (fun x l => intA f x l * intB f x l / ((2 ^ tyWidth f.ty : Nat) : Int)) s

def execImad (f : ArithF) (s : State) : Out :=
  aluInt (.imad f) f .plain [] (src3 f) (fun x l => intA f x l * intB f x l + intC f x l) s

/-- The 64-bit addend of `imadw`. -/
def wideC (f : ArithF) (x : Rd) (l : Nat) : Int :=
  let c := opnd x (if tySigned f.ty then .s64 else .n64) f.hi f.h.sc l
  if tySigned f.ty then signedOf c 64 else (c : Int)

def execImadw (f : ArithF) (s : State) : Out :=
  aluPure (.imadw f) f.h (.reg 2 .plain) { srcs := src2 f ++ [⟨f.h.sc, 2⟩] }
    (fun x l => natOfInt (intA f x l * intB f x l + wideC f x l) 64) s

/-- Quotient truncated toward zero; all ones for a zero divisor (R332). -/
def quot (w : Nat) (a b : Int) : Int := if b = 0 then ((2 ^ w : Nat) : Int) - 1 else Int.tdiv a b

/-- A zero divisor gives all ones whatever SAT is (R332). -/
def idivVal (f : ArithF) (a b : Int) : Nat :=
  if b = 0 then 2 ^ tyWidth f.ty - 1 else reduceInt f.ty f.sat (quot (tyWidth f.ty) a b)

def execIdiv (f : ArithF) (s : State) : Out :=
  aluPure (.idiv f) f.h (.reg (tyWords f.ty) .plain) { srcs := src2 f }
    (fun x l => idivVal f (intA f x l) (intB f x l)) s

def remVal (a b : Int) : Int := if b = 0 then a else Int.tmod a b

def execIrem (f : ArithF) (s : State) : Out :=
  aluInt (.irem f) f .plain [] (src2 f) (fun x l => remVal (intA f x l) (intB f x l)) s

def execImin (f : ArithF) (s : State) : Out :=
  aluInt (.imin f) f .plain [] (src2 f) (fun x l => min (intA f x l) (intB f x l)) s

def execImax (f : ArithF) (s : State) : Out :=
  aluInt (.imax f) f .plain [] (src2 f) (fun x l => max (intA f x l) (intB f x l)) s

def execIabs (f : ArithF) (s : State) : Out :=
  aluInt (.iabs f) f .plain [] (src1 f) (fun x l => ((intA f x l).natAbs : Int)) s

def execIneg (f : ArithF) (s : State) : Out := aluInt (.ineg f) f .plain [] (src1 f) (fun x l => -(intA f x l)) s

def execIsad (f : ArithF) (s : State) : Out :=
  aluInt (.isad f) f .plain [] (src3 f) (fun x l => ((intA f x l - intB f x l).natAbs : Int) + intC f x l) s

/-- Part j of width w of a word, signed or not. -/
def dotPart (sg : Bool) (w v j : Nat) : Int :=
  if sg then signedOf (bitsOf v (w * j) w) w else (bitsOf v (w * j) w : Int)

/-- c plus the products of n parts of width w (R330). -/
def dotInt (as bs : Bool) (n w a b c : Nat) : Int :=
  (List.range n).foldl (fun t j => t + dotPart as w a j * dotPart bs w b j) (c : Int)

def execIdp4 (as bs : Bool) (f : ArithF) (s : State) : Out :=
  aluInt (.idp4 as bs f) f .plain [] (src3 f) (fun x l => dotInt as bs 4 8 (bitsA f x l) (bitsB f x l) (bitsC f x l)) s

def execIdp2 (as bs : Bool) (f : ArithF) (s : State) : Out :=
  aluInt (.idp2 as bs f) f .plain [] (src3 f) (fun x l => dotInt as bs 2 16 (bitsA f x l) (bitsB f x l) (bitsC f x l)) s

def icondHolds (c : ICond) (a b : Int) : Bool :=
  match c with
  | .eq => decide (a = b)
  | .ne => decide (a ≠ b)
  | .lt => decide (a < b)
  | .le => decide (a ≤ b)
  | .gt => decide (b < a)
  | .ge => decide (b ≤ a)

def execIcmp (c : ICond) (f : ArithF) (s : State) : Out :=
  aluPure (.icmp c f) f.h .pred {}
    (fun x l => b2n (icondHolds c (intA f x l) (intB f x l) && predBit x f.h.sc l)) s

def execIclamp (f : ArithF) (s : State) : Out :=
  aluInt (.iclamp f) f .plain [] (src3 f) (fun x l => min (max (intA f x l) (intB f x l)) (intC f x l)) s

/-! ## Logic (R334, R336) -/

/-- A bitwise instruction. -/
def aluBits (i : Instr) (f : ArithF) (rule : ShapeRule) (srcs : List Src) (r : Rd → Nat → Nat) (s : State) : Out :=
  aluPure i f.h (.reg (tyWords f.ty) rule) { srcs := srcs } (fun x l => r x l % 2 ^ tyWidth f.ty) s

/-- All bits of the width inverted. -/
def invert (w a : Nat) : Nat := 2 ^ w - 1 - a % 2 ^ w

def execAnd (f : ArithF) (s : State) : Out :=
  aluBits (.and f) f .plain (src2 f) (fun x l => bitsA f x l &&& bitsB f x l) s

def execOr (f : ArithF) (s : State) : Out :=
  aluBits (.or f) f .plain (src2 f) (fun x l => bitsA f x l ||| bitsB f x l) s

def execXor (f : ArithF) (s : State) : Out :=
  aluBits (.xor f) f .plain (src2 f) (fun x l => bitsA f x l ^^^ bitsB f x l) s

def execNot (f : ArithF) (s : State) : Out :=
  aluBits (.not f) f .plain (src1 f) (fun x l => invert (tyWidth f.ty) (bitsA f x l)) s

def execAndn (f : ArithF) (s : State) : Out :=
  aluBits (.andn f) f .plain (src2 f) (fun x l => bitsA f x l &&& invert (tyWidth f.ty) (bitsB f x l)) s

/-- Bit i is bit a_i + 2 b_i + 4 c_i of the function code. -/
def bfn3Val (w fn a b c : Nat) : Nat :=
  (List.range w).foldl (fun t i =>
    t + b2n (bitOf fn (b2n (bitOf a i) + 2 * b2n (bitOf b i) + 4 * b2n (bitOf c i))) * 2 ^ i) 0

def execBfn3 (f : ArithF) (s : State) : Out :=
  aluBits (.bfn3 f) f .plain (src3 f)
    (fun x l => bfn3Val (tyWidth f.ty) f.hi.toNat (bitsA f x l) (bitsB f x l) (bitsC f x l)) s

/-! ## Shifts (R335) -/

def shiftSrc (f : ArithF) : List Src := [⟨f.h.sa, tyWords f.ty⟩, ⟨f.h.sb, 1⟩]

def shlVal (w a n : Nat) : Nat := if w ≤ n then 0 else a * 2 ^ n % 2 ^ w
def shrVal (w a n : Nat) : Nat := if w ≤ n then 0 else a / 2 ^ n
def sraVal (w a n : Nat) : Nat := natOfInt (signedOf a w / ((2 ^ min n w : Nat) : Int)) w
def rotlVal (w a n : Nat) : Nat := (a * 2 ^ (n % w) + a / 2 ^ (w - n % w)) % 2 ^ w

def execShl (f : ArithF) (s : State) : Out :=
  aluBits (.shl f) f (affineRule f .affShl) (shiftSrc f) (fun x l => shlVal (tyWidth f.ty) (bitsA f x l) (cntB f x l)) s

def execShr (f : ArithF) (s : State) : Out :=
  aluBits (.shr f) f .plain (shiftSrc f) (fun x l => shrVal (tyWidth f.ty) (bitsA f x l) (cntB f x l)) s

def execSra (f : ArithF) (s : State) : Out :=
  aluBits (.sra f) f .plain (shiftSrc f) (fun x l => sraVal (tyWidth f.ty) (bitsA f x l) (cntB f x l)) s

def execRot (right : Bool) (f : ArithF) (s : State) : Out :=
  aluBits (.rot right f) f .plain (shiftSrc f) (fun x l =>
    let w := tyWidth f.ty
    rotlVal w (bitsA f x l) (if right then w - cntB f x l % w else cntB f x l)) s

/-- The funnel shift: a is the low word. -/
def shfVal (left : Bool) (a b n : Nat) : Nat :=
  let v := a + b * 2 ^ 32
  if left then v * 2 ^ (n % 32) / 2 ^ 32 % 2 ^ 32 else v / 2 ^ (n % 32) % 2 ^ 32

def execShf (left : Bool) (f : ArithF) (s : State) : Out :=
  aluBits (.shf left f) f .plain (src2 f ++ [⟨f.h.sc, 1⟩])
    (fun x l => shfVal left (bitsA f x l) (bitsB f x l) (cntC f x l)) s

/-! ## Bit fields (R336) -/

/-- A field of `a`, extended without bound, then from its top bit. -/
def bfxVal (sg : Bool) (w a f : Nat) : Nat :=
  let pos := bitsOf f 0 8
  let len := bitsOf f 8 8
  let v : Int := if sg then signedOf a w else (a : Int)
  if len = 0 then 0
  else
    let x := natOfInt (v / ((2 ^ pos : Nat) : Int)) len
    if sg then natOfInt (signedOf x len) w else x % 2 ^ w

def execBfx (f : ArithF) (s : State) : Out :=
  aluBits (.bfx f) f .plain (shiftSrc f)
    (fun x l => bfxVal (tySigned f.ty) (tyWidth f.ty) (bitsA f x l) (cntB f x l)) s

def bfiVal (w a b f : Nat) : Nat :=
  let pos := bitsOf f 0 8
  let len := bitsOf f 8 8
  if w ≤ pos ∨ len = 0 then a
  else
    let hi := min (pos + len) w
    a % 2 ^ pos + b % 2 ^ (hi - pos) * 2 ^ pos + a / 2 ^ hi * 2 ^ hi

def execBfi (f : ArithF) (s : State) : Out :=
  aluBits (.bfi f) f .plain (src2 f ++ [⟨f.h.sc, 1⟩])
    (fun x l => bfiVal (tyWidth f.ty) (bitsA f x l) (bitsB f x l) (cntC f x l)) s

/-- A count of bits: a 32-bit result of a source in the operation type. -/
def aluCount (i : Instr) (f : ArithF) (r : Nat → Nat → Nat) (s : State) : Out :=
  aluPure i f.h (.reg 1 .plain) { srcs := src1 f } (fun x l => r (tyWidth f.ty) (bitsA f x l)) s

def popcVal (w a : Nat) : Nat := bitCount a w
def clzVal (w a : Nat) : Nat := if a = 0 then w else w - 1 - a.log2
def ctzVal (w a : Nat) : Nat := ((List.range w).find? (fun i => bitOf a i)).getD w

def execPopc (f : ArithF) (s : State) : Out := aluCount (.popc f) f popcVal s
def execClz (f : ArithF) (s : State) : Out := aluCount (.clz f) f clzVal s
def execCtz (f : ArithF) (s : State) : Out := aluCount (.ctz f) f ctzVal s

def brevVal (w a : Nat) : Nat := (List.range w).foldl (fun t i => t + b2n (bitOf a (w - 1 - i)) * 2 ^ i) 0

def execBrev (f : ArithF) (s : State) : Out :=
  aluBits (.brev f) f .plain (src1 f) (fun x l => brevVal (tyWidth f.ty) (bitsA f x l)) s

/-- Byte j is byte c[4j + 2 : 4j] of the eight bytes of b and a, or copies of its top bit. -/
def bpermVal (a b c : Nat) : Nat :=
  (List.range 4).foldl (fun t j =>
    let x := bitsOf (a + b * 2 ^ 32) (8 * bitsOf c (4 * j) 3) 8
    t + (if bitOf c (4 * j + 3) then (if bitOf x 7 then 255 else 0) else x) * 2 ^ (8 * j)) 0

def execBperm (f : ArithF) (s : State) : Out :=
  aluBits (.bperm f) f .plain (src2 f ++ [⟨f.h.sc, 1⟩])
    (fun x l => bpermVal (bitsA f x l) (bitsB f x l) (cntC f x l)) s

/-! ## Predicates (R334, R337) -/

def pandVal (op : PandOp) (a b : Bool) : Bool :=
  match op with
  | .and => a && b
  | .or => a || b
  | .xor => a != b
  | .andn => a && !b

def execPand (op : PandOp) (f : ArithF) (s : State) : Out :=
  aluPure (.pand op f) f.h .pred {} (fun x l => b2n (pandVal op (predBit x f.h.sa l) (predBit x f.h.sb l))) s

def execPmov (f : ArithF) (s : State) : Out :=
  aluPure (.pmov f) f.h .pred {} (fun x l => b2n (predBit x f.h.sa l)) s

def execPmovMask (f : ArithF) (s : State) : Out :=
  aluPure (.pmovMask f) f.h (.reg 1 .plain) { preds := [f.h.sa] } (fun x _ => (predMask x f.h.sa).toNat) s

def execPmovBit (f : ArithF) (s : State) : Out :=
  aluPure (.pmovBit f) f.h .pred {} (fun x l => b2n (bitOf (bitsA f x l) l)) s

def execPmovNz (f : ArithF) (s : State) : Out :=
  aluPure (.pmovNz f) f.h .pred {} (fun x l => b2n (bitsA f x l != 0)) s

end Sys2Proof.Machine
end

