-- ==== Sys2Proof/Machine/LaneOps.lean ====
section
/-! DEFINITION. Cross-lane instructions (R260, R353-R359). E is the entry mask, lane 0 alone in handler mode. -/

namespace Sys2Proof.Machine

/-- The lanes in E. -/
def laneSet (f : ArithF) (x : Rd) : List Nat := maskLanes (workMask x f.h.g)

/-- A source lane of `shfl`; none outside 0-31 (R355). -/
def shflSource (m : ShflMode) (l b : Nat) : Option Nat :=
  match m with
  | .sfrom => some (b % 32)
  | .back => if b ≤ l then some (l - b) else none
  | .fwd => if l + b < 32 then some (l + b) else none
  | .swap => some (l ^^^ (b % 32))
  | .rot => some ((l + b) % 32)

def shflVal (m : ShflMode) (f : ArithF) (x : Rd) (l : Nat) : Nat :=
  match shflSource m l (cntB f x l) with
  | some j => if (workMask x f.h.g).getLsbD j then bitsA f x j else bitsA f x l
  | none => bitsA f x l

def execShfl (m : ShflMode) (f : ArithF) (s : State) : Out :=
  aluPure (.shfl m f) f.h (.reg (tyWords f.ty) .plain) { srcs := [⟨f.h.sa, tyWords f.ty⟩, ⟨f.h.sb, 1⟩] }
    (shflVal m f) s

def voteVal (op : VoteOp) (l : List Bool) : Bool :=
  match op with
  | .and => l.all (fun b => b)
  | .or => l.any (fun b => b)
  | .same => l.all (fun b => b) || l.all (fun b => !b)

def execVote (op : VoteOp) (f : ArithF) (s : State) : Out :=
  aluPure (.vote op f) f.h .pred {}
    (fun x _ => b2n (voteVal op ((laneSet f x).map (predBit x f.h.sa)))) s

def execVoteBits (f : ArithF) (s : State) : Out :=
  aluPure (.voteBits f) f.h (.reg 1 .plain) { preds := [f.h.sa] }
    (fun x _ => (predMask x f.h.sa &&& workMask x f.h.g).toNat) s

/-- `match` (R357). -/
def execMatchLanes (f : ArithF) (s : State) : Out :=
  aluPure (.matchLanes f) f.h (.reg 1 .general) { srcs := src1 f }
    (fun x l => (maskOf (fun j => (workMask x f.h.g).getLsbD j && bitsA f x j == bitsA f x l)).toNat) s

/-- An integer reduction. -/
def reduceList (op : ReduxOp) (t : Ty) (l : List Nat) : Nat :=
  match op with
  | .add => natOfInt (l.foldl (fun a v => a + intIn t v) 0) 32
  | .and => l.foldl (fun a v => a &&& v) (2 ^ 32 - 1)
  | .or => l.foldl (fun a v => a ||| v) 0
  | .xor => l.foldl (fun a v => a ^^^ v) 0
  | .min => match l with
    | [] => 0
    | v :: r => natOfInt (r.foldl (fun a y => min a (intIn t y)) (intIn t v)) 32
  | .max => match l with
    | [] => 0
    | v :: r => natOfInt (r.foldl (fun a y => max a (intIn t y)) (intIn t v)) 32

/-- The exact sum over E, rounded once; RS takes the element index of the lowest lane (R289, R358). -/
def reduxAdd (f : ArithF) (x : Rd) : Nat × Exc :=
  let ls := laneSet f x
  roundOp .fp32 (modeOf f x (ls.headD 0) 0) (sumVal f.rnd (ls.map (fun l => valA f x l 0)))

/-- The least or greatest over E; NaN only when every lane is NaN (R341, R358). -/
def reduxMinMax (mx : Bool) (f : ArithF) (x : Rd) : Nat × Exc :=
  let cs := (laneSet f x).map (fun l => codeA f x l 0)
  let exc := excIv (cs.any (fun c => valSig (valOf .fp32 c)))
  match cs.filter (fun c => !valIsNan (valOf .fp32 c)) with
  | [] => (fmtNan .fp32, exc)
  | c :: r => (r.foldl (fun a y => (minMaxCode .fp32 mx false a y).1) c, exc)

def reduxVal (op : ReduxOp) (f : ArithF) (x : Rd) : Nat × Exc :=
  if f.ty = .f32 then
    match op with
    | .add => reduxAdd f x
    | .max => reduxMinMax true f x
    | _ => reduxMinMax false f x
  else (reduceList op f.ty ((laneSet f x).map (bitsA f x)), excNone)

def execRedux (op : ReduxOp) (f : ArithF) (s : State) : Out :=
  aluExc (.redux op f) f.h (.reg 1 .plain) { srcs := src1 f } (fun x _ => reduxVal op f x) s

/-- The inclusive reduction up to lane l; `addx` leaves lane l out (R358). -/
def scanVal (op : ScanOp) (f : ArithF) (x : Rd) (l : Nat) : Nat :=
  let upTo := ((laneSet f x).filter (fun j => decide (j ≤ l))).map (bitsA f x)
  let below := ((laneSet f x).filter (fun j => decide (j < l))).map (bitsA f x)
  match op with
  | .add => reduceList .add f.ty upTo
  | .addx => reduceList .add f.ty below
  | .min => reduceList .min f.ty upTo
  | .max => reduceList .max f.ty upTo
  | .or => reduceList .or f.ty upTo
  | .xor => reduceList .xor f.ty upTo

def execScan (op : ScanOp) (f : ArithF) (s : State) : Out :=
  aluPure (.scan op f) f.h (.reg 1 .general) { srcs := src1 f } (scanVal op f) s

def execElect (f : ArithF) (s : State) : Out :=
  aluPure (.elect f) f.h .pred {} (fun x l => b2n ((laneSet f x).head? == some l)) s

def lmaskVal (op : LmaskOp) (l : Nat) : Nat :=
  (maskOf (fun j => match op with
    | .lo => decide (j < l)
    | .loeq => decide (j ≤ l)
    | .hi => decide (l < j)
    | .hieq => decide (l ≤ j)
    | .self => j == l)).toNat

def execLmask (op : LmaskOp) (f : ArithF) (s : State) : Out :=
  aluPure (.lmask op f) f.h (.reg 1 .general) {} (fun _ l => lmaskVal op l) s

/-! ## One named lane (R260, R359) -/

/-- Lane b of a register or predicate; in handler mode of the interrupted one. -/
def laneRead (x : Rd) (o : Opnd) (b : Nat) : Nat :=
  match o with
  | .v n => (regLane (Tab.get (.u 0) x.w.regs n.toNat) b).toNat
  | .p n => if n = 31 then 1 else b2n ((Tab.get 0 x.w.preds n.toNat).getLsbD b)
  | _ => 0

/-- Lane b of a register, which takes shape G (U on a general core), or of a predicate. -/
def laneWrite (w : Wave) (o : Opnd) (b v : Nat) : Wave :=
  match o with
  | .v n =>
    let old := Tab.get (.u 0) w.regs n.toNat
    let new := if w.general then Reg.u (BitVec.ofNat 32 v) else shapedReg .g old (laneBit b) (fun _ => v)
    { w with regs := Tab.set (.u 0) w.regs n.toNat new }
  | .p n =>
    let old := Tab.get 0 w.preds n.toNat
    { w with preds := Tab.set 0 w.preds n.toNat ((old &&& ~~~laneBit b) ||| (if v = 0 then 0 else laneBit b)) }
  | _ => w

/-- The lane that `lget` and `lput` name: a uniform value. -/
def laneIndex (f : ArithF) (x : Rd) : Nat := opnd x .n32 f.hi f.h.sb 0

def execLget (f : ArithF) (s : State) : Out :=
  gate (.lget f) s (fun id w p =>
    let x : Rd := ⟨s, w, p⟩
    let b := laneIndex f x
    let e := workMask x f.h.g
    if e = 0 then .next (retireEmpty (.lget f) s id w)
    else if 32 ≤ b then .next (trapNow s cIllegalOpnd 4 (entryMask w p f.h.g) e 0)
    else .next (retire s id
      (aluWrite x f.h (.reg 1 .plain) { preds := [f.h.sa], srcs := [⟨f.h.sa, 1⟩] } (fun _ => laneRead x f.h.sa b))))

def execLput (f : ArithF) (s : State) : Out :=
  gate (.lput f) s (fun id w p =>
    let x : Rd := ⟨s, w, p⟩
    let b := laneIndex f x
    let e := workMask x f.h.g
    if e = 0 then .next (retireEmpty (.lput f) s id w)
    else if 32 ≤ b then .next (trapNow s cIllegalOpnd 4 (entryMask w p f.h.g) e 0)
    else if w.handler.isSome ∨ e.getLsbD b then
      .next (retire s id (laneWrite w f.h.dst b (opnd x .b32 f.hi f.h.sa 0)))
    else .next (retire s id w))

end Sys2Proof.Machine
end

