-- ==== Sys2Proof/Machine/Ptime.lean ====
section
/-! DEFINITION. Package-time stamps and the source of package time (R24-R27). -/

namespace Sys2Proof.Machine

/-- The node that is the source of package time. -/
def timeSource (s : State) : Nat := 48 + s.mods.source

def clampInt (x lo hi : Int) : Int := max lo (min x hi)

/-- A node receives a stamp of value `v` (R25, R26): the offset is taken, and the copy slews toward it. -/
def takeStamp (n : NodeSt) (v : Int) (now : Nat) : NodeSt :=
  let off : Int := (n.ptime : Int) - v
  let near := decide (off.natAbs ≤ 20)
  { n with offset := clampInt off (-32767) 32767, slew := -off, out := !near, lost := n.lost && !near, missRun := 0,
           stampAt := now }

/-- PTIME_STAMP: `delay` is what the correction for the link delay leaves over (R25). -/
def execPtimeStamp (node : Nat) (delay : Int) (s : State) : Out :=
  if 50 ≤ node ∨ node = timeSource s ∨ !timeStarted s ∨ nodeLost s node ∨ nodeLost s (timeSource s) then .next s
  else .next (modNode s node (fun n => takeStamp n ((nodeTime s (timeSource s) : Int) + delay) s.time))

/-- PTIME_STAMP_MISSED: a stamp is due each microsecond; after 8 missed in a row the node's leases are lost (R25, R26,
R116). -/
def execPtimeStampMissed (node : Nat) (s : State) : Out :=
  let n := getNode s node
  if 50 ≤ node ∨ node = timeSource s ∨ !timeStarted s ∨ nodeLost s node ∨ s.time < n.stampAt + 1000 then .next s
  else
    let s1 := setNode s node { n with miss := satInc 8 n.miss 1, missRun := n.missRun + 1, stampAt := n.stampAt + 1000,
                                      lost := n.lost || decide (8 ≤ n.missRun + 1) }
    .next (if n.missRun + 1 = 8 then loseHeld s1 node else s1)

/-- PTIME_SOURCE_TAKEOVER: after 10 us without stamps, or when hub 0 enters service, hub 1 becomes the source (R27). -/
def execPtimeSourceTakeover (s : State) : Out :=
  if s.mods.source = 0 ∧ !nodeLost s 49 ∧ (10 ≤ (getNode s 49).missRun ∨ (getNode s 48).svc != .active) then
    .next (modNode (modMods s (fun m => { m with source := 1 })) 49 (fun n => { n with slew := 0 }))
  else .next s

end Sys2Proof.Machine
end

