-- ==== Sys2Proof/Machine/SysOps.lean ====
section
/-! DEFINITION. System instructions (R429-R439). -/

namespace Sys2Proof.Machine

/-! ## Capabilities and control registers (R430-R432) -/

def execCapr (f : GenF) (s : State) : Out :=
  gate (.capr f) s (fun id w p =>
    let x : Rd := ⟨s, w, p⟩
    let sh := resultShape x f.h.g .plain [] [⟨f.h.sa, 1⟩]
    .next (retire s id (writeDst w f.h.dst 4 sh (workMask x f.h.g) (fun l => capEntry s (opnd32 x f.h.sa l)))))

/-- An operand that names a number: a fed immediate counts with all its 64 bits (R431). -/
def numOpnd (x : Rd) (o : Opnd) : Nat :=
  match o with
  | .fed => opnd64 x o 0
  | _ => opnd32 x o 0

/-- The value of a register as `ctlr` finds it: that of the context, or of the wave (R431). -/
def ctlReadFor (s : State) (w : Wave) (n : Nat) : State × Nat :=
  if 0x100 ≤ n then (s, coreTrapReg w (n - 0x100)) else ctlRead s w.asid n

def execCtlr (f : GenF) (s : State) : Out :=
  onceGate (.ctlr f) f.h.g s (fun id w p =>
    let n := numOpnd ⟨s, w, p⟩ f.h.sa
    if ctlKind n = .none_ then allTrap s id p f.h.g cIllegalOpnd 4
    else
      let r := ctlReadFor s w n
      genResult r.1 id p f 2 [⟨f.h.sa, 1⟩] r.2)

/-- `ctlw` waits as a release at `pkg` scope waits, retires, and then the register takes the value: a command may act on
the issuer itself (R432). -/
def execCtlw (f : GenF) (s : State) : Out :=
  onceGate (.ctlw f) f.h.g s (fun id w p =>
    let x : Rd := ⟨s, w, p⟩
    let n := numOpnd x f.h.sa
    if ctlKind n = .none_ then allTrap s id p f.h.g cIllegalOpnd 4
    else if !ctlWritable n (w.general && w.sup) then allTrap s id p f.h.g cIllegalOpnd 2
    else if releaseWaits s id .pkg then opWait s id
    else ctlWrite (retire s id w) w.asid n (BitVec.ofNat 64 (opndWide x 2 f.h.sb 0)))

/-! ## tret (R261, R278, R433) -/

/-- The return from a trap in a mode: 0 `.re`, 1 `.skipf`, 2 `.skip`. -/
def tretOp (i : Instr) (mode : Nat) (s : State) : Out :=
  gate i s (fun id w p =>
    let w1 := countRetired w (retireCount p)
    if w.general then
      match w.trapped with
      | some t => .next (setWave s id (leaveSupervisor w1 t mode))
      | none => .next s
    else match w.handler with
      | some h => .next (setWave { s with watches := s.watches.filter (fun x => x.wave != id) } id (leaveHandler w1 h mode))
      | none => .next s)

def execTretRe (f : GenF) (s : State) : Out := tretOp (.tretRe f) 0 s
def execTretSkipf (f : GenF) (s : State) : Out := tretOp (.tretSkipf f) 1 s
def execTretSkip (f : GenF) (s : State) : Out := tretOp (.tretSkip f) 2 s

/-! ## atinv (R119, R120, R434) -/

/-- The range that base, k and ASID name; none when R434 refuses them. -/
def atinvRange (a : DWord) (k asid : Nat) : Option Range :=
  if k < 16 ∨ 53 < k ∨ a.toNat % 2 ^ k ≠ 0 ∨ 16384 ≤ asid ∨ !canonical a ∨ (a.getLsbD 53 != (asid == 0)) then none
  else some { lo := va54 a, hi := va54 a + 2 ^ k }

def atinvOp (i : Instr) (force : Bool) (f : GenF) (s : State) : Out :=
  onceGate i f.h.g s (fun id w p =>
    let x : Rd := ⟨s, w, p⟩
    let asid := numOpnd x f.h.sc
    match atinvRange (BitVec.ofNat 64 (opndWide x 2 f.h.sa 0)) (numOpnd x f.h.sb) asid with
    | none => allTrap s id p f.h.g cIllegalOpnd 4
    | some r =>
      if !w.pend.isEmpty then opWait s id
      else
        let t := atinvStep s { who := .wave id, asid := asid, range := r, force := force }
        if t.2 then retire t.1 id (getWave t.1 id) else opWait t.1 id)

def execAtinv (f : GenF) (s : State) : Out := atinvOp (.atinv f) false f s
def execAtinvForce (f : GenF) (s : State) : Out := atinvOp (.atinvForce f) true f s

/-! ## lsave, lrest (R265, R435, R436) -/

/-- The interrupted state: of a thread, the registers as they stand, at its trapped instruction. -/
def interrupted (w : Wave) : Wave :=
  match w.general, w.trapped with
  | true, some t => { w with slot0 := some { pc := t.pc, mask := 1 }, slot1 := none, queue := [] }
  | _, _ => w

/-- The frame of `lsave` and `lrest`: A is a multiple of 64. -/
def areaGate (i : Instr) (f : GenF) (s : State) (k : Nat → Wave → Path → DWord → State) : Out :=
  onceGate i f.h.g s (fun id w p =>
    let va : DWord := BitVec.ofNat 64 (opndWide ⟨s, w, p⟩ 2 f.h.sa 0)
    if va.toNat % 64 ≠ 0 then allTrap s id p f.h.g cIllegalOpnd 4 else k id w p va)

/-- An access check of n bytes in lane 0, then `k`. -/
def areaCheck (s : State) (id : Nat) (p : Path) (kind : LKind) (va : DWord) (n : Nat) (k : State → State) : State :=
  let r := checkGlobal s id (getWave s id) p 1 kind false n [(0, va)]
  match r.2 with
  | .ok => k r.1
  | .wait => r.1
  | .trap t => takeTrap r.1 id t

def execLsave (f : GenF) (s : State) : Out :=
  areaGate (.lsave f) f s (fun id w p va =>
    let l := waveArea (interrupted w)
    if !w.badRegs.isEmpty then allTrap s id p f.h.g cEcc 3
    else areaCheck s id p .write va l.length (fun t =>
      genResult (storeLane t id (storeAt (getWave t id) (0, va)) l .plain) id p f 1 [] l.length))

/-- The largest save area: 256 general registers, 30 queued paths and a handler bank. -/
def areaMax : Nat := 34008

/-- Bytes read by plain loads, once they are all here. -/
def areaRead (s : State) (id : Nat) (p : Path) (va : DWord) (n : Nat) (k : State → List Byte → State) : State :=
  areaCheck s id p .read va n (fun t =>
    let w := getWave t id
    let r := readLines id { plain := true, lv := .l1 } (needMap w.asid n [(0, va)]) t
    match r.2 with
    | none => r.1
    | some lines =>
      endOrTrap r.1 id p 1 (homeFaults (getWave r.1 id).op.errs w.asid n [(0, va)])
        (fun _ => k r.1 (bytesOfNat n (lineValue w.asid lines va n))))

/-- The wave with its interrupted state replaced by an area; none when the area is refused. -/
def restoreArea (w : Wave) (l : List Byte) : Option Wave :=
  match areaWave (interrupted w) l with
  | none => none
  | some x =>
    if w.general then
      some { x with slot0 := w.slot0, slot1 := w.slot1, queue := w.queue, mon := w.mon.map (fun m => { m with fired := some 1 }),
                    trapped := w.trapped.map (fun t => { t with pc := ((x.slot0.map (·.pc)).getD t.pc), restored := true }) }
    else
      some { x with mon := w.mon, op := w.op, handler := w.handler.map (fun h => { h with restored := true, mon0 := x.mon }) }

def execLrest (f : GenF) (s : State) : Out :=
  areaGate (.lrest f) f s (fun id _w p va =>
    areaRead s id p va 64 (fun t head =>
      let n := fieldAt head 4 4
      if n < 64 ∨ areaMax < n then allTrap t id p f.h.g cIllegalOpnd 4
      else areaRead t id p va n (fun u l =>
        match restoreArea (getWave u id) l with
        | none => allTrap u id p f.h.g cIllegalOpnd 4
        | some x => retire u id x)))

/-! ## whalt (R274, R275, R437) -/

/-- A hold is possible: debugging is allowed and the pool has a free slot. -/
def holdPossible (s : State) (w : Wave) : Bool :=
  let c := getCtx s w.asid
  debugOpen s && (freeRun c.poolUsed (poolSlots c) 1).isSome

/-- The instruction retires with its bit in pd. -/
def holdAnswer (s : State) (id : Nat) (p : Path) (f : GenF) (b : Bool) : State :=
  let w := getWave s id
  retire s id (writePredDst w f.h.dst (entryMask w p f.h.g) (if b then BitVec.allOnes 32 else 0))

/-- A wave stands at its boundary and is held alone, in a run of its own (R275). When its image cannot be written, its
workgroup ends. -/
def holdWave (s0 : State) (id : Nat) : State :=
  let s := withdrawTokens { s0 with watches := s0.watches.filter (fun x => x.wave != id) } id
  let w := getWave s id
  let scratch := (scrAlloc s w).2
  let r := poolWrite s w.asid (imageBytes true scratch [(w.num, waveArea w)] (fun _ => {}) (fun _ => true) [] [])
  match r.2 with
  | none => (match w.wg with
    | some k => endGroup (((getWg r.1 k).map (fun g => drainGroup r.1 g)).getD r.1) k
    | none => endWave r.1 id)
  | some (a, n) =>
    let t : TrapInfo := { cause := 0, sub := 0, pc := boundaryPc w, fmask := 0, pmask := maskAct w, addr := 0 }
    let s1 := (postFault r.1 { trapRecord r.1 w t 6 with save := slotVa (getCtx r.1 w.asid) a } none).1
    setWave s1 id { w with run := .held a n, mon := none }

def execWhalt (f : GenF) (s : State) : Out :=
  onceGate (.whalt f) f.h.g s (fun id w p =>
    if holdPossible s w then holdWave (holdAnswer s id p f true) id else holdAnswer s id p f false)

/-- The workgroup stops by the broadcast of R264, to be held; the issuer stands at its boundary at once. -/
def holdByWave (s : State) (id k : Nat) (g : Workgroup) : State :=
  stopProgress (modWave (setWg s k { g with st := .halting 0 0 true }) id (fun w => { w with run := .stopped 0 })) k

def execWhaltGroup (f : GenF) (s : State) : Out :=
  onceGate (.whaltGroup f) f.h.g s (fun id w p =>
    if !holdPossible s w then holdAnswer s id p f false
    else match w.wg.bind (fun k => (getWg s k).map (fun g => (k, g))) with
      | none => holdWave (holdAnswer s id p f true) id
      | some (k, g) => match g.st with
        | .halting _ _ hold => holdAnswer s id p f hold
        | _ => holdByWave (holdAnswer s id p f true) id k g)

/-! ## csleep (R438) -/

/-- `csleep` returns with a code; the monitor stays armed. -/
def csleepReturn (s : State) (id : Nat) (p : Path) (f : GenF) (code : Nat) : State :=
  genResult s id p f 1 [⟨f.h.sa, 1⟩] code

def execCsleep (f : GenF) (s : State) : Out :=
  onceGate (.csleep f) f.h.g s (fun id w p =>
    match w.mon.bind (·.fired) with
    | some c => csleepReturn s id p f c
    | none => blockPath s id (.csleep f (deadline s w (opnd32 ⟨s, w, p⟩ f.h.sa 0))))

/-- CSLEEP_WAKE (R438). -/
def execCsleepWake (w slot code : Nat) (s : State) : Out :=
  match blockedAt s w slot with
  | some (p, .csleep f dl) =>
    let x := getWave s w
    if 4 < code ∨ !mwaitDue s x dl code ∨ (code = 4 ∧ x.mon.isNone) then .next s
    else
      let s1 := if code = 4 then modWave s w (fun x => { x with spur := some (getNode s x.node).ccyc }) else s
      .next (wakePath s1 w slot p (fun t q => csleepReturn t w q f code))
  | _ => .next s

/-! ## keydrop (R140, R439) -/

/-- The issuer's own slot: the wave waits as a release at `sys` scope, sends the destruction, and waits for its end. -/
def keydropOwn (s : State) (id : Nat) (w : Wave) (p : Path) (f : GenF) : State :=
  let slot := waveSlot s w
  if slot = 0 then allTrap s id p f.h.g cIllegalOpnd 4
  else if releaseWaits s id .sys then opWait s id
  else opWait (startKeyDestroy s slot (waveAgent s w)) id

/-- A slot named in supervisor mode; the generation under destruction is kept with the instruction. -/
def keydropSlot (s : State) (id : Nat) (w : Wave) (p : Path) (f : GenF) (slot : Nat) : State :=
  let k := getKey s slot
  if slot = 0 ∨ 1024 ≤ slot then allTrap s id p f.h.g cIllegalOpnd 4
  else match Tab.find w.op.vals 0 with
    | some gen => if k.alloc ∧ k.gen = gen then s else genResult s id p f 1 [⟨f.h.sa, 1⟩] 0
    | none =>
      if !k.alloc then genResult s id p f 1 [⟨f.h.sa, 1⟩] 1
      else modOp (opWait (startKeyDestroy s slot (waveAgent s w)) id) id (fun o => { o with vals := [(0, k.gen)] })

def execKeydrop (f : GenF) (s : State) : Out :=
  onceGate (.keydrop f) f.h.g s (fun id w p =>
    match f.h.sa with
    | .null => keydropOwn s id w p f
    | o => keydropSlot s id w p f (numOpnd ⟨s, w, p⟩ o))

end Sys2Proof.Machine
end

