-- ==== Sys2Proof/Machine/WaveEv.lean ====
section
/-! DEFINITION. Events of waves that wait or are stopped: the group halt, an empty line that fills, a transaction
barrier that completes (R228, R232, R263, R264, R395). -/

namespace Sys2Proof.Machine

/-- A stopping workgroup's wave stands at its boundary (R264). -/
def haltWave (s : State) (w k : Nat) : State :=
  modWave (rewind s w) w (fun x => { x with run := .stopped k, blockedAt := none })

/-- A sibling receives the halt, or reaches the boundary at which it stops (R264). A blocked sibling stops at its
blocking instruction, one in handler mode at the boundary where it stands (R262). -/
def groupHalt (s : State) (w : Nat) (stop : Bool) : State :=
  let x := getWave s w
  match x.wg with
  | none => s
  | some k => match getWg s k with
    | none => s
    | some g =>
      if !waveExists s w ∨ waveEnded x then s
      else match g.st, x.run with
        | .halting _ _ _, .run =>
          if stop ∨ waveBlocked x ∨ x.handler.isSome then stopProgress (haltWave s w 0) k
          else setWave s w { x with run := .halting s.time 0 }
        | .halting _ _ _, .halting _ n => if stop then stopProgress (haltWave s w n) k else s
        | _, _ => s

/-- GROUP_HALT_ARRIVAL (R264). -/
def execGroupHaltArrival (w : Nat) (stop : Bool) (s : State) : Out := .next (groupHalt s w stop)

/-- The instruction that waits at the head of a wave, with the state in which it is tried again. -/
def headInstr (s : State) (id : Nat) : Option (State × Instr) :=
  if !waveRuns s id ∨ (getWave s id).op.id = 0 then none
  else match fetchDecode { s with cur := id } id with
    | (t, some i) => some (t, i)
    | (_, none) => none

/-- EMPTY_LINE_FILLED: a line is no longer empty; the first wave of the core that waits with a scratchpad access at
its head tries it again (R228). -/
def execEmptyLineFilled (core line : Nat) (s : State) : Out :=
  if (Tab.find (getCore s core).empty line).isSome then .next s
  else
    let scr := fun (i : Instr) => match i with
      | .lds _ _ | .atoms _ _ | .acass _ | .reds _ _ => true
      | _ => false
    match firstSome (fun (e : Nat × Wave) =>
        if waveCore e.2 ≠ core then none
        else match headInstr s e.1 with
          | some x => if scr x.2 then some x else none
          | none => none) s.waves with
    | none => .next s
    | some (t, i) => match i with
      | .lds sx f => execLds sx f t
      | .atoms op f => execAtoms op f t
      | .acass f => execAcass f t
      | .reds op f => execReds op f t
      | _ => .next s

/-- TBWAIT_RETURN: a wave that waits in `tbwait` looks at its barrier again (R395). -/
def execTbwaitReturn (w slot : Nat) (s : State) : Out :=
  if (getWave s w).cur ≠ slot then .next s
  else match headInstr s w with
    | some (t, .tbwait f) => execTbwait f t
    | _ => .next s

end Sys2Proof.Machine
end

