-- ==== Sys2Proof/Machine/Dispatch.lean ====
section
/-! DEFINITION. The meaning of every constructor of Instr, one arm each. -/

namespace Sys2Proof.Machine

open Sys2Proof

def exec (i : Instr) (s : State) : Host.Outcome State Fault Refusal :=
  match i with
  | .nop f => Sys2Proof.Machine.execNop f s
  | .mov f => Sys2Proof.Machine.execMov f s
  | .sel f => Sys2Proof.Machine.execSel f s
  | .lea k f => Sys2Proof.Machine.execLea k f s
  | .iadd f => Sys2Proof.Machine.execIadd f s
  | .isub f => Sys2Proof.Machine.execIsub f s
  | .iadd3 f => Sys2Proof.Machine.execIadd3 f s
  | .iaddx f => Sys2Proof.Machine.execIaddx f s
  | .iaddxCo f => Sys2Proof.Machine.execIaddxCo f s
  | .imul f => Sys2Proof.Machine.execImul f s
  | .imulh f => Sys2Proof.Machine.execImulh f s
  | .imad f => Sys2Proof.Machine.execImad f s
  | .imadw f => Sys2Proof.Machine.execImadw f s
  | .idiv f => Sys2Proof.Machine.execIdiv f s
  | .irem f => Sys2Proof.Machine.execIrem f s
  | .imin f => Sys2Proof.Machine.execImin f s
  | .imax f => Sys2Proof.Machine.execImax f s
  | .iabs f => Sys2Proof.Machine.execIabs f s
  | .ineg f => Sys2Proof.Machine.execIneg f s
  | .isad f => Sys2Proof.Machine.execIsad f s
  | .idp4 as bs f => Sys2Proof.Machine.execIdp4 as bs f s
  | .idp2 as bs f => Sys2Proof.Machine.execIdp2 as bs f s
  | .icmp c f => Sys2Proof.Machine.execIcmp c f s
  | .iclamp f => Sys2Proof.Machine.execIclamp f s
  | .and f => Sys2Proof.Machine.execAnd f s
  | .or f => Sys2Proof.Machine.execOr f s
  | .xor f => Sys2Proof.Machine.execXor f s
  | .not f => Sys2Proof.Machine.execNot f s
  | .andn f => Sys2Proof.Machine.execAndn f s
  | .bfn3 f => Sys2Proof.Machine.execBfn3 f s
  | .shl f => Sys2Proof.Machine.execShl f s
  | .shr f => Sys2Proof.Machine.execShr f s
  | .sra f => Sys2Proof.Machine.execSra f s
  | .rot right f => Sys2Proof.Machine.execRot right f s
  | .shf left f => Sys2Proof.Machine.execShf left f s
  | .bfx f => Sys2Proof.Machine.execBfx f s
  | .bfi f => Sys2Proof.Machine.execBfi f s
  | .popc f => Sys2Proof.Machine.execPopc f s
  | .clz f => Sys2Proof.Machine.execClz f s
  | .ctz f => Sys2Proof.Machine.execCtz f s
  | .brev f => Sys2Proof.Machine.execBrev f s
  | .bperm f => Sys2Proof.Machine.execBperm f s
  | .pand op f => Sys2Proof.Machine.execPand op f s
  | .pmov f => Sys2Proof.Machine.execPmov f s
  | .pmovMask f => Sys2Proof.Machine.execPmovMask f s
  | .pmovBit f => Sys2Proof.Machine.execPmovBit f s
  | .pmovNz f => Sys2Proof.Machine.execPmovNz f s
  | .fadd f => Sys2Proof.Machine.execFadd f s
  | .fsub f => Sys2Proof.Machine.execFsub f s
  | .fmul f => Sys2Proof.Machine.execFmul f s
  | .ffma f => Sys2Proof.Machine.execFfma f s
  | .fmin nan f => Sys2Proof.Machine.execFmin nan f s
  | .fmax nan f => Sys2Proof.Machine.execFmax nan f s
  | .fcmp c f => Sys2Proof.Machine.execFcmp c f s
  | .fclass f => Sys2Proof.Machine.execFclass f s
  | .fscale f => Sys2Proof.Machine.execFscale f s
  | .fexpo f => Sys2Proof.Machine.execFexpo f s
  | .ffract f => Sys2Proof.Machine.execFfract f s
  | .fround f => Sys2Proof.Machine.execFround f s
  | .fdiv f => Sys2Proof.Machine.execFdiv f s
  | .fsqrt f => Sys2Proof.Machine.execFsqrt f s
  | .frcp f => Sys2Proof.Machine.execFrcp f s
  | .frsq f => Sys2Proof.Machine.execFrsq f s
  | .fex2 f => Sys2Proof.Machine.execFex2 f s
  | .flg2 f => Sys2Proof.Machine.execFlg2 f s
  | .fsin f => Sys2Proof.Machine.execFsin f s
  | .fcos f => Sys2Proof.Machine.execFcos f s
  | .ftanh f => Sys2Proof.Machine.execFtanh f s
  | .hadd2 f => Sys2Proof.Machine.execHadd2 f s
  | .hmul2 f => Sys2Proof.Machine.execHmul2 f s
  | .hfma2 f => Sys2Proof.Machine.execHfma2 f s
  | .hmin2 nan f => Sys2Proof.Machine.execHmin2 nan f s
  | .hmax2 nan f => Sys2Proof.Machine.execHmax2 nan f s
  | .fdot2 f => Sys2Proof.Machine.execFdot2 f s
  | .fdot4 mix f => Sys2Proof.Machine.execFdot4 mix f s
  | .cvt f => Sys2Proof.Machine.execCvt f s
  | .cvtp k f => Sys2Proof.Machine.execCvtp k f s
  | .cvtx f => Sys2Proof.Machine.execCvtx f s
  | .mxamax f => Sys2Proof.Machine.execMxamax f s
  | .mxscale f => Sys2Proof.Machine.execMxscale f s
  | .mxq f => Sys2Proof.Machine.execMxq f s
  | .mxdq f => Sys2Proof.Machine.execMxdq f s
  | .shfl m f => Sys2Proof.Machine.execShfl m f s
  | .vote op f => Sys2Proof.Machine.execVote op f s
  | .voteBits f => Sys2Proof.Machine.execVoteBits f s
  | .matchLanes f => Sys2Proof.Machine.execMatchLanes f s
  | .redux op f => Sys2Proof.Machine.execRedux op f s
  | .scan op f => Sys2Proof.Machine.execScan op f s
  | .elect f => Sys2Proof.Machine.execElect f s
  | .lget f => Sys2Proof.Machine.execLget f s
  | .lput f => Sys2Proof.Machine.execLput f s
  | .lmask op f => Sys2Proof.Machine.execLmask op f s
  | .bra f => Sys2Proof.Machine.execBra f s
  | .braAbs f => Sys2Proof.Machine.execBraAbs f s
  | .brx f => Sys2Proof.Machine.execBrx f s
  | .call f => Sys2Proof.Machine.execCall f s
  | .callAbs f => Sys2Proof.Machine.execCallAbs f s
  | .callx f => Sys2Proof.Machine.execCallx f s
  | .ret f => Sys2Proof.Machine.execRet f s
  | .wsync f => Sys2Proof.Machine.execWsync f s
  | .yld f => Sys2Proof.Machine.execYld f s
  | .exit f => Sys2Proof.Machine.execExit f s
  | .trap f => Sys2Proof.Machine.execTrap f s
  | .brkpt f => Sys2Proof.Machine.execBrkpt f s
  | .pfx imm => Sys2Proof.Machine.execPfx imm s
  | .beat f => Sys2Proof.Machine.execBeat f s
  | .ld sx f => Sys2Proof.Machine.execLd sx f s
  | .st f => Sys2Proof.Machine.execSt f s
  | .lds sx f => Sys2Proof.Machine.execLds sx f s
  | .sts f => Sys2Proof.Machine.execSts f s
  | .ldc sx f => Sys2Proof.Machine.execLdc sx f s
  | .pref lvl f => Sys2Proof.Machine.execPref lvl f s
  | .stm f => Sys2Proof.Machine.execStm f s
  | .sete f => Sys2Proof.Machine.execSete f s
  | .setf f => Sys2Proof.Machine.execSetf f s
  | .ldfe f => Sys2Proof.Machine.execLdfe f s
  | .atom op f => Sys2Proof.Machine.execAtom op f s
  | .acas f => Sys2Proof.Machine.execAcas f s
  | .red op f => Sys2Proof.Machine.execRed op f s
  | .atoms op f => Sys2Proof.Machine.execAtoms op f s
  | .acass f => Sys2Proof.Machine.execAcass f s
  | .reds op f => Sys2Proof.Machine.execReds op f s
  | .fence f => Sys2Proof.Machine.execFence f s
  | .sinv f => Sys2Proof.Machine.execSinv f s
  | .drainInsn f => Sys2Proof.Machine.execDrainInsn f s
  | .racq f => Sys2Proof.Machine.execRacq f s
  | .rrel f => Sys2Proof.Machine.execRrel f s
  | .rtst f => Sys2Proof.Machine.execRtst f s
  | .mon f => Sys2Proof.Machine.execMon f s
  | .mwait f => Sys2Proof.Machine.execMwait f s
  | .bar f => Sys2Proof.Machine.execBar f s
  | .gbar f => Sys2Proof.Machine.execGbar f s
  | .tbinit f => Sys2Proof.Machine.execTbinit f s
  | .tbarr f => Sys2Proof.Machine.execTbarr f s
  | .tbarrRem f => Sys2Proof.Machine.execTbarrRem f s
  | .tbwait f => Sys2Proof.Machine.execTbwait f s
  | .spawn f => Sys2Proof.Machine.execSpawn f s
  | .qrsv f => Sys2Proof.Machine.execQrsv f s
  | .qpub f => Sys2Proof.Machine.execQpub f s
  | .qpop f => Sys2Proof.Machine.execQpop f s
  | .qpopTry f => Sys2Proof.Machine.execQpopTry f s
  | .qsteal f => Sys2Proof.Machine.execQsteal f s
  | .qinfo f => Sys2Proof.Machine.execQinfo f s
  | .qinfoBase f => Sys2Proof.Machine.execQinfoBase f s
  | .cont f => Sys2Proof.Machine.execCont f s
  | .mig f => Sys2Proof.Machine.execMig f s
  | .migTry f => Sys2Proof.Machine.execMigTry f s
  | .dsig f => Sys2Proof.Machine.execDsig f s
  | .mmx f => Sys2Proof.Machine.execMmx f s
  | .mmz f => Sys2Proof.Machine.execMmz f s
  | .mepi f => Sys2Proof.Machine.execMepi f s
  | .mldA2s f => Sys2Proof.Machine.execMldA2s f s
  | .mldS2a f => Sys2Proof.Machine.execMldS2a f s
  | .cpyLd f => Sys2Proof.Machine.execCpyLd f s
  | .cpySt f => Sys2Proof.Machine.execCpySt f s
  | .cpym f => Sys2Proof.Machine.execCpym f s
  | .bcpy f => Sys2Proof.Machine.execBcpy f s
  | .bcpyReg f => Sys2Proof.Machine.execBcpyReg f s
  | .wmv f => Sys2Proof.Machine.execWmv f s
  | .wld f => Sys2Proof.Machine.execWld f s
  | .ewait f => Sys2Proof.Machine.execEwait f s
  | .evpop f => Sys2Proof.Machine.execEvpop f s
  | .capr f => Sys2Proof.Machine.execCapr f s
  | .ctlr f => Sys2Proof.Machine.execCtlr f s
  | .ctlw f => Sys2Proof.Machine.execCtlw f s
  | .tretRe f => Sys2Proof.Machine.execTretRe f s
  | .tretSkipf f => Sys2Proof.Machine.execTretSkipf f s
  | .tretSkip f => Sys2Proof.Machine.execTretSkip f s
  | .atinv f => Sys2Proof.Machine.execAtinv f s
  | .atinvForce f => Sys2Proof.Machine.execAtinvForce f s
  | .lsave f => Sys2Proof.Machine.execLsave f s
  | .lrest f => Sys2Proof.Machine.execLrest f s
  | .whalt f => Sys2Proof.Machine.execWhalt f s
  | .whaltGroup f => Sys2Proof.Machine.execWhaltGroup f s
  | .csleep f => Sys2Proof.Machine.execCsleep f s
  | .keydrop f => Sys2Proof.Machine.execKeydrop f s
  | .deferredTrapTaken w => Sys2Proof.Machine.execDeferredTrapTaken w s
  | .groupHaltArrival w stop => Sys2Proof.Machine.execGroupHaltArrival w stop s
  | .pathPromotion w => Sys2Proof.Machine.execPathPromotion w s
  | .joinTimeout w slot => Sys2Proof.Machine.execJoinTimeout w slot s
  | .emptyLineFilled core line => Sys2Proof.Machine.execEmptyLineFilled core line s
  | .mwaitWake w slot code => Sys2Proof.Machine.execMwaitWake w slot code s
  | .qpopWake w slot => Sys2Proof.Machine.execQpopWake w slot s
  | .csleepWake w slot code => Sys2Proof.Machine.execCsleepWake w slot code s
  | .gbarArrival n => Sys2Proof.Machine.execGbarArrival n s
  | .gbarDeparture n => Sys2Proof.Machine.execGbarDeparture n s
  | .tbarrRemoteArrival n => Sys2Proof.Machine.execTbarrRemoteArrival n s
  | .tbwaitReturn w slot => Sys2Proof.Machine.execTbwaitReturn w slot s
  | .migArrival w => Sys2Proof.Machine.execMigArrival w s
  | .migLandingSlotFree w slot => Sys2Proof.Machine.execMigLandingSlotFree w slot s
  | .engineCmdStart core tag => Sys2Proof.Machine.execEngineCmdStart core tag s
  | .engineCmdComplete core tag => Sys2Proof.Machine.execEngineCmdComplete core tag s
  | .cpymReceiverWrite n => Sys2Proof.Machine.execCpymReceiverWrite n s
  | .wdieOperationServe wdie slot => Sys2Proof.Machine.execWdieOperationServe wdie slot s
  | .rd n => Sys2Proof.Machine.execRd n s
  | .data n => Sys2Proof.Machine.execData n s
  | .regReq n => Sys2Proof.Machine.execRegReq n s
  | .regAck n => Sys2Proof.Machine.execRegAck n s
  | .wb n => Sys2Proof.Machine.execWb n s
  | .fwd n => Sys2Proof.Machine.execFwd n s
  | .gone n => Sys2Proof.Machine.execGone n s
  | .recallWord n => Sys2Proof.Machine.execRecall n s
  | .dmark n => Sys2Proof.Machine.execDmark n s
  | .dmarkAck n => Sys2Proof.Machine.execDmarkAck n s
  | .relinq n => Sys2Proof.Machine.execRelinq n s
  | .rel n => Sys2Proof.Machine.execRel n s
  | .acq n => Sys2Proof.Machine.execAcq n s
  | .acqRsp n => Sys2Proof.Machine.execAcqRsp n s
  | .drain n => Sys2Proof.Machine.execDrain n s
  | .armed n => Sys2Proof.Machine.execArmed n s
  | .tokAcq n => Sys2Proof.Machine.execTokAcq n s
  | .tokRel n => Sys2Proof.Machine.execTokRel n s
  | .tokGrant n => Sys2Proof.Machine.execTokGrant n s
  | .replWr n => Sys2Proof.Machine.execReplWr n s
  | .regSet n => Sys2Proof.Machine.execRegSet n s
  | .held n => Sys2Proof.Machine.execHeld n s
  | .heldResend k => Sys2Proof.Machine.execHeldResend k s
  | .responseTimeout k => Sys2Proof.Machine.execResponseTimeout k s
  | .regionMergeCheck node => Sys2Proof.Machine.execRegionMergeCheck node s
  | .wtLineTimeout node k => Sys2Proof.Machine.execWtLineTimeout node k s
  | .flowMessageArrival a ack => Sys2Proof.Machine.execFlowMessageArrival a ack s
  | .flowPathFail k => Sys2Proof.Machine.execFlowPathFail k s
  | .hubForward hub n => Sys2Proof.Machine.execHubForward hub n s
  | .go value => Sys2Proof.Machine.execGo value s
  | .moveMark n => Sys2Proof.Machine.execMoveMark n s
  | .markAck n => Sys2Proof.Machine.execMarkAck n s
  | .handoffEnd n => Sys2Proof.Machine.execHandoffEnd n s
  | .commit n => Sys2Proof.Machine.execCommit n s
  | .redirect n => Sys2Proof.Machine.execRedirect n s
  | .flowReset n => Sys2Proof.Machine.execFlowReset n s
  | .debugHold n => Sys2Proof.Machine.execDebugHold n s
  | .debugHoldClear n => Sys2Proof.Machine.execDebugHoldClear n s
  | .ptimeStamp node delay => Sys2Proof.Machine.execPtimeStamp node delay s
  | .ptimeStampMissed node => Sys2Proof.Machine.execPtimeStampMissed node s
  | .ptimeSourceTakeover => Sys2Proof.Machine.execPtimeSourceTakeover s
  | .leaseRequest n => Sys2Proof.Machine.execLeaseRequest n s
  | .leaseGrant n => Sys2Proof.Machine.execLeaseGrant n s
  | .leaseFaultAnswer n => Sys2Proof.Machine.execLeaseFaultAnswer n s
  | .leaseWaitGranted node k => Sys2Proof.Machine.execLeaseWaitGranted node k s
  | .leaseRenewDue node k => Sys2Proof.Machine.execLeaseRenewDue node k s
  | .renew n => Sys2Proof.Machine.execRenew n s
  | .renewed n => Sys2Proof.Machine.execRenewed n s
  | .leaseLostAnswer n => Sys2Proof.Machine.execLeaseLostAnswer n s
  | .leaseHolderExpiry node k => Sys2Proof.Machine.execLeaseHolderExpiry node k s
  | .leaseGrantorExpiry node k => Sys2Proof.Machine.execLeaseGrantorExpiry node k s
  | .faultRecordPost => Sys2Proof.Machine.execFaultRecordPost s
  | .resolved seq => Sys2Proof.Machine.execResolved seq s
  | .denied seq => Sys2Proof.Machine.execDenied seq s
  | .enqueueWindowWrite func off bytes => Sys2Proof.Machine.execEnqueueWindowWrite func off bytes s
  | .configRequestRetry hub => Sys2Proof.Machine.execConfigRequestRetry hub s
  | .ctxCreate func cmd => Sys2Proof.Machine.execCtxCreate func cmd s
  | .ctxDestroy func cmd => Sys2Proof.Machine.execCtxDestroy func cmd s
  | .keyDestruction n => Sys2Proof.Machine.execKeyDestruction n s
  | .attReport func ok => Sys2Proof.Machine.execAttReport func ok s
  | .attCert func ok => Sys2Proof.Machine.execAttCert func ok s
  | .imgStage ok => Sys2Proof.Machine.execImgStage ok s
  | .imgLifecycle ok => Sys2Proof.Machine.execImgLifecycle ok s
  | .imgRecover ok => Sys2Proof.Machine.execImgRecover ok s
  | .advanceCommit => Sys2Proof.Machine.execAdvanceCommit s
  | .hctlValWrite func value => Sys2Proof.Machine.execHctlValWrite func value s
  | .hctlValRead func => Sys2Proof.Machine.execHctlValRead func s
  | .queueCreate asid cmd => Sys2Proof.Machine.execQueueCreate asid cmd s
  | .queueDestroy asid cmd => Sys2Proof.Machine.execQueueDestroy asid cmd s
  | .flush n => Sys2Proof.Machine.execFlush n s
  | .quarantineEnd node index => Sys2Proof.Machine.execQuarantineEnd node index s
  | .tokenCreate asid cmd => Sys2Proof.Machine.execTokenCreate asid cmd s
  | .tokenDestroy asid cmd => Sys2Proof.Machine.execTokenDestroy asid cmd s
  | .ctxLeaseWrite asid k value => Sys2Proof.Machine.execCtxLeaseWrite asid k value s
  | .ctxTtypeWrite asid value => Sys2Proof.Machine.execCtxTtypeWrite asid value s
  | .schedStop asid => Sys2Proof.Machine.execSchedStop asid s
  | .schedRun asid => Sys2Proof.Machine.execSchedRun asid s
  | .schedReset asid => Sys2Proof.Machine.execSchedReset asid s
  | .dbgHalt asid => Sys2Proof.Machine.execDbgHalt asid s
  | .dbgResume asid => Sys2Proof.Machine.execDbgResume asid s
  | .dieHalt die => Sys2Proof.Machine.execDieHalt die s
  | .dieResume die => Sys2Proof.Machine.execDieResume die s
  | .clusterWrite value => Sys2Proof.Machine.execClusterWrite value s
  | .clusterMoveComplete => Sys2Proof.Machine.execClusterMoveComplete s
  | .isolate node => Sys2Proof.Machine.execIsolate node s
  | .next node => Sys2Proof.Machine.execNext node s
  | .readmit node => Sys2Proof.Machine.execReadmit node s
  | .abort node => Sys2Proof.Machine.execAbort node s
  | .svcDrainComplete => Sys2Proof.Machine.execSvcDrainComplete s
  | .wipeComplete => Sys2Proof.Machine.execWipeComplete s
  | .selfTestDone pass => Sys2Proof.Machine.execSelfTestDone pass s
  | .dieTaskUnitReady => Sys2Proof.Machine.execDieTaskUnitReady s
  | .unplannedDieReset node => Sys2Proof.Machine.execUnplannedDieReset node s
  | .freqWrite die freq => Sys2Proof.Machine.execFreqWrite die freq s
  | .relockEnd die => Sys2Proof.Machine.execRelockEnd die s
  | .pwrCapWrite cap => Sys2Proof.Machine.execPwrCapWrite cap s
  | .powerCapWindow avg => Sys2Proof.Machine.execPowerCapWindow avg s
  | .thermalCeilingStep die celsius => Sys2Proof.Machine.execThermalCeilingStep die celsius s
  | .thermalTrip die celsius => Sys2Proof.Machine.execThermalTrip die celsius s
  | .supplyLow volt => Sys2Proof.Machine.execSupplyLow volt s
  | .supplyLimitClear => Sys2Proof.Machine.execSupplyLimitClear s
  | .supplyDip => Sys2Proof.Machine.execSupplyDip s
  | .supplyFaultLow => Sys2Proof.Machine.execSupplyFaultLow s
  | .supplyHigh volt => Sys2Proof.Machine.execSupplyHigh volt s
  | .supplyFaultHigh => Sys2Proof.Machine.execSupplyFaultHigh s
  | .supplyOvervoltage => Sys2Proof.Machine.execSupplyOvervoltage s
  | .supplyRestored => Sys2Proof.Machine.execSupplyRestored s
  | .moduleReset => Sys2Proof.Machine.execModuleReset s
  | .linkTrainingComplete g failed => Sys2Proof.Machine.execLinkTrainingComplete g failed s
  | .moduleWipeComplete far => Sys2Proof.Machine.execModuleWipeComplete far s
  | .modReadySet => Sys2Proof.Machine.execModReadySet s
  | .ucieModuleFail die n => Sys2Proof.Machine.execUcieModuleFail die n s
  | .tributaryLinkFail k => Sys2Proof.Machine.execTributaryLinkFail k s
  | .taskDispatch die => Sys2Proof.Machine.execTaskDispatch die s
  | .stealCountExchange => Sys2Proof.Machine.execStealCountExchange s
  | .steal thief peer => Sys2Proof.Machine.execSteal thief peer s
  | .gangLaunch task => Sys2Proof.Machine.execGangLaunch task s
  | .pendingLift die index => Sys2Proof.Machine.execPendingLift die index s
  | .taskEnd task => Sys2Proof.Machine.execTaskEnd task s
  | .workgroupPark wg => Sys2Proof.Machine.execWorkgroupPark wg s
  | .parkedWorkgroupReady wg => Sys2Proof.Machine.execParkedWorkgroupReady wg s
  | .continuationResume die k => Sys2Proof.Machine.execContinuationResume die k s
  | .watchdogFirstExpiry task => Sys2Proof.Machine.execWatchdogFirstExpiry task s
  | .watchdogSecondExpiry task => Sys2Proof.Machine.execWatchdogSecondExpiry task s
  | .preemptSave k => Sys2Proof.Machine.execPreemptSave k s
  | .preemptForce k => Sys2Proof.Machine.execPreemptForce k s
  | .coreRetentionEntry core => Sys2Proof.Machine.execCoreRetentionEntry core s
  | .coreWake core => Sys2Proof.Machine.execCoreWake core s
  | .eccCorrectable die => Sys2Proof.Machine.execEccCorrectable die s
  | .eccUncorrectable node level asid va => Sys2Proof.Machine.execEccUncorrectable node level asid va s
  | .patrolScrub die => Sys2Proof.Machine.execPatrolScrub die s
  | .wdieRowScrub wdie bad => Sys2Proof.Machine.execWdieRowScrub wdie bad s
  | .registerWrite func off value => Sys2Proof.Machine.execRegisterWrite func off value s
  | .registerReadClear func off => Sys2Proof.Machine.execRegisterReadClear func off s
  | .handoffState n => Sys2Proof.Machine.execHandoffState n s
  | .linkLevelRetry die n => Sys2Proof.Machine.execLinkLevelRetry die n s
  | .linkRetrain die n repl => Sys2Proof.Machine.execLinkRetrain die n repl s
  | .uncorrectableFecCodeword k => Sys2Proof.Machine.execUncorrectableFecCodeword k s

end Sys2Proof.Machine
end

