-- ==== Sys2Proof/Machine/Sched.lean ====
section
/-! DEFINITION. The schedule that stands when the agenda is empty: messages, engines, halts, waves in turn (assumption
log 2). -/

namespace Sys2Proof.Machine

/-! ## Moves that no row makes -/

/-- A stopping workgroup waits for its waves' queued stores (R264, R265). -/
def queueDrained (s : State) (id : Nat) : State :=
  match (getWave s id).wg with
  | some k => if (getWave s id).sq.isEmpty then stopProgress s k else s
  | none => s

/-- A load executes before its turn to retire: what it fetches stands in the core's L1 (R199, R204). -/
def loadAhead (s : State) (w : Wave) (va : DWord) : State :=
  if prefAllowed s w va then prefLine s w .l1 (lineKey (asidOf w.asid va) (va54 va / 128)) else s

/-- Any of these moves. -/
def internalAct (s : State) (a : Act) : State :=
  match a with
  | .evictL1 c k => { s with l1 := setLine s.l1 c k {} }
  | .evictL2 c k => evictL2Line s c k
  | .evictLlc n k => evictLlcLine s n k
  | .evictIc c k => { s with icache := Tab.erase s.icache (cacheKey c k) }
  | .evictTlb n => evictTlbEnt s n
  | .evictWalk n => { s with walks := listErase s.walks n }
  | .evictPerm n => { s with perms := listErase s.perms n }
  | .outsideWrite x l => outsideStore s x l
  | .parityReg w r => if waveExists s w ∧ r < 256 then modWave s w (fun x => { x with badRegs := r :: x.badRegs }) else s
  | .parityScr c x => modCore s c (fun y => { y with badScr := x :: y.badScr })
  | .parityAcc c x => modCore s c (fun y => { y with badAcc := x :: y.badAcc })
  | .slowUnits b => modMods s (fun m => { m with slow := b })
  | .hostAnswers b => modMods s (fun m => { m with hostFails := !b })
  | .engineRead c t => engineReads s c t
  | .drainStores w n => if waveExists s w && coreRuns s (getWave s w) then queueDrained (drainStores s w n) w else s
  | .loadAhead w va => if waveExists s w && coreRuns s (getWave s w) then loadAhead s (getWave s w) va else s
  | .firmware => firmwareStep s
  | .wave _ => s
  | .event _ => s
  | .serve _ => s

/-! ## The default schedule -/

/-- The n-th delivered message is served, by the event of its kind. -/
def serveMsg (n : Nat) (s : State) : Out :=
  match s.net.inbox[n]? with
  | none => .next s
  | some p =>
    if p.mod.isSome then execHubForward p.dst n s
    else match p.msg with
      | .rd .. => execRd n s
      | .data .. => execData n s
      | .regReq .. => execRegReq n s
      | .regAck .. => execRegAck n s
      | .wb .. => execWb n s
      | .fwd .. => execFwd n s
      | .gone .. => execGone n s
      | .recall .. => execRecall n s
      | .dmark .. => execDmark n s
      | .dmarkAck .. => execDmarkAck n s
      | .relinq .. => execRelinq n s
      | .rel .. => execRel n s
      | .acq .. => execAcq n s
      | .acqRsp .. => execAcqRsp n s
      | .drain .. => execDrain n s
      | .armed .. => execArmed n s
      | .tokAcq .. => execTokAcq n s
      | .tokRel .. => execTokRel n s
      | .tokGrant .. => execTokGrant n s
      | .replWr .. => execReplWr n s
      | .regSet .. => execRegSet n s
      | .held _ => execHeld n s
      | .gbarArr .. => execGbarArrival n s
      | .gbarDep .. => execGbarDeparture n s
      | .tbArr .. => execTbarrRemoteArrival n s
      | .mcast .. => execCpymReceiverWrite n s
      | .leaseReq .. => execLeaseRequest n s
      | .grant .. => execLeaseGrant n s
      | .leaseFault .. => execLeaseFaultAnswer n s
      | .renew .. => execRenew n s
      | .renewed .. => execRenewed n s
      | .leaseLost .. => execLeaseLostAnswer n s
      | .moveMark _ => execMoveMark n s
      | .markAck _ => execMarkAck n s
      | .handoffEnd .. => execHandoffEnd n s
      | .commit => execCommit n s
      | .redirect .. => execRedirect n s
      | .flowReset _ => execFlowReset n s
      | .hold _ => execDebugHold n s
      | .holdClear => execDebugHoldClear n s
      | .flush .. => execFlush n s
      | .flushAck .. => execFlush n s
      | .handoff .. => execHandoffState n s
      | .handoffData .. => execHandoffState n s
      | .handoffAck .. => execHandoffState n s
      | .keyDestroy .. => execKeyDestruction n s
      | .spawn .. => execHubForward p.dst n s
      | .spawnRsp .. => execHubForward p.dst n s
      | .fault .. => execHubForward p.dst n s
      | .faultAns .. => execHubForward p.dst n s
      | .pass _ => execHubForward p.dst n s

/-- The first delivered message that may be served and is not held back. -/
def firstMsg (s : State) : Option Act :=
  firstSome (fun n => match servable s n with
    | some p => if p.taken then none else some (.serve n)
    | none => none) (List.range s.net.inbox.length)

/-- The first message on its way that does not stall. -/
def firstWire (s : State) : Option Nat :=
  (List.range s.net.wire.length).find? (fun n => (s.net.wire[n]?).any (fun p => !stalls s p))

/-- The first engine command that may start or complete. -/
def firstCmd (s : State) : Option Instr :=
  firstSome (fun c => (c.2.score.head?).map (fun x =>
    if !x.started then .engineCmdStart c.1 x.tag.toNat
    else match (if x.served.isSome then none else slotOf x.k) with
      | none => .engineCmdComplete c.1 x.tag.toNat
      | some sl => match wdieOf s (c.1 / 128) sl with
        | some d => .wdieOperationServe d (sl % 64)
        | none => .engineCmdComplete c.1 x.tag.toNat)) s.cores

/-- The first sibling that a group halt has not stopped. -/
def firstHalt (s : State) : Option Instr :=
  firstSome (fun e => match e.2.wg.bind (getWg s) with
    | some g => (match g.st with
      | .halting _ _ _ => if isStopped e.2 then none else some (Instr.groupHaltArrival e.1 true)
      | _ => none)
    | none => none) s.waves

/-- The wave after `w` in ascending order, round again to the first. -/
def waveAfter (s : State) (w : Nat) : Nat :=
  match s.waves.find? (fun e => decide (w < e.1)) with
  | some e => e.1
  | none => match s.waves.head? with
    | some e => e.1
    | none => w

/-- A wave's queued stores drain before its next instruction, where they may. -/
def waveMove (s : State) (w : Nat) : Act :=
  let x := getWave s w
  let under := s.drains.any (fun d => d.agent == agentId s x.node 127)
  if !x.sq.isEmpty && coreRuns s x && (!drainStalled s x || (!under && s.rehome.isNone && !requestsFull s x)) then .drainStores w (sqLanes x)
  else .wave w

/-- What happens when the agenda is empty, and after how many ns: messages, engines, halts, then the waves in turn
(assumption log 2). -/
def defaultTurn (s : State) : Turn :=
  match firstMsg s with
  | some a => { dt := 1, act := a }
  | none =>
    if let some n := firstWire s then { dt := 1, act := .event (.flowMessageArrival (.wire n) true) }
    else if firmwareDue s then { dt := 1, act := .firmware }
    else match firstCmd s with
      | some e => { dt := 1, act := .event e }
      | none => match firstHalt s with
        | some e => { dt := 1, act := .event e }
        | none => { dt := 1, act := waveMove s (waveAfter s s.cur) }

/-- The next turn, taken from the agenda or by default; the counter of the free values advances. -/
def nextTurn (s : State) : State × Turn :=
  match s.agenda with
  | [] => ({ s with free := s.free + 1 }, defaultTurn s)
  | t :: r => ({ s with agenda := r, free := s.free + 1 }, t)

end Sys2Proof.Machine
end

