-- ==== Sys2Proof/Machine/Place.lean ====
section
/-! DEFINITION. The placing of one word where the next step fetches it, for `State.withFetchWord`: it stands for the loading
of a program from outside (assumption log 1). -/

namespace Sys2Proof.Machine

/-- The word of an opcode-table row as its fields. -/
def placedWord (nbits w : Nat) : BitVec 96 := BitVec.ofNat 96 (w % 2 ^ nbits)

/-- Where a word may run: a thread of a general core, a handler, or a compute wave. -/
def placeCtx (x : BitVec 96) : DecCtx :=
  match formOf (rawOfBits x) with
  | some f => anyCtx f
  | none => {}

/-- The line of instructions that starts with the word. -/
def placedLine (x : BitVec 96) : BitVec 1024 := x.setWidth 1024

/-- Thread 0 of hub 0 at PC 0, with page 0 of ASID 0 in its permission buffer. -/
def placeThread (s : State) (x : BitVec 96) : State :=
  { s with
    perms := { node := permNode 48 0, asid := 0, base := 0, size := 65536, pte := 0xB } :: s.perms
    icache := Tab.put s.icache (cacheKey (l1Of 48 0) (lineKey 0 0)) (placedLine x)
    waves := Tab.put s.waves 0 { asid := 0, node := 48, unit := 0, general := true, sup := true,
                                 slot0 := some { pc := 0, mask := 1 } }
    agenda := [{ dt := 0, act := .wave 0 }] }

/-- A handler entered from PC 0, about to execute its first instruction. -/
def placeHandler : Handler :=
  { path := { pc := 0, mask := 1 }, trap := { cause := cSoftTrap, sub := 0, pc := 0, fmask := 1, pmask := 1, addr := 0 } }

/-- A compute wave of ASID 1 on core 0 of die 0 at PC 0, under a standing EXEC lease of page 0. -/
def placeWave (s : State) (x : BitVec 96) (handler : Bool) : State :=
  { s with
    ctxs := Tab.put s.ctxs 1 { getCtx s 1 with
              live := true
              leases := [(0, { parts := [{ range := { lo := 0, hi := 65536 }, kind := .exec, grantor := 0, num := 0,
                                           e := 2 ^ 63 }] })] }
    icache := Tab.put s.icache (cacheKey (l1Of 0 0) (lineKey 1 0)) (placedLine x)
    waves := Tab.put s.waves s.nextWave
               { asid := 1, node := 0, unit := 0, regw := 256,
                 slot0 := some { pc := 0, mask := BitVec.allOnes 32 },
                 handler := if handler then some placeHandler else none }
    nextWave := s.nextWave + 1
    agenda := [{ dt := 0, act := .wave s.nextWave }] }

def placeWord (s : State) (nbits w : Nat) : State :=
  let x := placedWord nbits w
  let c := placeCtx x
  if c.general then placeThread s x else placeWave s x c.handler

end Sys2Proof.Machine
end

