-- ==== Sys2Proof/Machine/Step.lean ====
section
/-! DEFINITION. One step of the machine: the next turn of the agenda, with the time that passes before it. -/

namespace Sys2Proof.Machine

open Sys2Proof

/-- What a turn does: a wave's turn executes the instruction that it fetched, if any (R198). -/
def runTurn (a : Act) (s : State) : Host.Outcome State Fault Refusal :=
  match a with
  | .wave id => match waveTurn s id with
    | (t, none) => .next t
    | (t, some i) => exec i t
  | .event e => if isEvent e then exec e s else .next s
  | .serve n => serveMsg n s
  | _ => .next (internalAct s a)

/-- One step. -/
def step (s : State) : Host.Outcome State Fault Refusal :=
  runTurn (nextTurn s).2.act (advance (nextTurn s).1 (nextTurn s).2.dt)

/-- The state with one instruction placed where the next step fetches it. -/
def State.withFetchWord (s : State) (nbits w : Nat) : State := placeWord s nbits w

end Sys2Proof.Machine
end

