-- ==== Sys2Proof/Safety.lean ====
section
/-! DEFINITION. What the claims speak of: the steps of a run, the forms that hold in each state, and what an instruction
does to the wave that executes it. -/

namespace Sys2Proof.Machine

/-! ## Runs -/

/-- The machine goes on from a state. -/
def Goes (s : State) : Prop := ∃ t, step s = .next t

/-- The states that runs from a state reach. -/
inductive Reaches (s : State) : State → Prop where
  | refl : Reaches s s
  | step {t u : State} : Reaches s t → Host.Outcome.next u = Machine.step t → Reaches s u

/-- A run never stops: the spec gives every end of a wave, a die or the module as a state. -/
def NeverStops (s : State) : Prop := ∀ t, Reaches s t → Goes t

/-- Memory has its canonical form. -/
def MemOk (s : State) : Prop := Memory.wf s.mem = true

/-! ## The executing wave -/

/-- Instruction `i` may execute: the wave whose turn it is, `w`, has a path, `p`, and no check before execution
refuses `i`: neither where R223 and R429 let it be used, nor the shapes of its operands (R193, R258), nor a parity
error (R269); nor does it wait for the wave's store queue (R203). -/
structure Ready (s : State) (i : Instr) (w : Wave) (p : Path) : Prop where
  wave : getWave s s.cur = w
  path : curPath w = some p
  rename : renameBad w i = none
  queue : queueWaits w i = false

/-- Only the table of waves differs, and in it only the executing wave. -/
def OnlyWave (s t : State) : Prop :=
  t = { s with waves := t.waves } ∧ ∀ k, k ≠ s.cur → getWave t k = getWave s k

/-- A thread stands at a PC: on a path in a slot, or on a queued one (R206). -/
def StandsAt (v : Wave) (l : Nat) (pc : DWord) : Prop :=
  (∃ q, (v.slot0 = some q ∨ v.slot1 = some q) ∧ q.pc = pc ∧ q.mask.getLsbD l = true) ∨
  ∃ q ∈ v.queue, q.pc = pc ∧ q.mask.getLsbD l = true

/-- The thread of lane `l` goes on at a PC: in handler mode the handler's path (R258). -/
def GoesOnAt (v : Wave) (l : Nat) (pc : DWord) : Prop :=
  match v.handler with
  | some h => h.path.pc = pc
  | none => StandsAt v l pc

/-- A thread stands on a path other than the executing one. -/
def Elsewhere (w : Wave) (l : Nat) (pc : DWord) : Prop :=
  (∃ q, getSlot w (1 - w.cur) = some q ∧ q.pc = pc ∧ q.mask.getLsbD l = true) ∨
  ∃ q ∈ w.queue, q.pc = pc ∧ q.mask.getLsbD l = true

/-- `v` is `w` but for its paths and the counts that a retirement advances: registers, predicates, special registers,
the monitor, the pending traps and all else are kept. -/
structure PathsOnly (w v : Wave) : Prop where
  fields : v = { w with slot0 := v.slot0, slot1 := v.slot1, queue := v.queue, cur := v.cur, handler := v.handler,
                        retired := v.retired, op := v.op, blockedAt := v.blockedAt, run := v.run }
  bank : ∀ h, w.handler = some h → ∃ q, v.handler = some { h with path := q }
  user : w.handler = none → v.handler = none

/-- The threads of the executing path `p` go on where `t` says, those of other paths stay where they are, and nothing
else of the wave changes (R206-R208). A single-lane path has its thread in lane 0. -/
structure Moved (w v : Wave) (p : Path) (t : Nat → DWord) : Prop where
  paths : PathsOnly w v
  own : ∀ l, l < 32 → p.mask.getLsbD l = true → (oneLane w = true → l = 0) → GoesOnAt v l (t l)
  others : w.handler = none → ∀ l pc, Elsewhere w l pc → StandsAt v l pc

/-- Where a branch or call sends the threads of E: from its own address, or from the pair SA, plus IMM26 * 4 (R361). -/
def branchGoal (own : Bool) (f : CtlF) (s : State) (w : Wave) (p : Path) (l : Nat) : DWord :=
  if (workMask ⟨s, w, p⟩ f.h.g).getLsbD l then
    (if own then p.pc else BitVec.ofNat 64 (opnd64 ⟨s, w, p⟩ f.h.sa l)) + f.imm.signExtend 64 * 4#64
  else p.pc + 12

/-- `v` is `w` with registers r to r + n - 1 written, as the executing path sees them: every other register, and in
handler mode every interrupted register behind the bank, keeps its value (R258). -/
structure WroteRegs (w v : Wave) (r n : Nat) : Prop where
  others : ∀ k, k < r ∨ r + n ≤ k → readReg v k = readReg w k
  interrupted : w.handler.isSome → ∀ k, 248 ≤ k → Tab.get (.u 0) v.regs k = Tab.get (.u 0) w.regs k
  fields : v = { w with regs := v.regs, badRegs := v.badRegs, handler := v.handler }
  bank : ∀ h, w.handler = some h → ∃ b, v.handler = some { h with regs := b }
  user : w.handler = none → v.handler = none

/-- The same for one predicate. -/
structure WrotePred (w v : Wave) (q : Nat) : Prop where
  others : ∀ k, k ≠ q → readPred v k = readPred w k
  interrupted : w.handler.isSome → ∀ k, 28 ≤ k → Tab.get 0 v.preds k = Tab.get 0 w.preds k
  fields : v = { w with preds := v.preds, handler := v.handler }
  bank : ∀ h, w.handler = some h → ∃ b, v.handler = some { h with preds := b }
  user : w.handler = none → v.handler = none

/-- `v` is `w` with the lane values `f` of 32 * n bits in destination `d`, in the lanes of `e`; lanes outside keep their
values, and null discards the result (R302, R303, R325). -/
def DstHas (w v : Wave) (d : Opnd) (n : Nat) (e : Mask) (f : Nat → Nat) : Prop :=
  match d with
  | .v r => WroteRegs w v r.toNat n ∧ ∀ i, i < n → ∀ l, l < 32 →
      (e.getLsbD l → regLane (readReg v (r.toNat + i)) l = BitVec.ofNat 32 (f l / 2 ^ (32 * i))) ∧
      (oneLane w = false → e.getLsbD l = false →
        regLane (readReg v (r.toNat + i)) l = regLane (readReg w (r.toNat + i)) l)
  | _ => v = w

/-- The same for a destination predicate; p31 is no destination (R301). -/
def PredHas (w v : Wave) (d : Opnd) (e : Mask) (f : Nat → Bool) : Prop :=
  match d with
  | .p q => WrotePred w v q.toNat ∧ (q ≠ 31 → ∀ l, l < 32 →
      (readPred v q.toNat).getLsbD l = if e.getLsbD l then f l else (readPred w q.toNat).getLsbD l)
  | _ => v = w

/-- Instruction `i` retires with the lane values `f`, of n words, in destination `d`, and does nothing else. -/
def LaneResult (i : Instr) (h : Head) (n : Nat) (f : Rd → Nat → Nat) : Prop :=
  ∀ s w p, Ready s i w p → ∃ v, exec i s = .next (retire s s.cur v) ∧
    DstHas w v h.dst n (workMask ⟨s, w, p⟩ h.g) (f ⟨s, w, p⟩)

/-- The same for a destination predicate. -/
def PredResult (i : Instr) (h : Head) (f : Rd → Nat → Bool) : Prop :=
  ∀ s w p, Ready s i w p → ∃ v, exec i s = .next (retire s s.cur v) ∧
    PredHas w v h.dst (workMask ⟨s, w, p⟩ h.g) (f ⟨s, w, p⟩)

/-- No lane raises an exception whose enable in fpctl is 1 (R197). -/
def NoFpTrap (w : Wave) (e : Mask) (x : Nat → Exc) : Prop := excTrap (readFpctl w) x e = none

/-- `i` retires with the lane values that `f` gives, and with the flags of the exceptions that `f` gives set in fpctl,
where no enabled exception is raised; where one is, it traps with its cause and lanes and writes nothing (R197,
R252). -/
def FloatResult (i : Instr) (h : Head) (n : Nat) (f : Rd → Nat → Nat × Exc) : Prop :=
  ∀ s w p, Ready s i w p →
    let x : Rd := ⟨s, w, p⟩
    let e := workMask x h.g
    (NoFpTrap w e (fun l => (f x l).2) → ∃ v, exec i s = .next (retire s s.cur
        (writeFpctl v (excFlags (readFpctl w) (fun l => (f x l).2) e))) ∧
      DstHas w v h.dst n e (fun l => (f x l).1)) ∧
    (∀ c m, excTrap (readFpctl w) (fun l => (f x l).2) e = some (c, m) →
      exec i s = .next (trapNow s c 0 (entryMask w p h.g) m 0))

/-! ## Traps -/

/-- The wave `w` has entered its handler for a trap (R258): one path, lane 0 at TRAP_PC, a bank of zeros, fpctl with its
flags and no enable; the cause, SUB, lanes, address and the PC and mask of its path are those named; the interrupted
registers and predicates, the other waves and memory are kept. -/
structure HandlerEntered (s t : State) (w : Wave) (p : Path) (cause sub : Nat) (lanes : Mask) (addr : DWord) : Prop where
  entered : ∃ h, (getWave t s.cur).handler = some h ∧
    h.path = { pc := (getCtx s w.asid).trapPc, mask := 1 } ∧ h.regs = [] ∧ h.preds = [] ∧
    h.fpctl = w.fpctl &&& ~~~0x1F00#32 ∧ h.trap.cause = cause ∧ h.trap.sub = sub ∧ h.trap.fmask = lanes ∧
    h.trap.addr = addr ∧ h.trap.pc = pathPc p ∧ h.trap.pmask = p.mask ∧ h.trap.lost = w.defLost
  regs : (getWave t s.cur).regs = w.regs
  preds : (getWave t s.cur).preds = w.preds
  fpctl : (getWave t s.cur).fpctl = w.fpctl
  rseed : (getWave t s.cur).rseed = w.rseed
  waves : ∀ k, k ≠ s.cur → getWave t k = getWave s k
  memory : t.mem = s.mem

/-- A user wave that runs, and whose context's handler takes a cause (R257). -/
structure Handles (s : State) (w : Wave) (p : Path) (cause sub : Nat) : Prop where
  compute : w.general = false
  user : w.handler = none
  runs : w.run = .run
  takes : handlerTakes (getCtx s w.asid) (preciseTrap w p cause sub 0 0 0) = true

/-! ## Accesses -/

/-- The lanes of an instruction with their global addresses. -/
def laneAddrs (f : MemF) (x : Rd) : List LaneAddr :=
  (maskLanes (workMask x f.h.g)).map (fun l => (l, globalAddr f x l))

/-- The lanes of an instruction with their scratchpad offsets. -/
def laneOffsets (f : MemF) (x : Rd) : List (Nat × Nat) :=
  (maskLanes (workMask x f.h.g)).map (fun l => (l, scratchAddr f x l))

/-- The leases, and for `align` the alignment, of every lane's access are in order (R113, R368). -/
def LanesAllowed (s : State) (w : Wave) (kind : LKind) (align : Bool) (n : Nat) (ls : List LaneAddr) : Prop :=
  ∀ y ∈ ls, laneCheck s w kind align n y.2 = none

/-- Every byte that the lanes access stands in the wave's store queue or is held by the core's own caches, in regions whose
tokens it may use, and no acquire holds the core's misses of the line (R75, R81, R92, R204). -/
def CoreHolds (s : State) (w : Wave) (n : Nat) (ls : List LaneAddr) : Prop :=
  ∀ y ∈ needMap w.asid n ls, ∃ h, homeAt s w.node (lineAsid y.1) (lineNo y.1 * 128) = some h ∧
    tokenBars s h y.1 (wordMask y.2) (waveAgent s w) = 0 ∧ missHeld s (waveCore w) y.1 = false ∧
    y.2 &&& ~~~(sqLine w y.1).valid &&& ~~~(nearLine s w.node w.unit y.1 h .l1).valid = 0

/-- A byte of a context's memory as a wave sees it: its own queued store's, else the one that its core's caches hold (R204). -/
def coreByte (s : State) (w : Wave) (v : Nat) (asid : Nat) : Byte :=
  let k := lineKey asid (v / 128)
  if (sqLine w k).valid.getLsbD (v % 128) then lineByte (sqLine w k) (v % 128)
  else lineByte (nearLine s w.node w.unit k ((homeAt s w.node (lineAsid k) (lineNo k * 128)).getD 0) .l1) (v % 128)

/-- The little-endian number of n bytes at an address, as a core's caches hold them (R297). -/
def coreValue (s : State) (w : Wave) (va : DWord) (n : Nat) : Nat :=
  natOfBytes ((List.range n).map (fun i => coreByte s w (va54 va + i) (asidOf w.asid va)))

/-- The scratchpad accesses of the lanes are in order and need not wait: inside the allocation and aligned where that is
asked, on no empty line, and free of locks and parity errors (R225, R228, R229, R269). -/
structure ScratchOk (s : State) (w : Wave) (p : Path) (e : Mask) (reads writes align : Bool) (n : Nat → Nat)
    (ls : List (Nat × Nat)) : Prop where
  inside : checkScratch s w p e writes align n ls = none
  full : reads = true → ls.any (fun y => touchesEmpty (getCore s (waveCore w)) ((scrAlloc s w).1 + y.2) (n y.1)) = false
  free : scrRetireTrap s w p e reads writes n ls = none

/-! ## Homes and messages -/

/-- A message is under way: sent, and not yet served. -/
def Travels (s : State) (src dst : Nat) (m : Msg) : Prop :=
  ∃ p : Pkt, p.src = src ∧ p.dst = dst ∧ p.msg = m ∧
    (p ∈ s.net.inbox ∨ p ∈ s.net.wire ∨ ∃ f ∈ s.net.flows, p ∈ f.backlog)

/-- The n-th delivered message may be served: it is `m`, from `src` to `dst`, whose home of the line it names is not being
handed off (R49, R57, R61). -/
structure Arrives (s : State) (n src dst : Nat) (m : Msg) (asid line : Nat) : Prop where
  served : ∃ p, servable s n = some p ∧ p.src = src ∧ p.dst = dst ∧ p.msg = m
  homes : stoppedHoming s dst asid (line * 128) = false

/-- The n-th delivered message may be served: it is `m`, from `src` to `dst` (R49, R61). -/
def Delivered (s : State) (n src dst : Nat) (m : Msg) : Prop :=
  ∃ p, servable s n = some p ∧ p.src = src ∧ p.dst = dst ∧ p.msg = m

/-- The number that n bytes at offset o of a home's line make. -/
def homeNumber (s : State) (node k : Nat) (q : Phys) (o n : Nat) : Nat :=
  natOfBytes ((List.range n).map (fun i => lineByte (homeData s node k q) (o + i)))

/-- The words of n bytes at offset o of a line. -/
def wordsOf (o n : Nat) : Mask := wordMask (lineOfBytes o (List.replicate n 0)).valid

/-- The words of a mask stand at their home: none is registered to an owner, none is lost (R67). -/
def WordsHome (s : State) (k : Nat) (m : Mask) : Prop :=
  ∀ i, i < 32 → m.getLsbD i = true → wordSt s k i = .i ∨ wordSt s k i = .v

/-- The issuing core and its die hold no bytes of the words newer than the home's (R75, R88). -/
def OwnClean (s : State) (w : Wave) (h k : Nat) (m : Mask) : Prop :=
  (getLine s.l2 (l2Of w.node w.unit) k).dirty &&& byteMask m = 0 ∧
  (h ≠ w.node → (getLine s.llc w.node k).dirty &&& byteMask m = 0)

/-- An access by the instruction of wave `id` reaches its home `h`: the home answers, the region's token allows it, and the
translation `q` of a cached page is found, in state `u`; the words stand at the home, and the issuing core holds no newer
bytes of them (R71, R88, R92, R114). -/
structure HomeReach (s : State) (id : Nat) (acc : Acc) (kind : LKind) (n : Nat) (va : DWord) (h : Nat) (q : Phys)
    (u : State) : Prop where
  home : homeAt s (getWave s id).node (asidOf (getWave s id).asid va) (va54 va) = some h
  there : nodeLost s h = false
  answers : homeHolds s (getWave s id).node h (lineKey (asidOf (getWave s id).asid va) (va54 va / 128)) = false
  token : tokenAllows s h (asidOf (getWave s id).asid va) (va54 va) n (waveAgent s (getWave s id)) = true
  access : homeAccess s h
    { agent := waveAgent s (getWave s id), wave := id, id := (getWave s id).op.id, sup := (getWave s id).sup,
      grant := if (getWave s id).general then none
        else carriedGrant s (getWave s id).asid (getWave s id).taskId kind (va54 va) }
    (asidOf (getWave s id).asid va) (va54 va / 128) acc = (u, .ok q)
  cached : q.uc = false
  words : WordsHome u (lineKey (asidOf (getWave s id).asid va) (va54 va / 128)) (wordsOf (va54 va % 128) n)
  own : OwnClean u (getWave s id) h (lineKey (asidOf (getWave s id).asid va) (va54 va / 128)) (wordsOf (va54 va % 128) n)

/-- A request for words of a line reaches its home in state `s`: the regions' tokens allow it, and the translation `q` of a
cached, unreplicated page is found, in state `u` (R71, R92, R114). -/
structure HomeAnswers (s : State) (node : Nat) (r : Req) (asid line : Nat) (acc : Acc) (m : Mask) (u : State)
    (q : Phys) : Prop where
  token : ∀ i, i < 32 → m.getLsbD i = true → tokenAllows s node asid (line * 128 + 4 * i) 4 r.agent = true
  access : homeAccess s node r asid line acc = (u, .ok q)
  one : q.repl = 0
  cached : q.uc = false

/-- The bytes of a line that a mask names. -/
def BytesAre (l : Line) (m : BitVec 128) (f : Nat → Byte) : Prop :=
  ∀ i, i < 128 → m.getLsbD i = true → lineByte l i = f i

/-- The words of a mask are in one state at their home. -/
def WordsAre (s : State) (k : Nat) (m : Mask) (x : WordSt) : Prop := ∀ i, i < 32 → m.getLsbD i = true → wordSt s k i = x

/-- The home of the queue that a handle names answers an instruction of wave `w`: it runs, the handle is in order, and `q`
is the queue (R150, R155, R162). -/
structure QueueAnswers (s : State) (w : Wave) (h : Word) (q : Queue) : Prop where
  answers : queueHolds s h = false
  code : opCode s h (waveSlot s w) = qOk
  queue : queueOf s h = some q

/-- An engine command that instruction `i` of a compute wave asks for passes the checks of R408, and its core has room. -/
structure EngineReady (s : State) (i : Instr) (w : Wave) (p : Path) (g : Guard) (r : EngReq) : Prop where
  ready : Ready s i w p
  lanes : workMask ⟨s, w, p⟩ g ≠ 0
  compute : w.general = false
  attached : w.home = none
  inside : rangeFault (scrAlloc s w).2 r = none
  leased : globalFault s w r = none
  room : engRoom (getCore s (waveCore w)) (r.scrR.length + r.scrW.length) = true

/-- Instruction `i` retires with the next tag of its core, and its command stands in the scoreboard, not started, with its
ranges locked; scratchpad, accumulator and memory are as they were (R219, R229, R406, R407). -/
def EngineIssued (s : State) (i : Instr) (w : Wave) (p : Path) (f : GenF) (r : EngReq) : Prop :=
  let ck := waveCore w
  let off := (scrAlloc s w).1
  let tag := nextTag (getCore s ck).tagCount
  ∃ t v c, exec i s = .next (retire t s.cur v) ∧ t.waves = s.waves ∧ t.mem = s.mem ∧
    DstHas w v f.h.dst 1 (workMask ⟨s, w, p⟩ f.h.g) (fun _ => tag.toNat) ∧
    (getCore t ck).score = (getCore s ck).score ++ [c] ∧ (getCore t ck).tagCount = tag ∧
    (getCore t ck).scr = (getCore s ck).scr ∧ (getCore t ck).acc = (getCore s ck).acc ∧
    c.tag = tag ∧ c.started = false ∧ c.wave = some s.cur ∧ c.wg = w.wg ∧ c.asid = w.asid ∧ c.agent = waveAgent s w ∧
    c.off = off ∧ c.scrR = r.scrR.map (shiftRange off) ∧ c.scrW = r.scrW.map (shiftRange off) ∧
    c.accR = r.accR.map (shiftRange (off / 2)) ∧ c.accW = r.accW.map (shiftRange (off / 2)) ∧
    c.k = (match r.k with
      | .mepi b _ => .mepi b w.rseed
      | k => k) ∧
    (getCore t ck).locks = (getCore s ck).locks ++
      c.scrR.map (fun x => { tag := tag, owner := s.cur, lo := x.lo, hi := x.hi, write := false }) ++
      c.scrW.map (fun x => { tag := tag, owner := s.cur, lo := x.lo, hi := x.hi, write := true })

/-- The 64 bytes of a parameter block can be read (R408): aligned, inside the allocation, on no empty line and free of
parity errors. -/
structure BlockHere (s : State) (w : Wave) (a : Nat) : Prop where
  aligned : a % 64 = 0
  inside : a + 64 ≤ (scrAlloc s w).2
  full : touchesEmpty (getCore s (waveCore w)) ((scrAlloc s w).1 + a) 64 = false
  parity : scrParity (getCore s (waveCore w)) ((scrAlloc s w).1 + a) 64 = false

/-- A command reads and writes without meeting a condition of R410, and its workgroup runs on. -/
structure CleanCmd (s : State) (c : Cmd) (i : CmdIn) : Prop where
  codes : i.codes = []
  served : c.served = none
  group : ∀ k g, c.wg = some k → getWg s k = some g → g.st = .resident

/-- The state in which the lanes of a global atomic reach their homes (R233). -/
def atomStart (f : MemF) (s : State) : State :=
  let s0 := opWait s s.cur
  if ordAcquires f.ord then acquireStart s0 s.cur (waveRanges s0 (getWave s0 s.cur) f.rset.toNat) else s0

end Sys2Proof.Machine
end

