-- ==== Sys2Proof/Certificates/Slice0/Obligations.lean ====
section
/-! DEFINITION. The statements about the machine that are to be proved. -/

open Sys2Proof Sys2Proof.Machine

/-! ## Lane instructions: results (chapter 11) -/

/-- R330, R331: the integer instructions retire with the exact result of the operands of each lane of E, reduced to
the operation type; nothing else of the wave or the machine changes but by retirement. For `mov` of an instruction
word; its destinations rseed and fpctl are the subject of `RegisterMoves`. R332: quotient and remainder round
toward zero; a zero divisor gives all ones and the dividend, and no exception is raised. -/
def Obligations.IntegerResults : Prop :=
  (∀ f : ArithF,
   let n := tyWords f.ty
   let red := reduceInt f.ty f.sat
   (wellFormed (.mov f) = true → (∀ r, f.h.dst ≠ .sreg r) → LaneResult (.mov f) f.h n (fun x l => red (intA f x l))) ∧
   LaneResult (.sel f) f.h n (fun x l => red (if predBit x f.h.sc l then intA f x l else intB f x l)) ∧
   (∀ k, LaneResult (.lea k f) f.h n (fun x l => red (intA f x l + leaB f x l * (2 ^ k.toNat : Nat)))) ∧
   LaneResult (.iadd f) f.h n (fun x l => red (intA f x l + intB f x l)) ∧
   LaneResult (.isub f) f.h n (fun x l => red (intA f x l - intB f x l)) ∧
   LaneResult (.iadd3 f) f.h n (fun x l => red (intA f x l + intB f x l + intC f x l)) ∧
   LaneResult (.iaddx f) f.h n (fun x l => red (intA f x l + intB f x l + (b2n (predBit x f.h.sc l) : Int))) ∧
   LaneResult (.imul f) f.h n (fun x l => red (intA f x l * intB f x l)) ∧
   LaneResult (.imulh f) f.h n (fun x l => red (intA f x l * intB f x l / ((2 ^ tyWidth f.ty : Nat) : Int))) ∧
   LaneResult (.imad f) f.h n (fun x l => red (intA f x l * intB f x l + intC f x l)) ∧
   LaneResult (.imadw f) f.h 2 (fun x l => natOfInt (intA f x l * intB f x l + wideC f x l) 64) ∧
   LaneResult (.imin f) f.h n (fun x l => red (min (intA f x l) (intB f x l))) ∧
   LaneResult (.imax f) f.h n (fun x l => red (max (intA f x l) (intB f x l))) ∧
   LaneResult (.iabs f) f.h n (fun x l => red ((intA f x l).natAbs : Int)) ∧
   LaneResult (.ineg f) f.h n (fun x l => red (-(intA f x l))) ∧
   LaneResult (.isad f) f.h n (fun x l => red (((intA f x l - intB f x l).natAbs : Int) + intC f x l)) ∧
   (∀ p q, LaneResult (.idp4 p q f) f.h n
     (fun x l => red (dotInt p q 4 8 (bitsA f x l) (bitsB f x l) (bitsC f x l)))) ∧
   (∀ p q, LaneResult (.idp2 p q f) f.h n
     (fun x l => red (dotInt p q 2 16 (bitsA f x l) (bitsB f x l) (bitsC f x l)))) ∧
   LaneResult (.iclamp f) f.h n (fun x l => red (min (max (intA f x l) (intB f x l)) (intC f x l)))) ∧
  (∀ f : ArithF,
   let n := tyWords f.ty
   LaneResult (.idiv f) f.h n (fun x l =>
     if intB f x l = 0 then 2 ^ tyWidth f.ty - 1 else reduceInt f.ty f.sat (Int.tdiv (intA f x l) (intB f x l))) ∧
   LaneResult (.irem f) f.h n (fun x l => reduceInt f.ty f.sat
     (if intB f x l = 0 then intA f x l else Int.tmod (intA f x l) (intB f x l))))

/-- R334-R337: logic, shifts, rotations, bit fields and `pmov.mask`. A shift by the width or more gives 0, or copies of the sign for
`sra`; rotations and funnel shifts take the count modulo the width. -/
def Obligations.BitResults : Prop := ∀ f : ArithF,
  let n := tyWords f.ty
  let w := tyWidth f.ty
  LaneResult (.and f) f.h n (fun x l => (bitsA f x l &&& bitsB f x l) % 2 ^ w) ∧
  LaneResult (.or f) f.h n (fun x l => (bitsA f x l ||| bitsB f x l) % 2 ^ w) ∧
  LaneResult (.xor f) f.h n (fun x l => (bitsA f x l ^^^ bitsB f x l) % 2 ^ w) ∧
  LaneResult (.not f) f.h n (fun x l => 2 ^ w - 1 - bitsA f x l % 2 ^ w) ∧
  LaneResult (.andn f) f.h n (fun x l => (bitsA f x l &&& (2 ^ w - 1 - bitsB f x l % 2 ^ w)) % 2 ^ w) ∧
  LaneResult (.bfn3 f) f.h n (fun x l => bfn3Val w f.hi.toNat (bitsA f x l) (bitsB f x l) (bitsC f x l) % 2 ^ w) ∧
  LaneResult (.shl f) f.h n (fun x l => if w ≤ cntB f x l then 0 else bitsA f x l * 2 ^ cntB f x l % 2 ^ w) ∧
  LaneResult (.shr f) f.h n (fun x l => if w ≤ cntB f x l then 0 else bitsA f x l / 2 ^ cntB f x l % 2 ^ w) ∧
  LaneResult (.sra f) f.h n (fun x l => natOfInt (signedOf (bitsA f x l) w / ((2 ^ min (cntB f x l) w : Nat) : Int)) w) ∧
  LaneResult (.rot false f) f.h n (fun x l => rotlVal w (bitsA f x l) (cntB f x l)) ∧
  LaneResult (.rot true f) f.h n (fun x l => rotlVal w (bitsA f x l) (w - cntB f x l % w)) ∧
  (∀ b, LaneResult (.shf b f) f.h n (fun x l => shfVal b (bitsA f x l) (bitsB f x l) (cntC f x l) % 2 ^ w)) ∧
  LaneResult (.bfx f) f.h n (fun x l => bfxVal (tySigned f.ty) w (bitsA f x l) (cntB f x l) % 2 ^ w) ∧
  LaneResult (.bfi f) f.h n (fun x l => bfiVal w (bitsA f x l) (bitsB f x l) (cntC f x l) % 2 ^ w) ∧
  LaneResult (.popc f) f.h 1 (fun x l => bitCount (bitsA f x l) w) ∧
  LaneResult (.clz f) f.h 1 (fun x l => if bitsA f x l = 0 then w else w - 1 - (bitsA f x l).log2) ∧
  LaneResult (.ctz f) f.h 1 (fun x l => ((List.range w).find? (fun i => bitOf (bitsA f x l) i)).getD w) ∧
  LaneResult (.brev f) f.h n (fun x l => brevVal w (bitsA f x l) % 2 ^ w) ∧
  LaneResult (.bperm f) f.h n (fun x l => bpermVal (bitsA f x l) (bitsB f x l) (cntC f x l) % 2 ^ w) ∧
  LaneResult (.pmovMask f) f.h 1 (fun x _ => (predMask x f.h.sa).toNat)

/-- R329, R334, R337, R342, R356, R357: the instructions with a predicate result write it in the lanes of E alone. -/
def Obligations.PredicateResults : Prop := ∀ f : ArithF,
  PredResult (.iaddxCo f) f.h
    (fun x l => decide (2 ^ tyWidth f.ty ≤ bitsA f x l + bitsB f x l + b2n (predBit x f.h.sc l))) ∧
  (∀ c, PredResult (.icmp c f) f.h (fun x l => icondHolds c (intA f x l) (intB f x l) && predBit x f.h.sc l)) ∧
  (∀ o, PredResult (.pand o f) f.h (fun x l => pandVal o (predBit x f.h.sa l) (predBit x f.h.sb l))) ∧
  PredResult (.pmov f) f.h (fun x l => predBit x f.h.sa l) ∧
  PredResult (.pmovBit f) f.h (fun x l => bitOf (bitsA f x l) l) ∧
  PredResult (.pmovNz f) f.h (fun x l => bitsA f x l != 0) ∧
  (∀ o, PredResult (.vote o f) f.h (fun x _ => voteVal o ((laneSet f x).map (predBit x f.h.sa)))) ∧
  PredResult (.elect f) f.h (fun x l => (laneSet f x).head? == some l)

/-- R355-R358: the cross-lane instructions, over the lanes of E. -/
def Obligations.CrossLaneResults : Prop := ∀ f : ArithF,
  (∀ m, LaneResult (.shfl m f) f.h (tyWords f.ty) (fun x l =>
    match shflSource m l (cntB f x l) with
    | some j => if (workMask x f.h.g).getLsbD j then bitsA f x j else bitsA f x l
    | none => bitsA f x l)) ∧
  LaneResult (.voteBits f) f.h 1 (fun x _ => (predMask x f.h.sa &&& workMask x f.h.g).toNat) ∧
  LaneResult (.matchLanes f) f.h 1
    (fun x l => (maskOf (fun j => (workMask x f.h.g).getLsbD j && bitsA f x j == bitsA f x l)).toNat) ∧
  (∀ o, LaneResult (.scan o f) f.h 1 (scanVal o f)) ∧
  (∀ o, LaneResult (.lmask o f) f.h 1 (fun _ l => lmaskVal o l)) ∧
  (∀ o, FloatResult (.redux o f) f.h 1 (fun x _ => reduxVal o f x))

/-! ## Floating point (chapter 10, R338-R352) -/

/-- R326, R339, R344, R345: each element of each lane of E is the exact value of the operation on the operands, after
SRCMOD and FTZ, rounded once into the format of the type. -/
def Obligations.FloatArithmetic : Prop := ∀ f : ArithF,
  let each := fun (r : Rd → Nat → Nat → Nat × Exc) (x : Rd) (l : Nat) => packElems f.ty (r x l)
  let rnd := fun (x : Rd) (l j : Nat) => roundOp (tyFmt f.ty) (modeOf f x l j)
  let sum := each (fun x l j => rnd x l j (sumVal f.rnd [valA f x l j, valB f x l j]))
  let product := each (fun x l j => rnd x l j (mulVal (valA f x l j) (valB f x l j)))
  let fused := each (fun x l j => rnd x l j (fmaVal f.rnd (valA f x l j) (valB f x l j) (valC f x l j)))
  FloatResult (.fadd f) f.h 1 sum ∧
  FloatResult (.hadd2 f) f.h 1 sum ∧
  FloatResult (.fsub f) f.h 1 (each (fun x l j => rnd x l j (sumVal f.rnd [valA f x l j, valNeg (valB f x l j)]))) ∧
  FloatResult (.fmul f) f.h 1 product ∧
  FloatResult (.hmul2 f) f.h 1 product ∧
  FloatResult (.ffma f) f.h 1 fused ∧
  FloatResult (.hfma2 f) f.h 1 fused ∧
  FloatResult (.fscale f) f.h 1
    (each (fun x l j => rnd x l j (scaleVal (valA f x l j) (scaleN f x l), valSig (valA f x l j)))) ∧
  FloatResult (.fdiv f) f.h 1
    (each (fun x l j => divRound (tyFmt f.ty) (modeOf f x l j) (valA f x l j) (valB f x l j))) ∧
  FloatResult (.fdot2 f) f.h 1 (dotElem f f.ty f.ty 2) ∧
  (∀ m, FloatResult (.fdot4 m f) f.h 1 (dotElem f f.ty (if m then otherFp8 f.ty else f.ty) 4))

/-- R340: square root, reciprocals and the transcendental functions, each the function's value rounded into the format
of the type. R341-R343: minimum and maximum, comparison, classification, exponent and fraction. -/
def Obligations.FloatFunctions : Prop :=
  (∀ f : ArithF,
   let fn := fun (r : Fmt → RMode → Val → Nat × Exc) (x : Rd) (l : Nat) =>
     packElems f.ty (fun j => r (tyFmt f.ty) (modeOf f x l j) (valA f x l j))
   FloatResult (.fsqrt f) f.h 1 (fn sqrtRound) ∧
   FloatResult (.frcp f) f.h 1 (fn (fun m r a => divRound m r (.num false 1 0) a)) ∧
   FloatResult (.frsq f) f.h 1 (fn rsqrtRound) ∧
   FloatResult (.fex2 f) f.h 1 (fn exp2Round) ∧
   FloatResult (.flg2 f) f.h 1 (fn log2Round) ∧
   FloatResult (.fsin f) f.h 1 (fn (trigRound false)) ∧
   FloatResult (.fcos f) f.h 1 (fn (trigRound true)) ∧
   FloatResult (.ftanh f) f.h 1 (fn tanhRound) ∧
   FloatResult (.fround f) f.h 1 (fn froundVal)) ∧
  (∀ f : ArithF,
   let mm := fun (mx nan : Bool) (x : Rd) (l : Nat) =>
     packElems f.ty (fun j => minMaxCode (tyFmt f.ty) mx nan (codeA f x l j) (codeB f x l j))
   (∀ n, FloatResult (.fmin n f) f.h 1 (mm false n)) ∧
   (∀ n, FloatResult (.fmax n f) f.h 1 (mm true n)) ∧
   (∀ n, FloatResult (.hmin2 n f) f.h 1 (mm false n)) ∧
   (∀ n, FloatResult (.hmax2 n f) f.h 1 (mm true n)) ∧
   LaneResult (.fclass f) f.h 1 (fun x l => fclassVal (tyFmt f.ty) (codeA f x l 0)) ∧
   FloatResult (.fexpo f) f.h 1 (fun x l => fexpoVal (valA f x l 0)) ∧
   (f.ftz = false → FloatResult (.ffract f) f.h 1
     (fun x l => packElems f.ty (fun j => ffractVal (tyFmt f.ty) (valA f x l j)))) ∧
   (f.ftz = true → FloatResult (.ffract f) f.h 1
     (fun x l => packElems f.ty (fun j =>
       let r := ffractVal (tyFmt f.ty) (valA f x l j)
       if isSubnormal (tyFmt f.ty) r.1 then
         (signCode (tyFmt f.ty) (bitOf r.1 (fmtWidth (tyFmt f.ty) - 1)), excOr r.2 { uf := true, ix := true })
       else r))) ∧
   (∀ c s w p, Ready s (.fcmp c f) w p →
     let x : Rd := ⟨s, w, p⟩
     let e := workMask x f.h.g
     let t := fun l => fcondHolds c (tyFmt f.ty) (codeA f x l 0) (codeB f x l 0)
     NoFpTrap w e (fun l => excIv (t l).2) → ∃ v, exec (.fcmp c f) s = .next (retire s s.cur
       (writeFpctl v (excFlags (readFpctl w) (fun l => excIv (t l).2) e))) ∧
       PredHas w v f.h.dst e (fun l => (t l).1 && predBit x f.h.sc l)))

/-- R346-R352: conversions, microscaled scales, quantization and its inverse. -/
def Obligations.ConversionResults : Prop := ∀ f : CvtF,
  FloatResult (.cvt f) f.h (tyWords f.dty) (cvtLane f) ∧
  (∀ k, FloatResult (.cvtp k f) f.h 1 (cvtpLane k f)) ∧
  FloatResult (.cvtx f) f.h 1 (cvtxLane f) ∧
  FloatResult (.mxamax f) f.h 1 (fun x _ => amaxVal ((maskLanes (workMask x f.h.g)).map (cvtVal f 0 x))) ∧
  FloatResult (.mxscale f) f.h 1 (fun x l => mxScale f.dty [cvtVal f 0 x l]) ∧
  FloatResult (.mxq f) f.h 1 (mxqLane f) ∧
  FloatResult (.mxdq f) f.h 1 (mxdqLane f)

/-! ## Retirement and control (R199-R212, R360-R364) -/

/-- R199, R202, R206-R208: a retirement moves the threads of the executing path 12 bytes on, leaves those of other
paths where they are, counts one instruction, or two with the `pfx` that fed it, and changes nothing else of the wave
and nothing of another wave. R364, R198: `nop` and `yield` retire and do nothing else, in every state in which they
may execute. -/
def Obligations.Retirement : Prop :=
  (∀ (s : State) (id : Nat) (w : Wave) (p : Path), curPath w = some p →
   ∃ v, retire s id w = setWave s id v ∧ Moved w v p (fun _ => p.pc + 12) ∧
     v.retired = w.retired + (if p.fed.isSome then 2 else 1) ∧ v.op = {} ∧ v.blockedAt = none) ∧
  (∀ s w p,
   (∀ f, Ready s (.nop f) w p → exec (.nop f) s = .next (retire s s.cur w)) ∧
   (∀ f, Ready s (.yld f) w p → exec (.yld f) s = .next (retire s s.cur w)) ∧
   (∀ f, Ready s (.beat f) w p → workMask ⟨s, w, p⟩ f.h.g = 0 → exec (.beat f) s = .next (retire s s.cur w)) ∧
   (∀ f, Ready s (.beat f) w p → workMask ⟨s, w, p⟩ f.h.g ≠ 0 → ∀ k x, w.taskId = some k → getTask s k = some x →
     persistent x = true → ∃ t, exec (.beat f) s = .next t ∧ t.waves = (retire s s.cur w).waves ∧
       getTask t k = some { x with cycles := 0, expired := false }))

/-- R207, R361: a branch sends the threads of E to their targets, all of them multiples of 4, and the others past it.
R362: a target that is no multiple of 4 is an illegal operand, SUB 4, of the lanes that have one, and nothing is
executed. R361: a call does the same and leaves the address of the next instruction in its destination pair, in the
lanes of E. -/
def Obligations.BranchResults : Prop :=
  ((∀ (f : CtlF) (s : State) (w : Wave) (p : Path),
    let jumps := fun (i : Instr) (own : Bool) => Ready s i w p →
      (∀ l, l < 32 → (workMask ⟨s, w, p⟩ f.h.g).getLsbD l = true → (branchGoal own f s w p l).toNat % 4 = 0) →
      ∃ v, exec i s = .next (setWave s s.cur v) ∧ Moved w v p (branchGoal own f s w p)
    jumps (.bra f) true ∧ jumps (.braAbs f) false ∧ jumps (.brx f) false ∧ jumps (.ret f) false) ∧
   (∀ (f : CtlF) (s : State) (w : Wave) (p : Path),
    let traps := fun (i : Instr) (own : Bool) => Ready s i w p → ∀ m : Mask, m ≠ 0 →
      (∀ l, l < 32 → (m.getLsbD l = true ↔ (workMask ⟨s, w, p⟩ f.h.g).getLsbD l = true ∧
        (branchGoal own f s w p l).toNat % 4 ≠ 0)) →
      exec i s = .next (trapNow s cIllegalOpnd 4 (entryMask w p f.h.g) m 0)
    traps (.bra f) true ∧ traps (.braAbs f) false ∧ traps (.brx f) false ∧ traps (.ret f) false ∧
      traps (.call f) true ∧ traps (.callAbs f) false ∧ traps (.callx f) false)) ∧
  (∀ (f : CtlF) (s : State) (w : Wave) (p : Path),
   let calls := fun (i : Instr) (own : Bool) => Ready s i w p →
     (∀ l, l < 32 → (workMask ⟨s, w, p⟩ f.h.g).getLsbD l = true → (branchGoal own f s w p l).toNat % 4 = 0) →
     ∃ u v, exec i s = .next (setWave s s.cur v) ∧
       DstHas w u f.h.dst 2 (workMask ⟨s, w, p⟩ f.h.g) (fun _ => (p.pc + 12).toNat) ∧
       Moved u v p (branchGoal own f s w p)
   calls (.call f) true ∧ calls (.callAbs f) false ∧ calls (.callx f) false)

/-- R307, R308: a `pfx` feeds the instruction 12 bytes after it with its immediate; between the two its path neither
merges nor counts. R363: a `wsync` whose threads are all on the path retires; one that lacks a thread makes its path
wait for the mask. R212, R364: an `exit` ends the threads of E; a wave without a path has ended. -/
def Obligations.PathControl : Prop := ∀ (s : State) (w : Wave) (p : Path),
  (∀ imm, Ready s (.pfx imm) w p → p.fed = none → ∃ v, exec (.pfx imm) s = .next (setWave s s.cur v) ∧
    curPath v = some { p with pc := p.pc + 12, fed := some imm, st := .live } ∧ v.regs = w.regs ∧ v.preds = w.preds ∧
    v.retired = w.retired ∧ v.queue = w.queue) ∧
  (∀ f, Ready s (.wsync f) w p → wsyncMask f ⟨s, w, p⟩ = p.mask →
    exec (.wsync f) s = .next (retire s s.cur w)) ∧
  (∀ f, Ready s (.wsync f) w p → p.mask &&& ~~~(wsyncMask f ⟨s, w, p⟩) = 0 → wsyncMask f ⟨s, w, p⟩ &&& ~~~p.mask ≠ 0 →
    w.handler = none → ∃ v, exec (.wsync f) s = .next (setWave s s.cur v) ∧
      ∀ l, l < 32 → p.mask.getLsbD l = true → StandsAt v l (pathPc p)) ∧
  (∀ f, Ready s (.exit f) w p → w.handler = none → (workMask ⟨s, w, p⟩ f.h.g) ≠ 0 →
    p.mask &&& ~~~(workMask ⟨s, w, p⟩ f.h.g) ≠ 0 → oneLane w = false →
    ∃ v, exec (.exit f) s = .next (setWave s s.cur v) ∧
      ∀ l, l < 32 → p.mask.getLsbD l = true → (workMask ⟨s, w, p⟩ f.h.g).getLsbD l = false →
        StandsAt v l (p.pc + 12)) ∧
  (∀ f, Ready s (.exit f) w p → w.handler = none → (w.wg = none ∨ 128 ≤ s.cur) → p.mask &&& ~~~(workMask ⟨s, w, p⟩ f.h.g) = 0 →
    p.mask ≠ 0 → getSlot w (1 - w.cur) = none → w.queue = [] → w.arrive = none →
    ∃ t, exec (.exit f) s = .next t ∧ waveEnded (getWave t s.cur) = true)

/-- R196, R197: a `mov` to rseed or fpctl of one value in every lane of E writes that value; fpctl keeps only its
defined bits, and in handler mode the interrupted fpctl stays. R260, R359: `lget` gives every lane of E the value that
the register or predicate SA has in lane SB; `lput` writes lane SB of d, in user mode only where E has that lane; both
trap on a lane number above 31. In handler mode they name the interrupted state. -/
def Obligations.RegisterMoves : Prop :=
  (∀ (f : ArithF) (s : State) (w : Wave) (p : Path) (b : Nat),
   Ready s (.mov f) w p → workMask ⟨s, w, p⟩ f.h.g ≠ 0 →
   (∀ l, l < 32 → (workMask ⟨s, w, p⟩ f.h.g).getLsbD l = true → bitsA f ⟨s, w, p⟩ l = b) →
   (f.h.dst = .sreg .rseed → exec (.mov f) s = .next (retire s s.cur { w with rseed := BitVec.ofNat 32 b })) ∧
   (f.h.dst = .sreg .fpctl → ∃ v, exec (.mov f) s = .next (retire s s.cur v) ∧
     readFpctl v = BitVec.ofNat 32 b &&& 0x001F1F00 ∧ v = { w with fpctl := v.fpctl, handler := v.handler } ∧
     (w.handler.isSome → v.fpctl = w.fpctl) ∧ (w.handler = none → v.handler = none))) ∧
  (∀ (f : ArithF) (s : State) (w : Wave) (p : Path),
   let x : Rd := ⟨s, w, p⟩
   let e := workMask x f.h.g
   let b := laneIndex f x
   (Ready s (.lget f) w p → e ≠ 0 → b < 32 → ∃ v, exec (.lget f) s = .next (retire s s.cur v) ∧
     DstHas w v f.h.dst 1 e (fun _ => laneRead x f.h.sa b)) ∧
   (Ready s (.lput f) w p → e ≠ 0 → b < 32 → (w.handler.isSome = true ∨ e.getLsbD b = true) → ∀ n, f.h.dst = .v n →
     ∃ v, exec (.lput f) s = .next (retire s s.cur v) ∧ v = { w with regs := v.regs } ∧
       regLane (Tab.get (.u 0) v.regs n.toNat) b = BitVec.ofNat 32 (opnd x .b32 f.hi f.h.sa 0) ∧
       (w.general = false → ∀ l, l < 32 → l ≠ b →
         regLane (Tab.get (.u 0) v.regs n.toNat) l = regLane (Tab.get (.u 0) w.regs n.toNat) l) ∧
       (∀ k, k ≠ n.toNat → Tab.get (.u 0) v.regs k = Tab.get (.u 0) w.regs k)) ∧
   (Ready s (.lput f) w p → e ≠ 0 → b < 32 → (w.handler.isSome = true ∨ e.getLsbD b = true) → ∀ q, f.h.dst = .p q →
     ∃ v, exec (.lput f) s = .next (retire s s.cur v) ∧ v = { w with preds := v.preds } ∧
       (∀ l, l < 32 → (Tab.get 0 v.preds q.toNat).getLsbD l =
         if l = b then decide (opnd x .b32 f.hi f.h.sa 0 ≠ 0) else (Tab.get 0 w.preds q.toNat).getLsbD l) ∧
       (∀ k, k ≠ q.toNat → Tab.get 0 v.preds k = Tab.get 0 w.preds k)) ∧
   (Ready s (.lput f) w p → e ≠ 0 → b < 32 → w.handler = none → e.getLsbD b = false →
     exec (.lput f) s = .next (retire s s.cur w)) ∧
   (∀ i, i = .lget f ∨ i = .lput f → Ready s i w p → e ≠ 0 → 32 ≤ b →
     exec i s = .next (trapNow s cIllegalOpnd 4 (entryMask w p f.h.g) e 0)))

/-! ## Traps and returns (R251-R264, R278, R433) -/

/-- R200, R252, R258: a precise trap of a user wave whose context's handler takes the cause enters that handler. -/
def Obligations.HandlerEntry : Prop := ∀ (s : State) (w : Wave) (p : Path) (cause sub : Nat) (e lanes : Mask) (addr : DWord),
  getWave s s.cur = w → curPath w = some p → Handles s w p cause sub →
  HandlerEntered s (trapNow s cause sub e lanes addr) w p cause sub lanes addr

/-- R364: `trap` with a nonempty E is the software trap, SUB n, of the lanes of E, and `brkpt` the breakpoint; with an
empty E both only retire. R261, R433: `tret` leaves the handler for the trapped path: `.re` executes its instruction
again in the lanes that had entered it, `.skipf` in those that did not fault, or past it when none is left, `.skip`
past it. Registers and predicates are those of the interrupted state. -/
def Obligations.TrapInstructions : Prop :=
  (∀ (f : CtlF) (s : State) (w : Wave) (p : Path),
   let e := workMask ⟨s, w, p⟩ f.h.g
   (Ready s (.trap f) w p → e ≠ 0 → Handles s w p cSoftTrap (f.imm.toNat % 256) →
     ∃ t, exec (.trap f) s = .next t ∧ HandlerEntered s t w p cSoftTrap (f.imm.toNat % 256) e 0) ∧
   (Ready s (.brkpt f) w p → e ≠ 0 → Handles s w p cBreakpoint 0 →
     ∃ t, exec (.brkpt f) s = .next t ∧ HandlerEntered s t w p cBreakpoint 0 e 0) ∧
   (Ready s (.trap f) w p → e = 0 → exec (.trap f) s = .next (retire s s.cur w)) ∧
   (Ready s (.brkpt f) w p → e = 0 → exec (.brkpt f) s = .next (retire s s.cur w))) ∧
  (∀ (f : GenF) (s : State) (w : Wave) (p q : Path) (h : Handler),
   w.general = false → w.handler = some h → h.restored = false → h.trap.deferred = false → h.trap.restored = false →
   h.trap.atomDone = false →
   getSlot { w with cur := h.trap.slot } h.trap.slot = some q →
   let left := h.trap.emask &&& ~~~h.trap.fmask
   let after := h.trap.pc + (if h.trap.fed then 24 else 12)
   let back := fun (i : Instr) (m : Mask) => ∃ t, exec i s = .next t ∧ (getWave t s.cur).handler = none ∧
     curPath (getWave t s.cur) = some { q with cut := some m } ∧ (getWave t s.cur).regs = w.regs ∧
     (getWave t s.cur).preds = w.preds ∧ (getWave t s.cur).fpctl = w.fpctl
   let past := fun (i : Instr) => ∃ t, exec i s = .next t ∧ (getWave t s.cur).handler = none ∧
     (∀ l, l < 32 → q.mask.getLsbD l = true → StandsAt (getWave t s.cur) l after) ∧
     (getWave t s.cur).regs = w.regs ∧ (getWave t s.cur).preds = w.preds ∧ (getWave t s.cur).fpctl = w.fpctl
   (Ready s (.tretRe f) w p → back (.tretRe f) h.trap.emask) ∧
   (Ready s (.tretSkipf f) w p → left ≠ 0 → back (.tretSkipf f) left) ∧
   (Ready s (.tretSkipf f) w p → left = 0 → past (.tretSkipf f)) ∧
   (Ready s (.tretSkip f) w p → past (.tretSkip f)))

/-- R278: a trap of a general-core thread in user mode enters supervisor mode at the trap vector of its hub, and keeps
the cause, SUB, PC and address. A trap in supervisor mode takes the hub down. R263, R264: a trap that no handler takes
stops its workgroup: the wave stands at its boundary with the trap, and while another wave of the group has not
stopped the group is halting with the trap's cause and SUB. -/
def Obligations.OtherTrapEntries : Prop :=
  (∀ (s : State) (w : Wave) (p : Path) (cause sub : Nat) (e lanes : Mask) (addr : DWord),
   getWave s s.cur = w → curPath w = some p → w.general = true → w.handler = none →
   let t := trapNow s cause sub e lanes addr
   let v := getWave t s.cur
   (w.sup = false → v.sup = true ∧ v.slot0 = some { pc := (getNode s w.node).trapVec, mask := 1 } ∧ v.regs = w.regs ∧
     ∃ r, v.trapped = some r ∧ r.cause = cause ∧ r.sub = sub ∧ r.pc = pathPc p ∧ r.addr = addr) ∧
   (w.sup = true → t = dieDown (if cause = cEcc ∧ 3 ≤ sub then countUe (rewind s s.cur) w.node sub else rewind s s.cur)
     w.node)) ∧
  (∀ (s : State) (w : Wave) (p : Path) (cause sub : Nat) (e lanes : Mask)
     (addr : DWord) (k j : Nat) (g : Workgroup),
   getWave s s.cur = w → curPath w = some p → w.general = false → w.handler = none → w.run = .run →
   handlerTakes (getCtx s w.asid) (preciseTrap w p cause sub 0 0 0) = false →
   w.wg = some k → getWg s k = some g → g.st = .resident → g.gstop = true → j ∈ g.waves → j ≠ s.cur →
   (Tab.find s.waves j).isSome = true → waveEnded (getWave s j) = false → (getWave s j).run = .run →
   let t := trapNow s cause sub e lanes addr
   (getWave t s.cur).run = .stopped 0 ∧
   (∃ r, (getWave t s.cur).trapped = some r ∧ r.cause = cause ∧ r.sub = sub ∧ r.pc = pathPc p ∧ r.fmask = lanes) ∧
   (∃ g', getWg t k = some g' ∧ ∃ hold, g'.st = .halting cause sub hold))

/-! ## Memory instructions (R366-R380) -/

/-- R371, R297: a plain load of a compute wave whose bytes its core holds gives each lane of E the little-endian value
at its address, extended as the instruction says, and nothing is written. R374: `pref` retires and changes no
register, predicate or scratchpad byte. -/
def Obligations.LoadResults : Prop :=
  (∀ (sx : Bool) (f : MemF) (s : State) (w : Wave) (p : Path),
   let x : Rd := ⟨s, w, p⟩
   let n := sizeBytes f.size
   let loads := fun (i : Instr) => Ready s i w p → w.general = false → w.op = {} → f.ord = .plain →
     LanesAllowed s w .read false n (laneAddrs f x) → egressFull s w n (laneAddrs f x) = false →
     CoreHolds s w n (laneAddrs f x) →
     ∃ v, exec i s = .next (retire s s.cur v) ∧ DstHas w v f.h.dst (sizeWords n) (workMask x f.h.g)
       (fun l => extendLoad sx n (coreValue s w (globalAddr f x l) n))
   loads (.ld sx f) ∧ loads (.ldc sx f)) ∧
  (∀ (lvl : PrefLevel) (f : MemF) (s : State) (w : Wave) (p : Path),
   Ready s (.pref lvl f) w p → ∃ u, exec (.pref lvl f) s = .next (retire u s.cur w) ∧ u.waves = s.waves ∧
     u.cores = s.cores ∧ u.mem = s.mem)

/-- R203, R372, R373: a plain store of a compute wave, and a relaxed one that makes no release, retires with its lanes'
bytes in ascending order at the end of the wave's store queue, and changes nothing else; so does `stm`. A release store
is made at its retirement, lane by lane. The lanes of the oldest queued store leave the queue in ascending order, each
as a store at its own address (R6). R75: the bytes of a plain store within one line, to a cached page and without a
race, stand dirty in the L2 of the storing core's quad at the address stored to; every other byte of that line and
every other line of every L2 stays, and so do memory, the scratchpads and the registers of every wave. -/
def Obligations.StoreResults : Prop :=
  (∀ (f : MemF) (s : State) (w : Wave) (p : Path),
   let x : Rd := ⟨s, w, p⟩
   let n := sizeBytes f.size
   let ls := laneAddrs f x
   let bytes := fun (l : Nat) => bytesOfNat n (dataOpnd f n f.h.sb x l)
   let ok := workMask x f.h.g ≠ 0 ∧ w.general = false ∧ w.op = {} ∧ egressFull s w n ls = false ∧
     LanesAllowed s w .write (f.ord != .plain) n ls ∧ (f.ord ≠ .plain → ordBusy w (needMap w.asid n ls) = false)
   let queued := fun (i : Instr) (multi : Bool) => Ready s i w p → ok → queueFull w = false →
     f.ord = .plain ∨ (f.ord = .rlx ∧ relaxedReleases w f.scope = false) →
     let v := { w with sq := w.sq ++ [{ k := .glb (if f.ord = .plain then none else some f.scope) multi,
                                        hnd := w.handler.isSome, lanes := ls.map (fun y => (y.1, y.2, bytes y.1)) }] }
     exec i s = .next (retire (setWave s s.cur v) s.cur v)
   let made := fun (i : Instr) (lane : State → LaneAddr → State) => Ready s i w p → ok → w.sq = [] →
     (f.ord = .rlx → relaxedReleases w f.scope = true →
       ∃ u, exec i s = .next (retire u s.cur (getWave u s.cur)) ∧ u = ls.foldl lane s) ∧
     (f.ord ≠ .plain → f.ord ≠ .rlx → releaseWaits s s.cur f.scope = false → requestsFull s w = false →
       ∃ u, exec i s = .next (retire u s.cur (getWave u s.cur)) ∧ u = releaseMade (ls.foldl lane s) s.cur f.scope)
   queued (.st f) false ∧ queued (.stm f) true ∧
   made (.st f) (fun t y => releaseLane t s.cur (storeAt w y) (bytes y.1) f.scope) ∧
   made (.stm f) (fun t y => multicastRel t s.cur (storeAt w y) (bytes y.1) f.scope)) ∧
  (∀ (s : State) (id : Nat) (e : SqEnt) (x : Nat × DWord × List Byte) (r : List SqEnt) (l : List (Nat × DWord × List Byte)),
   (getWave s id).sq = e :: r → e.lanes = x :: l → e.k = .glb none false →
   drainOne s id = storeLane (setWave s id { getWave s id with sq := if l.isEmpty then r else { e with lanes := l } :: r })
     id (x.1, x.2.1, e.hnd) x.2.2 .plain) ∧
  (∀ (s : State) (id lane : Nat) (hnd : Bool) (va : DWord) (l : List Byte) (h : Nat),
   let w := getWave s id
   let k := lineKey (asidOf w.asid va) (va54 va / 128)
   let o := va54 va % 128
   l ≠ [] → o + l.length ≤ 128 → w.asid < 16384 → homeAt s w.node (lineAsid k) (lineNo k * 128) = some h →
   lineUncached s h k = false → tokenBars s h k (BitVec.allOnes 32) (waveAgent s w) = 0 →
   (h = w.node ∨ dieHeld s w.node w.unit k (BitVec.allOnes 32) = 0) →
   let t := storeLane s id (lane, va, hnd) l .plain
   let c := l2Of w.node w.unit
   (∀ i, i < l.length → lineByte (getLine t.l2 c k) (o + i) = byteAt l i ∧
     (getLine t.l2 c k).valid.getLsbD (o + i) = true ∧ (getLine t.l2 c k).dirty.getLsbD (o + i) = true) ∧
   (∀ j, j < 128 → (j < o ∨ o + l.length ≤ j) → lineByte (getLine t.l2 c k) j = lineByte (getLine s.l2 c k) j ∧
     (getLine t.l2 c k).valid.getLsbD j = (getLine s.l2 c k).valid.getLsbD j ∧
     (getLine t.l2 c k).dirty.getLsbD j = (getLine s.l2 c k).dirty.getLsbD j) ∧
   (∀ c' k', cacheKey c' k' ≠ cacheKey c k → getLine t.l2 c' k' = getLine s.l2 c' k') ∧
   t.mem = s.mem ∧ t.memKey = s.memKey ∧ t.cores = s.cores ∧
   (∀ j, (getWave t j).regs = (getWave s j).regs ∧ (getWave t j).preds = (getWave s j).preds))

/-- R204, R371, R376: a scratchpad load gives each lane of E the bytes of the allocation at its offset, those of the
wave's own queued stores included; an acquire form also acquires at `wg` scope. `ldfe` gives the full bits of 32 lines. -/
def Obligations.ScratchLoadResults : Prop := ∀ (f : MemF) (s : State) (w : Wave) (p : Path),
  let x : Rd := ⟨s, w, p⟩
  let n := sizeBytes f.size
  let e := workMask x f.h.g
  (∀ sx, Ready s (.lds sx f) w p → e ≠ 0 → sqMarks w = false →
    ScratchOk s w p (entryMask w p f.h.g) true false (f.ord != .plain) (fun _ => n) (laneOffsets f x) →
    ∃ v, DstHas w v f.h.dst (sizeWords n) e (fun l => extendLoad sx n (scrReadQueued s w (scratchAddr f x l) n)) ∧
      (f.ord = .plain ∨ f.ord = .rlx → exec (.lds sx f) s = .next (retire (setWave s s.cur v) s.cur v)) ∧
      (f.ord ≠ .plain → f.ord ≠ .rlx → ∃ u, exec (.lds sx f) s = .next (retire u s.cur (getWave u s.cur)) ∧
        u = acquireEffects (setWave s s.cur v) s.cur .wg f.rset.toNat [])) ∧
  (Ready s (.ldfe f) w p → w.home = none → ∃ v, exec (.ldfe f) s = .next (retire s s.cur v) ∧
    DstHas w v f.h.dst 1 e (fun l => fullBits s w (scratchAddr f x l)))

/-- R203, R372, R376: `sts`, `sete` and `setf` retire with what they write at the end of the wave's store queue, the lanes
in ascending order; a release `sts` waits until the queue is empty. As its lanes leave the queue, `sts` writes their
bytes into the core's scratchpad, `sete` marks the lines of their ranges empty and `setf` marks them full. R225, R248: a
write of bytes into a scratchpad changes those bytes of that core and no other byte of any scratchpad, accumulator or
memory; of the waves it changes only monitors that it fires. -/
def Obligations.ScratchStoreResults : Prop :=
  (∀ (f : MemF) (s : State) (w : Wave) (p : Path),
   let x : Rd := ⟨s, w, p⟩
   let n := sizeBytes f.size
   let e := workMask x f.h.g
   let queued := fun (i : Instr) (k : SqK) (align : Bool) (c : Nat → Nat) (bytes : Nat → List Byte) => Ready s i w p → e ≠ 0 →
     queueFull w = false → ScratchOk s w p (entryMask w p f.h.g) false true align c (laneOffsets f x) →
     let v := { w with sq := w.sq ++ [{ k := k, hnd := w.handler.isSome,
                                        lanes := (laneOffsets f x).map (fun y => (y.1, BitVec.ofNat 64 y.2, bytes y.1)) }] }
     w.general = false → exec i s = .next (retire (setWave s s.cur v) s.cur v)
   (f.ord ≠ .rel ∨ w.sq = [] → queued (.sts f) .scr (f.ord != .plain) (fun _ => n)
     (fun l => bytesOfNat n (dataOpnd f n f.h.sb x l))) ∧
   queued (.sete f) (.mark false) false (feCount f x) (fun l => bytesOfNat 4 (feCount f x l)) ∧
   queued (.setf f) (.mark true) false (feCount f x) (fun l => bytesOfNat 4 (feCount f x l))) ∧
  (∀ (s : State) (id : Nat) (e : SqEnt) (y : Nat × DWord × List Byte),
   let w := getWave s id
   let a := (scrAlloc s w).1 + y.2.1.toNat
   let fe := fun (t : State) (i : Nat) => (Tab.find (getCore t (waveCore w)).empty i).isSome
   let t := drainLane s id e y
   (e.k = .scr → t = scrWrite s (waveCore w) a y.2.2) ∧
   (e.k = .mark false → ∀ i, fe t i = (fe s i || (linesOf a (natOfBytes y.2.2)).contains i)) ∧
   (e.k = .mark true → ∀ i, fe t i = (fe s i && !(linesOf a (natOfBytes y.2.2)).contains i))) ∧
  (∀ (s : State) (ck a : Nat) (l : List Byte),
   let t := scrWrite s ck a l
   (∀ b, Tab.get 0 (getCore t ck).scr b = if a ≤ b ∧ b < a + l.length then byteAt l (b - a) else Tab.get 0 (getCore s ck).scr b) ∧
   (∀ c, c ≠ ck → getCore t c = getCore s c) ∧ (getCore t ck).acc = (getCore s ck).acc ∧
   (getCore t ck).empty = (getCore s ck).empty ∧ t.mem = s.mem ∧ t.l2 = s.l2 ∧ t.llc = s.llc ∧
   (∀ j, ∃ m, getWave t j = { getWave s j with mon := m }))

/-- R379: a scratchpad atomic takes its lanes in ascending order, each on what the ones below left; the atomics that
return give each lane of E the old value; an acquire form also acquires at `wg` scope. R379: one lane of a scratchpad atomic on n bytes that lie within the
scratchpad reads them, and writes the new value there and nowhere else. -/
def Obligations.ScratchAtomicResults : Prop :=
  (∀ (f : MemF) (s : State) (w : Wave) (p : Path),
   let x : Rd := ⟨s, w, p⟩
   let n := sizeBytes f.size
   let e := workMask x f.h.g
   let off := (scrAlloc s w).1
   let ok := e ≠ 0 ∧
     ScratchOk s w p (entryMask w p f.h.g) true true true (fun _ => n) (laneOffsets f x)
   let lanes := fun (new : Nat → Nat → Nat) => scrAtomLanes (waveCore w) off n new (laneOffsets f x) s
   let ends := fun (i : Instr) (u : State) (v : Wave) =>
     let t := setWave u s.cur v
     (ordAcquires f.ord = false → exec i s = .next (retire t s.cur v)) ∧
     (ordAcquires f.ord = true → ∃ t', exec i s = .next (retire t' s.cur (getWave t' s.cur)) ∧
       t' = acquireEffects t s.cur .wg f.rset.toNat [])
   let gives := fun (i : Instr) (new : Nat → Nat → Nat) => Ready s i w p → ok →
     ∃ u v, ends i u v ∧ u = (lanes new).1 ∧
       ∃ v', DstHas w v' f.h.dst (sizeWords n) e (fun l => Tab.get 0 (lanes new).2 l) ∧ v = { v' with mon := v.mon }
   (∀ o, gives (.atoms o f) (fun l old => atomNew o (8 * n) old (atomData o f x l))) ∧
   gives (.acass f) (fun l old => if old = dataOpnd f n f.h.sc x l then dataOpnd f n f.h.sb x l else old) ∧
   (∀ o, Ready s (.reds o f) w p → ok → ∃ u v, ends (.reds o f) u v ∧
     u = (lanes (fun l old => atomNew o (8 * n) old (atomData o f x l))).1 ∧ v = { w with mon := v.mon })) ∧
  (∀ (ck off n : Nat) (new : Nat → Nat → Nat) (y : Nat × Nat)
     (r : List (Nat × Nat)) (s : State),
   let old := scrRead s ck (off + y.2) n
   let u := scrWrite s ck (off + y.2) (bytesOfNat n (new y.1 old))
   new y.1 old < 2 ^ (8 * n) →
   scrRead u ck (off + y.2) n = new y.1 old ∧
   (scrAtomLanes ck off n new (y :: r) s).1 = (scrAtomLanes ck off n new r u).1 ∧
   (∀ l, l ≠ y.1 → Tab.get 0 (scrAtomLanes ck off n new (y :: r) s).2 l = Tab.get 0 (scrAtomLanes ck off n new r u).2 l) ∧
   Tab.get 0 (scrAtomLanes ck off n new (y :: r) s).2 y.1 = old)

/-- R6, R233, R379, R380: a global atomic of a compute wave takes its lanes in ascending order, each at its home; when
every lane has been performed, `atom` and `acas` give each lane of E its old value and `red` gives nothing. Where the premise
holds no home makes the instruction wait or refuses it; what one lane does is the second clause. R88, R379: one lane
of a global atomic on words that stand at their home, its bytes being aligned: the old value is the home's, the home
then holds the new value there, and every other byte of the line and all of memory keep theirs. -/
def Obligations.GlobalAtomicResults : Prop :=
  (∀ (f : MemF) (s : State) (w : Wave) (p : Path),
   let x : Rd := ⟨s, w, p⟩
   let n := sizeBytes f.size
   let e := workMask x f.h.g
   let lanes := fun (fn : AtomFn) => atomLanes s.cur p f fn (laneAddrs f x) (atomStart f s)
   let ok := fun (fn : AtomFn) => w.general = false ∧ w.op = {} ∧ atomHeld s w f (laneAddrs f x) = false ∧
     requestsFull s w = false ∧ e ≠ 0 ∧ LanesAllowed s w .write true n (laneAddrs f x) ∧ egressFull s w n (laneAddrs f x) = false ∧
     (ordReleases f.ord = true → releaseWaits s s.cur f.scope = false) ∧
     (lanes fn).2 = true ∧ (getWave (lanes fn).1 s.cur).op.errs = []
   let kept := fun (u : State) => (getWave u s.cur).regs = w.regs ∧ (getWave u s.cur).preds = w.preds
   let gives := fun (i : Instr) (fn : AtomFn) => Ready s i w p → ok fn →
     ∃ u v, exec i s = .next (retire u s.cur v) ∧ kept u ∧ DstHas (getWave u s.cur) v f.h.dst (sizeWords n) e
       (fun l => Tab.get 0 (getWave (lanes fn).1 s.cur).op.vals l)
   (∀ o, gives (.atom o f) (atomFn o f)) ∧ gives (.acas f) (casFn f) ∧
   (∀ o, Ready s (.red o f) w p → ok (atomFn o f) →
     ∃ u, exec (.red o f) s = .next (retire u s.cur (getWave u s.cur)) ∧ kept u)) ∧
  (∀ (f : MemF) (s u : State) (id h : Nat) (q : Phys) (va : DWord) (new : Nat → Nat),
   let w := getWave s id
   let n := sizeBytes f.size
   let k := lineKey (asidOf w.asid va) (va54 va / 128)
   let o := va54 va % 128
   let old := homeNumber u h k q o n
   let r := atomLane s id f va new
   HomeReach s id .write .write n va h q u → q.repl = 0 → va.toNat % n = 0 → w.asid < 16384 →
   new old < 2 ^ (8 * n) →
   r.2 = .done old ∧ homeNumber r.1 h k q o n = new old ∧
   (∀ i, i < 128 → (i < o ∨ o + n ≤ i) → lineByte (homeData r.1 h k q) i = lineByte (homeData u h k q) i) ∧
   (∀ i, i < 32 → (wordsOf o n).getLsbD i = true → wordSt r.1 k i = .v) ∧ r.1.mem = u.mem)

/-! ## Synchronisation (R234, R243-R250, R381-R395) -/

/-- R234, R381, R382: a fence whose waits are over retires: a release fence leaves its scope for the relaxed stores
after it, an acquire fence discards the kept releasers; registers and predicates stay. While a release still waits the
fence stands. `sinv` invalidates and retires. R384: `drain` makes its core a releaser that has received DRAIN over the
region set, and retires when what it then sent has been acknowledged. R83: self-invalidation drops from the core's L1
every word of the set that is not registered to the core; it keeps every dirty byte, and
leaves the other L1s, and the L2 and LLC unless the scope reaches them. -/
def Obligations.FenceResults : Prop :=
  ((∀ (f : MemF) (s : State) (w : Wave) (p : Path),
    let e := workMask ⟨s, w, p⟩ f.h.g
    (Ready s (.fence f) w p → e ≠ 0 → (ordReleases f.ord = true → releaseWaits s s.cur f.scope = false) →
      (ordAcquires f.ord = true → keptWaits s w = false) →
      ∃ u o, exec (.fence f) s = .next (retire u s.cur (getWave u s.cur)) ∧ u.mem = s.mem ∧
        getWave u s.cur = { w with op := o, relFence := if ordReleases f.ord then some f.scope else none,
                                   kept := if ordAcquires f.ord then [] else w.kept,
                                   keptTag := if ordAcquires f.ord then [] else w.keptTag }) ∧
    (Ready s (.fence f) w p → e ≠ 0 → ordReleases f.ord = true → releaseWaits s s.cur f.scope = true →
      exec (.fence f) s = .next (opWait s s.cur)) ∧
    (Ready s (.sinv f) w p → e ≠ 0 → exec (.sinv f) s = .next (retire
      (selfInvalidate s w.node w.unit w.asid f.scope (rsetRanges s w.asid f.rset.toNat)) s.cur w))) ∧
   (∀ (f : MemF) (s : State) (w : Wave) (p : Path),
    Ready s (.drainInsn f) w p → workMask ⟨s, w, p⟩ f.h.g ≠ 0 →
    (w.op.drains = 0 → ∃ u tag, exec (.drainInsn f) s = .next (startDrain u (waveAgent s w)
        (decide (3 ≤ scopeRank f.scope)) w.asid (drainRanges s w f) (waveAgent s w) tag) ∧
      (getWave u s.cur).op.drains = tag ∧ u.regions = s.regions ∧ u.l2 = s.l2 ∧ u.llc = s.llc) ∧
    (w.op.drains ≠ 0 → drainBusy s w w.op.drains = true → exec (.drainInsn f) s = .next s) ∧
    (w.op.drains ≠ 0 → drainBusy s w w.op.drains = false → exec (.drainInsn f) s = .next (retire s s.cur w)))) ∧
  (∀ (s : State) (node unit asid : Nat) (sc : Scope) (r : Option (List Range)),
   let u := selfInvalidate s node unit asid sc r
   let home := fun (k : Nat) => (homeOf s (lineAsid k) (lineNo k * 128)).getD 99
   (∀ k i, k < 2 ^ 61 → i < 128 → inView asid k = true → rangesWord r (lineNo k) (i / 4) = true →
     coreRegistered s node unit k (i / 4) (home k) = false →
     (getLine u.l1 (l1Of node unit) k).valid.getLsbD i = false) ∧
   (∀ k i, k < 2 ^ 61 → i < 128 → (getLine s.l2 (l2Of node unit) k).dirty.getLsbD i = true →
     (getLine u.l2 (l2Of node unit) k).dirty.getLsbD i = true ∧
     (getLine u.l2 (l2Of node unit) k).valid.getLsbD i = (getLine s.l2 (l2Of node unit) k).valid.getLsbD i) ∧
   (∀ c k, k < 2 ^ 61 → c ≠ l1Of node unit → getLine u.l1 c k = getLine s.l1 c k) ∧
   (scopeRank sc < 2 → u.l2 = s.l2) ∧ (scopeRank sc < 3 → u.llc = s.llc))

/-- R90, R91, R385-R388: `racq` of a held token invalidates the region at `pkg` scope and retires; of another token it sends
TOK_ACQ to the home and blocks its path. `rrel` by the holder sends TOK_REL and retires; by another core it is a token
violation. `rtst` reads the token's word. An address in no token region, or of a lost die, traps. -/
def Obligations.TokenInstructions : Prop := ∀ (f : MemF) (s : State) (w : Wave) (p : Path) (h : Nat) (t : Token),
  let x : Rd := ⟨s, w, p⟩
  let e := workMask x f.h.g
  let va := oneAddr f x
  let found := tokenAt s w va = .ok (h, t) ∧ tokenHolds s w h va = false
  let dest := if f.h.sb = .null then none else some (dataOpnd f 4 f.h.sb x 0)
  (Ready s (.racq f) w p → e ≠ 0 → p.st = .live → found → t.holder = some (waveAgent s w) → tokenLeaving s t = false →
    let v := selfInvalidate s w.node w.unit w.asid .pkg (some [{ lo := t.base, hi := t.base + t.size }])
    ∃ u, exec (.racq f) s = .next (retire u s.cur w) ∧ u.waves = s.waves ∧ u.l1 = v.l1 ∧ u.l2 = v.l2 ∧ u.llc = v.llc) ∧
  (Ready s (.racq f) w p → e ≠ 0 → p.st = .live → found → t.holder ≠ some (waveAgent s w) → s.rehome = none →
    ∃ u r, exec (.racq f) s = .next u ∧ r.agent = waveAgent s w ∧ r.wave = s.cur ∧
      Travels u w.node h (.tokAcq r (asidOf w.asid va) (va54 va)) ∧
      (curPath (getWave u s.cur)).map (fun q => q.st) = some (.blocked (.racq r.id none))) ∧
  (Ready s (.rrel f) w p → e ≠ 0 → found → dest.any (badRecipient s) = false → t.holder = some (waveAgent s w) →
    tokenLeaving s t = false → releaseWaits s s.cur .pkg = false → s.rehome = none →
    ∃ u es, exec (.rrel f) s = .next (retire u s.cur w) ∧ getWave u s.cur = w ∧
      Travels u w.node h (.tokRel (waveAgent s w) t.asid t.base dest es)) ∧
  (Ready s (.rrel f) w p → e ≠ 0 → found → dest.any (badRecipient s) = false → t.holder ≠ some (waveAgent s w) →
    exec (.rrel f) s = .next (trapNow s cToken 0 (entryMask w p f.h.g) e va)) ∧
  (Ready s (.rtst f) w p → e ≠ 0 → found → ∃ v, exec (.rtst f) s = .next (retire s s.cur v) ∧
    DstHas w v f.h.dst 1 e (fun _ => tokenWord (waveAgent s w) t)) ∧
  (∀ c, tokenAt s w va = .error c → e ≠ 0 → p.st = .live → ∀ i, i = .racq f ∨ i = .rtst f → Ready s i w p →
    exec i s = .next (trapNow s c.cause c.sub (entryMask w p f.h.g) e va))

/-- R248, R389: `mon` of a global word that stands at its home arms the wave's monitor, leaves a watch at the home and returns
the home's value; of a scratchpad word it arms the monitor and returns the bytes there. R249, R390: `mwait` returns with
the code of a monitor that has fired, or 5 without one, and disarms it; otherwise its path blocks. A wake-up whose cause
is there completes it with its code. -/
def Obligations.MonitorResults : Prop := ∀ (f : MemF) (s : State) (w : Wave) (p : Path),
  let x : Rd := ⟨s, w, p⟩
  let n := sizeBytes f.size
  let e := workMask x f.h.g
  (∀ u h q y, Ready s (.mon f) w p → f.space ≠ .scr → w.general = false → w.op = {} → w.pend = [] →
    (laneAddrs f x).head? = some y → LanesAllowed s w .read true n (laneAddrs f x) →
    egressFull s w n (laneAddrs f x) = false → HomeReach (opWait s s.cur) s.cur .read .read n y.2 h q u → q.repl = 0 →
    ∃ t v, exec (.mon f) s = .next (retire t s.cur v) ∧
      DstHas { getWave t s.cur with mon := some { scr := false, addr := y.2, size := n } } v f.h.dst (sizeWords n) e
        (fun _ => homeNumber u h (lineKey (asidOf w.asid y.2) (va54 y.2 / 128)) q (va54 y.2 % 128) n) ∧
      ({ node := h, asid := asidOf w.asid y.2, addr := va54 y.2, size := n, wave := s.cur } : Watch) ∈ t.watches) ∧
  (∀ y, Ready s (.mon f) w p → f.space = .scr → (laneOffsets f x).head? = some y →
    checkScratch s w p (entryMask w p f.h.g) false true (fun _ => n) (laneOffsets f x) = none →
    scrRetireTrap s w p (entryMask w p f.h.g) true false (fun _ => n) (laneOffsets f x) = none →
    ∃ t v, exec (.mon f) s = .next (retire t s.cur v) ∧ t.waves = s.waves ∧
      DstHas { w with mon := some { scr := true, addr := BitVec.ofNat 64 y.2, size := n } } v f.h.dst (sizeWords n) e
        (fun _ => scrRead s (waveCore w) ((scrAlloc s w).1 + y.2) n)) ∧
  (∀ m c, Ready s (.mwait f) w p → e ≠ 0 → w.mon = some m → m.fired = some c →
    ∃ v, exec (.mwait f) s = .next (retire (disarm s s.cur) s.cur v) ∧
      DstHas { w with mon := none } v f.h.dst 1 e (fun _ => c)) ∧
  (Ready s (.mwait f) w p → e ≠ 0 → w.mon = none →
    ∃ v, exec (.mwait f) s = .next (retire (disarm s s.cur) s.cur v) ∧ DstHas w v f.h.dst 1 e (fun _ => 5)) ∧
  (∀ m, Ready s (.mwait f) w p → e ≠ 0 → w.mon = some m → m.fired = none →
    ∃ t, exec (.mwait f) s = .next t ∧ (curPath (getWave t s.cur)).map (fun q => q.st) =
      some (.blocked (.mwait f (deadline s w (dataOpnd f 4 f.h.sa x 0))))) ∧
  (∀ id slot code q dl, blockedAt s id slot = some (q, .mwait f dl) → mwaitDue s (getWave s id) dl code = true →
    ∃ u v, exec (.mwaitWake id slot code) s = .next (retire u id v) ∧ (getWave u id).mon = none ∧
      (getWave u id).regs = (getWave s id).regs ∧
      DstHas (getWave u id) v f.h.dst 1 (workMask ⟨u, getWave u id, { q with st := .live }⟩ f.h.g) (fun _ => code))

/-- R243, R391, R392: a `bar` of a whole wave that completes its barrier's phase departs at once, and so does a wave
that the phase released; one that arrives earlier is counted and waits; a count that differs from the phase's traps.
With a count of n the phase completes at the n-th arrival. R243, R393: a `gbar` releases and sends its arrival, and
departs when its answer is in; the answers of an instance go to every participant when the last arrives, and a count
that differs gets code 1. -/
def Obligations.BarrierResults : Prop :=
  (∀ (f : MemF) (s : State) (w : Wave) (p : Path) (k : Nat) (g : Workgroup),
   let x : Rd := ⟨s, w, p⟩
   let i := dataOpnd f 4 f.h.sa x 0
   let n := if f.h.sb = .null then 0 else dataOpnd f 4 f.h.sb x 0
   let b := Tab.get {} g.bars i
   let me := laneBit w.num
   let gone := fun (c : HwBar) => { c with leaving := c.leaving &&& ~~~me }
   Ready s (.bar f) w p → p.mask = maskAct w → w.wg = some k → getWg s k = some g → i ≤ 15 → n ≤ 32 → n ≤ g.total →
   w.home = none →
   (b.leaving.getLsbD w.num = true → ∃ u, exec (.bar f) s = .next (retire u s.cur w) ∧ u.waves = s.waves ∧
     getWg u k = some { g with bars := Tab.set {} g.bars i (gone b) }) ∧
   (b.leaving.getLsbD w.num = false → (b.isOpen = false ∨ b.arrived.getLsbD w.num = false) →
     (∀ c, barArrive s g b w.num n = some c → c.leaving.getLsbD w.num = true →
       ∃ u, exec (.bar f) s = .next (retire u s.cur w) ∧ u.waves = s.waves ∧
         getWg u k = some { g with bars := Tab.set {} (Tab.set {} g.bars i c) i (gone c) }) ∧
     (∀ c, barArrive s g b w.num n = some c → c.leaving.getLsbD w.num = false →
       exec (.bar f) s = .next (opWait (setWg s k { g with bars := Tab.set {} g.bars i c }) s.cur)) ∧
     (b.isOpen = true → b.count ≠ n → exec (.bar f) s = .next (trapNow s cIllegalOpnd 4 p.mask p.mask 0)) ∧
     (n ≠ 0 → (b.isOpen = true → b.count = n) → (maskLanes (b.arrived ||| me)).length = n →
       barArrive s g b w.num n = some { count := n, isOpen := false, arrived := 0, leaving := b.leaving ||| (b.arrived ||| me) }))) ∧
  (∀ (f : MemF) (s : State) (w : Wave) (p : Path),
   let x : Rd := ⟨s, w, p⟩
   let i := dataOpnd f 4 f.h.sa x 0
   let n := dataOpnd f 4 f.h.sb x 0
   (Ready s (.gbar f) w p → p.mask = maskAct w → i ≤ 255 → n ≠ 0 → n ≤ 65535 → w.home = none →
     (w.gdep = none → w.op.phase ≠ 1 → releaseWaits s s.cur f.scope = false →
       ∃ t dst id es, exec (.gbar f) s = .next t ∧ (getWave t s.cur).op.phase = 1 ∧
         Travels t w.node dst (.gbarArr w.asid i n f.scope s.cur (waveAgent s w) id es)) ∧
     (∀ d, w.gdep = some d → d.code = 0 →
       ∃ u o, exec (.gbar f) s = .next (retire u s.cur (getWave u s.cur)) ∧
         getWave u s.cur = { w with gdep := none, op := o })) ∧
   (∀ c src dst m asid j cnt sc wave agent id es (b : GBar),
     let key := gbarKey dst (agentUnit agent / 4) sc
     let hit := fun (y : GBar) => (y.level, y.node, y.quad) == key && y.asid == asid && y.i == j
     Delivered s c src dst (.gbarArr asid j cnt sc wave agent id es) → s.gbars.find? hit = some b → m = agentMod agent →
     b.arrived.any (fun z => z.1 == m && z.2.1 == wave) = false →
     (b.n = cnt → b.arrived.length + 1 = cnt → ∃ t, exec (.gbarArrival c) s = .next t ∧ t.gbars = s.gbars.filter (fun y => !hit y) ∧
       ∀ z ∈ b.arrived ++ [(m, wave, agent, id)], z.1 = s.mods.podId → ∃ d, d.code = 0 ∧
         Travels t (roleHub s) (agentNode z.2.2.1) (.gbarDep z.2.1 z.2.2.2 d)) ∧
     (b.n = cnt → b.arrived.length + 1 < cnt → ∃ t, exec (.gbarArrival c) s = .next t ∧
       ∃ y ∈ t.gbars, hit y = true ∧ (m, wave, agent, id) ∈ y.arrived) ∧
     (b.n ≠ cnt → m = s.mods.podId → ∃ t, exec (.gbarArrival c) s = .next t ∧ t.gbars = s.gbars ∧
       Travels t (roleHub s) (agentNode agent) (.gbarDep wave id { code := 1 }))) ∧
   (∀ c src dst wave id d, Delivered s c src dst (.gbarDep wave id d) → waveExists s wave = true →
     ∃ t, exec (.gbarDeparture c) s = .next t ∧ (getWave t wave).gdep = some d))

/-- R244, R245, R394, R395: `tbinit` writes phase 0, PEND = EXPECT = n and TX = 0 and returns the word's address in the core's
scratchpad; `tbarr` counts an arrival, and a phase that it ends flips; a remote arrival does the same on the core that it
names; `tbwait` returns when the word's phase differs from its operand, and waits while it does not. -/
def Obligations.TransactionBarriers : Prop := ∀ (f : MemF) (s : State) (w : Wave) (p : Path),
  let x : Rd := ⟨s, w, p⟩
  let e := workMask x f.h.g
  let a := ((laneOffsets f x).head?.map Prod.snd).getD 0
  let at_ := (scrAlloc s w).1 + a
  let ok := fun (wr : Bool) => e ≠ 0 ∧
    checkScratch s w p (entryMask w p f.h.g) wr true (fun _ => 8) (laneOffsets f x) = none
  let n := dataOpnd f 4 f.h.sb x 0
  (Ready s (.tbinit f) w p → ok true → 0 < n → n ≤ 2047 →
    ∃ u v, exec (.tbinit f) s = .next (retire u s.cur v) ∧ DstHas (getWave u s.cur) v f.h.dst 1 e (fun _ => at_) ∧
      scrRead u (waveCore w) at_ 8 = tbBits { phase := false, expect := n, pend := n, tx := 0 }) ∧
  (∀ g, Ready s (.tbarr f) w p → ok true → getWg s (waveGroup w) = some g → w.wg.isSome = true →
    coreKey g.node g.unit = waveCore w →
    ∃ u, exec (.tbarr f) s = .next (retire u s.cur (getWave u s.cur)) ∧
      scrRead u (waveCore w) at_ 8 = tbBits (tbSettle (tbArrival n (tbWord (scrRead s (waveCore w) at_ 8)))).1) ∧
  (Ready s (.tbarrRem f) w p → e ≠ 0 → tbRemoteBad w f.scope (dataOpnd f 4 f.h.sc x 0) = false → w.home = none →
    releaseWaits s s.cur f.scope = false →
    ∃ u es, exec (.tbarrRem f) s = .next (retire u s.cur w) ∧ u.waves = s.waves ∧
      Travels u w.node w.node (.tbArr w.node (dataOpnd f 4 f.h.sc x 0) w.asid (scratchAddr f x 0) (BitVec.ofNat 32 n)
        f.scope es)) ∧
  (∀ c src dst node unit asid ad (t : Word) sc es k off, Delivered s c src dst (.tbArr node unit asid ad t sc es) →
    tbOwner s node unit asid ad = some (k, off) →
    exec (.tbarrRemoteArrival c) s = .next (tbUpdate (takeMsg s c) k off sc es (tbArrival t.toNat))) ∧
  (Ready s (.tbwait f) w p → ok false → n < 2 →
    b2n (tbWord (scrRead s (waveCore w) at_ 8)).phase ≠ n →
    ∃ u o, exec (.tbwait f) s = .next (retire u s.cur (getWave u s.cur)) ∧ getWave u s.cur = { w with op := o }) ∧
  (Ready s (.tbwait f) w p → ok false → n < 2 → b2n (tbWord (scrRead s (waveCore w) at_ 8)).phase = n →
    exec (.tbwait f) s = .next (opWait s s.cur)) ∧
  (∀ id slot t, (getWave s id).cur = slot → headInstr s id = some (t, .tbwait f) →
    ∃ u, exec (.tbwaitReturn id slot) s = .next u ∧ exec (.tbwait f) t = .next u)

/-! ## Messages of registration coherence (R53, R67-R97) -/

/-- R77, R78: RD of words that stand at their home is answered with the home's bytes, the reader's own newer bytes over them,
and the words become V; RD of words that another agent owns goes on to the owner as FWD. The owner answers the reader
with the words that it holds, newest bytes first, or the home with GONE, and GONE makes the home answer. -/
def Obligations.ReadMessages : Prop := ∀ (s : State) (n src node : Nat) (r : Req) (asid line : Nat) (m : Mask),
  let k := lineKey asid line
  m ≠ 0 →
  (∀ plain own grp u q, Arrives s n src node (.rd r asid line m plain own grp) asid line →
    HomeAnswers (takeMsg s n) node r asid line .read m u q → WordsHome u k m →
    ∃ t l, exec (.rd n) s = .next t ∧
      Travels t node (agentNode r.agent) (.data r asid line m l none (if plain then [] else lineEntries u node k m)) ∧
      BytesAre l (byteMask m) (fun i => if own.valid.getLsbD i then lineByte own i else lineByte (homeData u node k q) i) ∧
      WordsAre t k m .v) ∧
  (∀ plain own grp u q g, Arrives s n src node (.rd r asid line m plain own grp) asid line →
    HomeAnswers (takeMsg s n) node r asid line .read m u q → WordsAre u k m .g →
    findRegion u node asid line = some g → ownsAs r.agent g.owner = false → (plain = false ∨ g.st = .draining) →
    ∃ t l es, exec (.rd n) s = .next t ∧
      Travels t node (agentNode g.owner) (.fwd r asid line m l g.owner node es grp) ∧
      BytesAre l (byteMask m) (lineByte (homeData u node k q))) ∧
  (∀ base owner home es grp, Delivered s n src node (.fwd r asid line m base owner home es grp) →
    (∀ i, i < 32 → m.getLsbD i = true → (ownerWord s owner k i {}).dirty &&& byteMask (laneBit i) ≠ 0) →
    ∃ t, exec (.fwd n) s = .next t ∧ Travels t node (agentNode r.agent) (.data r asid line m
      { ownerLine s owner k m (lineOnly base (byteMask m)) with dirty := 0 } none es)) ∧
  (∀ base owner home es grp, Delivered s n src node (.fwd r asid line m base owner home es grp) →
    (∀ i, i < 32 → m.getLsbD i = true → (ownerWord s owner k i {}).dirty &&& byteMask (laneBit i) = 0) →
    ∃ t, exec (.fwd n) s = .next t ∧ Travels t node home (.gone r asid line m owner)) ∧
  (∀ owner u q, Arrives s n src node (.gone r asid line m owner) asid line →
    HomeAnswers (takeMsg s n) node r asid line .read m u q → WordsHome u k m →
    ∃ t l, exec (.gone n) s = .next t ∧
      Travels t node (agentNode r.agent) (.data r asid line m l none (lineEntries u node k m)) ∧
      BytesAre l (byteMask m) (lineByte (homeData u node k q))) ∧
  (∀ l, Delivered s n src node (.data r asid line m l none []) → waitsFor s r = true →
    ∃ t, exec (.data n) s = .next t ∧
      BytesAre (Tab.get {} (getWave t r.wave).op.resp k) l.valid (lineByte l) ∧
      BytesAre (Tab.get {} (getWave t r.wave).op.resp k) (~~~l.valid)
        (lineByte (Tab.get {} (getWave s r.wave).op.resp k)) ∧
      (getWave t r.wave).regs = (getWave s r.wave).regs)

/-- R74-R76, R93, R95: a registration in no region makes its words G of the asking agent, and is acknowledged; the
acknowledgement ends the wave's wait, or brings it a deferred trap. WB DROP brings the owner's bytes home and makes its
words V; RECALL makes the owner send it. A multicast store's REPL_WR writes the copy of a die, and REG_SET registers
words that an engine has copied. -/
def Obligations.RegistrationMessages : Prop := ∀ (s : State) (n src node : Nat) (r : Req) (asid line : Nat) (m : Mask),
  let k := lineKey asid line
  let pr := pendOf s r.wave r.id
  let pend := fun (t : State) => (getWave t r.wave).pend = (getWave s r.wave).pend.filter (fun y => y.id != r.id)
  line < 2 ^ 47 →
  (∀ bytes plain u q, Arrives s n src node (.regReq r asid line m bytes plain false) asid line →
    HomeAnswers s node r asid line .write m u q → WordsHome u k m →
    findRegion u node asid line = none → regionCount u node < 65536 →
    ∃ t, exec (.regReq n) s = .next t ∧ Travels t node src (.regAck r asid line m 0 none none) ∧ WordsAre t k m .g ∧
      wordOwner t node asid line = some r.agent) ∧
  (∀ reg, Delivered s n src node (.regAck r asid line reg 0 none none) → waveExists s r.wave = true →
    ∃ t, exec (.regAck n) s = .next t ∧ pend t ∧ (getWave t r.wave).deferred = (getWave s r.wave).deferred) ∧
  (∀ thru e, Delivered s n src node (.regAck r asid line 0 thru none (some e)) → waveExists s r.wave = true →
    (getWave s r.wave).deferred.length < 8 →
    ∃ t, exec (.regAck n) s = .next t ∧ pend t ∧ (getWave t r.wave).deferred = (getWave s r.wave).deferred ++
      [{ cause := e.cause, sub := e.sub, lane := pr.lane, hnd := pr.hnd, addr := pr.addr }]) ∧
  (∀ agent bytes u q, Arrives s n src node (.wb agent asid line m bytes false) asid line →
    wordOwner s node asid line = some agent → WordsAre s k m .g →
    xlate (takeMsg s n) node asid (line * 128) .read true = (u, .ok q) → q.uc = false →
    ∃ t, exec (.wb n) s = .next t ∧ WordsAre t k m .v ∧
      BytesAre (homeData t node k q) (bytes.valid &&& byteMask m) (lineByte bytes)) ∧
  (∀ word owner, Delivered s n src node (.recall asid line word owner) → word < 32 →
    ∃ t, exec (.recallWord n) s = .next t ∧
      Travels t node src (.wb owner asid line (laneBit word) (ownerWord s owner k word {}) false) ∧
      (ownerWord t owner k word {}).dirty = 0) ∧
  (∀ bytes die u q, Delivered s n src node (.replWr asid line bytes die r) →
    xlate (takeMsg s n) src asid (line * 128) .read true = (u, .ok q) →
    ∃ t, exec (.replWr n) s = .next t ∧ t.mem = (memPut u (replAt q die) bytes bytes.valid).mem) ∧
  (∀ agent u q, Arrives s n src node (.regSet r asid line m agent false) asid line →
    nodeLost s node = false → xlate s node asid (line * 128) .write true = (u, .ok q) → findRegion u node asid line = none →
    regionCount u node < 65536 →
    ∃ t, exec (.regSet n) s = .next t ∧ WordsAre t k m .g ∧
      wordOwner t node asid line = some (regSetAgent agent node) ∧
      ∀ c ∈ t.cores, ∀ x ∈ c.2.score, r.id ∉ x.regs)

/-- R79-R82: DRAIN makes its releaser start a drain; DMARK takes the releaser's regions out of OWNED at their home and
is acknowledged; after the last acknowledgement the drain finishes; RELINQ frees the entries; ARMED is counted at the
acquirer, whose misses go on when the last has come. R81: a drain sends DMARK to the home of every region that the
releaser owns in its ranges; when it finishes, it answers ARMED, and sends RELINQ for each of those regions that is
still the releaser's. -/
def Obligations.DrainMessages : Prop :=
  (∀ (s : State) (n src node agent asid base level tag : Nat),
   let inside := fun (x : Region) =>
     x.node = node ∧ x.asid = asid ∧ base ≤ x.base ∧ x.base < base + regionLines level ∧ x.owner = agent
   (∀ die rs acquirer, Delivered s n src node (.drain agent die asid rs acquirer tag) →
     exec (.drain n) s = .next (startDrain (takeMsg s n) agent die asid rs acquirer tag)) ∧
   (Arrives s n src node (.dmark agent asid base level tag) asid base →
     ∃ t, exec (.dmark n) s = .next t ∧ Travels t node (agentNode agent) (.dmarkAck agent tag) ∧
       ∀ x ∈ t.regions, inside x → x.st = .draining) ∧
   (∀ d, Delivered s n src node (.dmarkAck agent tag) →
     s.drains.find? (fun d => d.agent == agent && d.tag == tag) = some d →
     (d.due ≤ 1 → exec (.dmarkAck n) s = .next (finishDrain (takeMsg s n) d)) ∧
     (1 < d.due → ∃ t, exec (.dmarkAck n) s = .next t ∧ { d with due := d.due - 1 } ∈ t.drains)) ∧
   (∀ part, Arrives s n src node (.relinq agent asid base level part) asid base →
     ∃ t, exec (.relinq n) s = .next t ∧ ∀ x ∈ t.regions, ¬ inside x) ∧
   (∀ acq from_ full, Delivered s n src node (.armed acq tag from_ full) →
     (∀ a ∈ (getCore s (acq % 8192)).arms, a.tag = tag → a.known = true ∧ a.need ≤ a.got + 1) →
     ∃ t, exec (.armed n) s = .next t ∧ armsTag t (acq % 8192) tag = false)) ∧
  (∀ (s : State),
   (∀ agent asid rs acquirer tag, ∀ x ∈ ownedRegions s agent true asid rs,
     Travels (startDrain s agent true asid rs acquirer tag) (agentNode agent) x.node
       (.dmark agent x.asid x.base x.level tag)) ∧
   (∀ d, Travels (finishDrain s d) (agentNode d.agent) (agentNode d.acquirer)
       (.armed d.acquirer d.tag d.agent d.ranges.isNone) ∧
     (∀ y ∈ (finishDrain s d).drains, ¬ (y.agent = d.agent ∧ y.tag = d.tag)) ∧
     (∀ x ∈ s.regions, (x.node, x.base, x.level) ∈ d.regions → x.owner = d.agent → x.asid = d.asid ∨ x.asid = 0 →
       Travels (finishDrain s d) (agentNode d.agent) x.node (.relinq x.owner x.asid x.base x.level none))))

/-- R79-R81: REL writes its bytes at the home and records its releasers there, and its wave's registration is over. ACQ returns
the home's bytes, and every releaser that it selects is sent DRAIN; the answer brings the acquirer its value. -/
def Obligations.ReleaseMessages : Prop := ∀ (s : State) (n src node : Nat) (r : Req) (asid line : Nat),
  let k := lineKey asid line
  line < 2 ^ 47 →
  (∀ bytes e u q, Arrives s n src node (.rel r asid line bytes [e]) asid line →
    HomeAnswers (takeMsg s n) node r asid line .write (wordMask bytes.valid) u q →
    WordsHome u k (wordMask bytes.valid) →
    ∃ t, exec (.rel n) s = .next t ∧ BytesAre (homeData t node k q) bytes.valid (lineByte bytes) ∧
      WordsAre t k (wordMask bytes.valid) .v ∧
      (∀ i, i < 32 → (wordMask bytes.valid).getLsbD i = true → e ∈ (getRel t node k i).ents) ∧
      (waveExists s r.wave = true →
        (getWave t r.wave).pend = (getWave s r.wave).pend.filter (fun y => y.id != r.id))) ∧
  (∀ m sc rs tag own u q, Arrives s n src node (.acq r asid line m sc rs tag own) asid line →
    HomeAnswers (takeMsg s n) node r asid line .read m u q → WordsHome u k m →
    let es := acqSelect u node k m sc r.agent
    ∃ t l, exec (.acq n) s = .next t ∧ Travels t node src (.acqRsp r asid line l es.length es none) ∧
      BytesAre l (byteMask m) (fun i => if own.valid.getLsbD i then lineByte own i else lineByte (homeData u node k q) i) ∧
      ∀ e ∈ es, nodeLost u (agentNode e.agent) = false → Travels t node (agentNode e.agent) (.drain e.agent e.die asid rs r.agent tag)) ∧
  (∀ l cnt es, Delivered s n src node (.acqRsp r asid line l cnt es none) → waitsFor s r = true →
    ∃ t, exec (.acqRsp n) s = .next t ∧ BytesAre (Tab.get {} (getWave t r.wave).op.resp k) l.valid (lineByte l) ∧
      Tab.get 0 (getWave t r.wave).op.vals k = 1)

/-- R89-R91: TOK_ACQ of a FREE token makes the requester its holder; of a held one it queues it, up to 16 waiters, and
answers HELD, or queue full beyond that; outside every token region it is a token violation. TOK_REL by the holder
starts the hand-over, and TOK_GRANT lets the path of the waiting `racq` run on. R91: a token passes to the agent
named, else to its oldest waiter, who is granted it, else it becomes FREE; the other waiters keep their order, and no
other token changes. -/
def Obligations.TokenMessages : Prop :=
  (∀ (s : State) (n src node : Nat) (r : Req) (asid addr : Nat) (t : Token),
   (Arrives s n src node (.tokAcq r asid addr) asid (addr / 128) →
     (findToken s node asid addr 1 = none →
       ∃ u, exec (.tokAcq n) s = .next u ∧ Travels u node src (.tokGrant r asid addr (some eToken))) ∧
     (findToken s node asid addr 1 = some t → t.creating = none → t.moving = none →
       (t.holder = none → ∃ u, exec (.tokAcq n) s = .next u ∧ { t with holder := some r.agent } ∈ u.tokens ∧
         Travels u node src (.tokGrant r asid addr none)) ∧
       (t.holder = some r.agent → ∃ u, exec (.tokAcq n) s = .next u ∧ u.tokens = s.tokens ∧
         Travels u node src (.tokGrant r asid addr none)) ∧
       (∀ h, t.holder = some h → h ≠ r.agent → t.waiters.length < 16 → ∃ u, exec (.tokAcq n) s = .next u ∧
         { t with waiters := t.waiters ++ [(r.agent, r.wave, r.id)] } ∈ u.tokens ∧ Travels u node src (.held r.id)) ∧
       (∀ h, t.holder = some h → h ≠ r.agent → 16 ≤ t.waiters.length → ∃ u, exec (.tokAcq n) s = .next u ∧
         u.tokens = s.tokens ∧ Travels u node src (.tokGrant r asid addr (some { cause := cQueue, sub := 0 }))))) ∧
   (∀ agent dest es, Arrives s n src node (.tokRel agent asid addr dest es) asid (addr / 128) →
     findToken (takeMsg s n) node asid addr 1 = some t → t.holder = some agent → t.moving = none →
     exec (.tokRel n) s = .next (tokenProgress (startHandOver (takeMsg s n) t dest es) node)) ∧
   (Delivered s n src node (.tokGrant r asid addr none) → waveExists s r.wave = true →
     ∃ u, exec (.tokGrant n) s = .next u ∧ ∀ j q, getSlot (getWave s r.wave) j = some q →
       q.st = .blocked (.racq r.id none) → getSlot (getWave u r.wave) j = some { q with st := .live })) ∧
  (∀ (s : State) (t : Token),
   (∀ a, ∃ y ∈ (passToken s t (some a)).tokens, y = { t with holder := some a, moving := none,
                                                             waiters := t.waiters.filter (fun x => x.1 != a) }) ∧
   (t.waiters = [] → { t with holder := none, moving := none } ∈ (passToken s t none).tokens) ∧
   (∀ x rest, t.waiters = x :: rest →
     { t with holder := some x.1, moving := none, waiters := rest } ∈ (passToken s t none).tokens ∧
     Travels (passToken s t none) t.node (agentNode x.1)
       (.tokGrant { agent := x.1, wave := x.2.1, id := x.2.2 } t.asid t.base none)) ∧
   (∀ d y, (y.node, y.asid, y.base) ≠ (t.node, t.asid, t.base) → (y ∈ (passToken s t d).tokens ↔ y ∈ s.tokens)))

/-- R53, R71, R72: HELD restarts the timer of its request, a kept request is answered HELD again after 500 us, and a request
that was sent and has had no answer for 1 ms is logged at the fault processor, once, and brings a target of this module
down. Once a microsecond a home merges siblings until none qualifies; a
write-through line without a write for 64 us is owned again, or freed. -/
def Obligations.HomeTimers : Prop := ∀ (s : State),
  (∀ n src node id, Delivered s n src node (.held id) → ∃ t, exec (.held n) s = .next t ∧
    ∀ o ∈ t.net.outst, o.id = id → o.held = true ∧ o.since = nodeTime s o.pkt.src) ∧
  (∀ k p r a l, s.net.inbox[k]? = some p → p.taken = true → p.since + 500000 ≤ nodeTime s p.dst →
    p.msg = .tokAcq r a l → ∃ t, exec (.heldResend k) s = .next t ∧ Travels t p.dst p.src (.held r.id)) ∧
  (∀ k o, s.net.outst[k]? = some o → o.since + 1000000 ≤ nodeTime s o.pkt.src → (getNode s o.pkt.src).dbgHold = false →
    o.timedOut = false → (o.pkt.mod = none → nodeLost s o.pkt.dst = false) → unsent s o = false →
    ∃ u, (getNode u (roleHub s)).netLog = (getNode s (roleHub s)).netLog ++ [.timeout o.pkt.src (match o.pkt.mod with
        | some m => (m + 1) * 64
        | none => o.pkt.dst)] ∧ u.net.outst[k]? = some { o with timedOut := true } ∧ u.waves = s.waves ∧ u.mem = s.mem ∧
      exec (.responseTimeout k) s = .next (if o.pkt.mod.isSome then u else dieDown u o.pkt.dst)) ∧
  (∀ node, (getNode s node).mergeAt + 1000 ≤ nodeTime s node → (getNode s node).halt = false →
    (∀ x ∈ s.regions, x.level ≤ 9) → ∃ t, exec (.regionMergeCheck node) s = .next t ∧
      (getNode t node).mergeAt = nodeTime s node ∧ mergeOne t node = none) ∧
  (∀ node k r, s.regions.find? (fun r => r.node == node && r.st == .wt && lineKey r.asid r.base == k) = some r →
    quietLong r (nodeTime s node) = true →
    (anyG s r.asid r.base 1 = true → ∃ t, exec (.wtLineTimeout node k) s = .next t ∧ { r with st := .owned } ∈ t.regions) ∧
    (anyG s r.asid r.base 1 = false → exec (.wtLineTimeout node k) s = .next (dropRegion s r)))

/-! ## Queues (R150-R163, R396-R402) -/

/-- R159-R162, R396-R402: `qrsv` reserves n slots at RSV and gives the first number; `qpub` publishes slots that its
wave holds, and traps over others; `qinfo` gives HEAD, PUB, RSV and the kind, or the code; `qinfo.base` the base;
`spawn` enqueues the record of each lane of E in ascending order and gives each its code; toward another module it sends
each record to the hub, and retires with the codes that came back. `dsig` signals for each lane. R159-R162, R168: an enqueue that the home accepts takes the slot at RSV and publishes the record there; one that
it refuses changes no queue. A take gives a visible record's bytes and number, and the slot is visible no more. A
signal of a pending record takes one from its count. -/
def Obligations.QueueInstructions : Prop :=
  (∀ (f : GenF) (s : State) (w : Wave) (p : Path) (q : Queue),
   let x : Rd := ⟨s, w, p⟩
   let e := workMask x f.h.g
   let h := genHandle f x
   let b := opnd32 x f.h.sb 0
   let c := opnd32 x f.h.sc 0
   let ls : List LaneAddr := (maskLanes e).map (fun l => (l, BitVec.ofNat 64 (opnd64 x f.h.sb l)))
   (Ready s (.qrsv f) w p → e ≠ 0 → QueueAnswers s w h q → 0 < b → b ≤ 64 → b ≤ ringFree q →
     (s.resvs.filter (fun r => handleDie r.handle == handleDie h)).length < 1024 →
     ∃ u v q', exec (.qrsv f) s = .next (retire u s.cur v) ∧ u.waves = s.waves ∧
       DstHas w v f.h.dst 2 e (fun _ => qOk + 2 ^ 32 * q.rsv) ∧
       ({ handle := h, wave := s.cur, lo := q.rsv, n := b } : Resv) ∈ u.resvs ∧ queueOf u h = some q' ∧
       q'.rsv = seqAdd q.rsv b ∧ q'.head = q.head ∧ q'.pub = q.pub ∧
       ∀ i, i < b → (slotAt q' (seqAdd q.rsv i)).map (·.st) = some .reserved) ∧
   (Ready s (.qrsv f) w p → e ≠ 0 → QueueAnswers s w h q → 0 < b → b ≤ 64 → ringFree q < b →
     ∃ v, exec (.qrsv f) s = .next (retire s s.cur v) ∧ DstHas w v f.h.dst 2 e (fun _ => qFull)) ∧
   (Ready s (.qpub f) w p → e ≠ 0 → QueueAnswers s w h q → 0 < c → c ≤ 64 → holdsRange s q s.cur b c = true →
     releaseWaits s s.cur .pkg = false →
     ∃ u v q', exec (.qpub f) s = .next (retire u s.cur v) ∧ u.waves = s.waves ∧
       DstHas w v f.h.dst 1 e (fun _ => qOk) ∧ queueOf u h = some q' ∧
       ∀ i, i < c → (slotAt q' (seqAdd b i)).all (fun z => z.st != .reserved) = true) ∧
   (Ready s (.qpub f) w p → e ≠ 0 → QueueAnswers s w h q → holdsRange s q s.cur b c = false →
     exec (.qpub f) s = .next (trapNow s cQueue 0 (entryMask w p f.h.g) e 0)) ∧
   (Ready s (.qinfo f) w p → e ≠ 0 → QueueAnswers s w h q →
     ∃ v, exec (.qinfo f) s = .next (retire s s.cur v) ∧ DstHas w v f.h.dst 4 e
       (fun _ => q.head + 2 ^ 32 * q.pub + 2 ^ 64 * q.rsv + 2 ^ 96 * (q.log2n + 32 * b2n q.soft))) ∧
   (∀ k, Ready s (.qinfo f) w p → e ≠ 0 → queueHolds s h = false → opCode s h (waveSlot s w) = k → k ≠ qOk →
     ∃ v y, exec (.qinfo f) s = .next (retire s s.cur v) ∧ DstHas w v f.h.dst 4 e (fun _ => y) ∧ bitsOf y 104 8 = k) ∧
   (Ready s (.qinfoBase f) w p → e ≠ 0 → QueueAnswers s w h q →
     ∃ v, exec (.qinfoBase f) s = .next (retire s s.cur v) ∧ DstHas w v f.h.dst 2 e (fun _ => (vaFull q.base).toNat)) ∧
   (Ready s (.spawn f) w p → e ≠ 0 → w.general = false → w.op = {} → spawnModule s f = none →
     LanesAllowed s w .read true 64 ls → egressFull s w 64 ls = false → CoreHolds s w 64 ls →
     releaseWaits s s.cur .pkg = false → queueHolds s h = false →
     ∃ r v, exec (.spawn f) s = .next (retire r.1 s.cur v) ∧
       r = ls.foldl (fun (t : State × Tab Nat) y =>
         ((spawnLane t.1 s.cur h (bytesOfNat 64 (coreValue s w y.2 64))).1,
           Tab.put t.2 y.1 (spawnLane t.1 s.cur h (bytesOfNat 64 (coreValue s w y.2 64))).2)) (releaseMade s s.cur .pkg, []) ∧
       DstHas (getWave r.1 s.cur) v f.h.dst 1 e (fun l => Tab.get 0 r.2 l)) ∧
   (∀ m, Ready s (.spawn f) w p → e ≠ 0 → w.general = false → spawnModule s f = some m → CoreHolds s w 64 ls →
     (w.op = {} → f.h.dst ≠ .null → LanesAllowed s w .read true 64 ls → egressFull s w 64 ls = false →
       releaseWaits s s.cur .sys = false → moduleReachable s m = true →
       ∃ t, exec (.spawn f) s = .next t ∧ (getWave t s.cur).op.phase = 2 ∧ ∀ y ∈ ls, ∃ es, Travels t w.node (roleHub s)
         (.spawn (waveAgent s w) w.asid (waveSlot s w) h (bytesOfNat 64 (coreValue s w y.2 64)) es s.cur y.1 m)) ∧
     (w.op.id ≠ 0 → w.op.phase = 2 → w.op.errs = [] → (∀ y ∈ ls, (Tab.find w.op.vals y.1).isSome = true) →
       ∃ v, exec (.spawn f) s = .next (retire s s.cur v) ∧ DstHas w v f.h.dst 1 e (fun l => Tab.get 0 w.op.vals l))) ∧
   (Ready s (.dsig f) w p → e ≠ 0 → releaseWaits s s.cur .pkg = false → queueHolds s h = false →
     ∃ r v, exec (.dsig f) s = .next (retire r.1 s.cur v) ∧
       r = (maskLanes e).foldl (fun (t : State × Tab Nat) l =>
         ((dsigLane t.1 s.cur h (opnd32 x f.h.sb l)).1, Tab.put t.2 l (dsigLane t.1 s.cur h (opnd32 x f.h.sb l)).2))
         (releaseMade s s.cur .pkg, []) ∧
       DstHas (getWave r.1 s.cur) v f.h.dst 1 e (fun l => Tab.get 0 r.2 l))) ∧
  (∀ (s : State) (h : Word) (q : Queue),
   queueOf s h = some q →
   (∀ rec_ sender slot asid node es u, enqueueCode s h slot = qOk →
     unitWrite (setQueue s (reserveSlots q 1 sender)) q.asid (vaFull (ringVa q q.rsv)) rec_ = (u, none) →
     let r := enqueue s h rec_ sender slot asid node es
     r.2 = qOk ∧ ∃ q' z, queueOf r.1 h = some q' ∧ q'.rsv = seqAdd q.rsv 1 ∧ slotAt q' q.rsv = some z ∧
       (z.st = .published ∨ z.st = .visible) ∧ z.sender = sender ∧ z.void = false) ∧
   (∀ rec_ sender slot asid node es, enqueueCode s h slot ≠ qOk →
     let r := enqueue s h rec_ sender slot asid node es
     r.2 = enqueueCode s h slot ∧ r.1.queues = s.queues) ∧
   (∀ seq z u b, slotAt q seq = some z → z.st = .visible → z.void = false →
     unitRead s q.asid (vaFull (ringVa q seq)) 64 = (u, .ok b) → isVoidRecord b = false →
     let r := takeSlot s h seq
     (r.2.map (fun y => (y.rec_, y.seq))) = some (b, seq) ∧
       ∃ q', queueOf r.1 h = some q' ∧ (slotAt q' seq).all (fun y => y.st != .visible) = true) ∧
   (∀ k es y, q.soft = false → s.pending.find? (fun x => x.handle == h && x.seq == k && x.count != 0) = some y →
     let r := dsigAt s h k es
     r.2 = qOk ∧ ∃ z ∈ r.1.pending, z.handle = h ∧ z.seq = k ∧ z.count = y.count - 1 ∧ z.rec_ = y.rec_))

/-- R158, R400: `qpop`, `qpop.try` and `qsteal` take the oldest, or the youngest, record of a SOFT queue, store its bytes
where SB says, and give its number; with none to take `qpop` blocks its path, and the others give 0x10. A DISPATCH queue
is a queue error. A wake-up with a record there runs the `qpop` again. -/
def Obligations.QueueTaking : Prop := ∀ (f : GenF) (s : State) (w : Wave) (p : Path) (q : Queue),
  let x : Rd := ⟨s, w, p⟩
  let e := workMask x f.h.g
  let h := genHandle f x
  let low := (lowestLane e).getD 0
  let a := opnd32 x f.h.sb low
  let va : DWord := BitVec.ofNat 64 (opnd64 x f.h.sb low)
  let where_ := if f.flags.getLsbD 0 then
      ScratchOk s w p (entryMask w p f.h.g) false true true (fun _ => 64) ((maskLanes e).map (fun l => (l, a)))
    else w.general = false ∧ w.op = {} ∧ LanesAllowed s w .write true 64 ((maskLanes e).map (fun l => (l, va))) ∧
      egressFull s w 64 ((maskLanes e).map (fun l => (l, va))) = false
  let runs := fun (i : Instr) (r : State × Option Taken) => Ready s i w p → e ≠ 0 → where_ → QueueAnswers s w h q →
    (q.soft = true → ∀ y, r.2 = some y → ∃ t v, exec i s = .next (retire t s.cur v) ∧
      (getWave t s.cur).regs = w.regs ∧ DstHas (getWave t s.cur) v f.h.dst 2 e (fun _ => qOk + 2 ^ 32 * y.seq) ∧
      (f.flags.getLsbD 0 = true → ∀ i, i < y.rec_.length →
        Tab.get 0 (getCore t (waveCore w)).scr ((scrAlloc s w).1 + a + i) = byteAt y.rec_ i)) ∧
    (q.soft = false → exec i s = .next (trapNow s cQueue 0 (entryMask w p f.h.g) e 0))
  let none_ := fun (i : Instr) => Ready s i w p → e ≠ 0 → where_ → QueueAnswers s w h q → q.soft = true →
    visibleSeqs q = [] → ∃ t v, exec i s = .next (retire t s.cur v) ∧ t.waves = s.waves ∧
      DstHas w v f.h.dst 2 e (fun _ => qEmpty)
  runs (.qpop f) (takeOldest s h) ∧ runs (.qpopTry f) (takeOldest s h) ∧ runs (.qsteal f) (takeYoungest s h) ∧
  none_ (.qpopTry f) ∧ none_ (.qsteal f) ∧
  (Ready s (.qpop f) w p → e ≠ 0 → where_ → QueueAnswers s w h q → q.soft = true → visibleSeqs q = [] →
    ∃ t, exec (.qpop f) s = .next t ∧
      (curPath (getWave t s.cur)).map (fun r => r.st) = some (.blocked (.qpop f h))) ∧
  (∀ id slot r, blockedAt s id slot = some (r, .qpop f q.handle) → queueOf s q.handle = some q → visibleSeqs q ≠ [] →
    exec (.qpopWake id slot) s = .next (wakePath s id slot r (fun t _ => outState (execQpop f t) t)))

/-! ## Continuations and migration (R177, R214-R218, R404, R405) -/

/-- R177, R404: `cont` writes its record into a slot of its context's pool, and its path ends with a continuation there.
R214-R216, R405: `mig` toward the wave's own die only retires; toward another die with a free landing slot the wave
departs with its registers, and stands there detached until its arrival has acquired; a detached wave returns to its own
slot; without a free landing slot `mig` blocks and `mig.try` gives false; an address of no compute die is a migrate
fault. -/
def Obligations.MigrationResults : Prop := ∀ (f : GenF) (s : State) (w : Wave) (p : Path),
  let e := workMask ⟨s, w, p⟩ f.h.g
  let va : DWord := BitVec.ofNat 64 (opnd64 ⟨s, w, p⟩ f.h.sa 0)
  let tag : Word := BitVec.ofNat 32 (opnd32 ⟨s, w, p⟩ f.h.sa 0)
  let first := f.imm12.toNat % 256
  let n := f.flags.toNat % 32
  let l := contRecord s w p first n tag
  let lands := fun (i : Instr) (node unit part : Nat) (home : Option (Nat × Nat × Nat)) =>
    ∃ t, exec i s = .next t ∧ (getWave t s.cur).node = node ∧ (getWave t s.cur).unit = unit ∧
      (getWave t s.cur).part = part ∧ (getWave t s.cur).home = home ∧ (getWave t s.cur).regs = w.regs ∧
      (getWave t s.cur).arrive.isSome = true
  (∀ k, Ready s (.cont f) w p → n ≤ 16 → first + n ≤ 256 → contFree (getCtx s w.asid) = some k →
    leaseCheck s w.asid w.taskId .write (contVa (getCtx s w.asid) k) l.length = none → w.pend = [] →
    releaseWaits s s.cur .pkg = false → contStop s s.cur (cutAll (va54 (contVa (getCtx s w.asid) k)) l) = none →
    let u := (cutAll (va54 (contVa (getCtx s w.asid) k)) l).foldl (fun t y => contPut t s.cur y) s
    exec (.cont f) s = .next (contDone u s.cur p k tag) ∧
      ∃ c ∈ (contDone u s.cur p k tag).conts, c.asid = w.asid ∧ c.slot = k ∧ c.tag = tag ∧ c.owner = s.cur) ∧
  (∀ i, i = .mig f ∨ i = .migTry f → Ready s i w p → w.home = none →
    (migTarget s w va = some w.node → exec i s = .next (retire s s.cur w)) ∧
    (migTarget s w va = none → exec i s = .next (trapNow s cMigrate 0 (entryMask w p f.h.g) e 0)) ∧
    (∀ d c, migTarget s w va = some d → d ≠ w.node → migWaits s s.cur w = false → landingFree s d = some c →
      lands i d c.1 c.2 (some (w.node, w.unit, w.part)))) ∧
  (∀ i, i = .mig f ∨ i = .migTry f → Ready s i w p → ∀ o, w.home = some o → migWaits s s.cur w = false →
    lands i o.1 o.2.1 o.2.2 none) ∧
  (∀ d, Ready s (.mig f) w p → w.home = none → migTarget s w va = some d → d ≠ w.node → migWaits s s.cur w = false →
    landingFree s d = none → ∃ t, exec (.mig f) s = .next t ∧
      (curPath (getWave t s.cur)).map (fun q => q.st) = some (.blocked (.mig f))) ∧
  (∀ d, Ready s (.migTry f) w p → w.home = none → migTarget s w va = some d → d ≠ w.node →
    migWaits s s.cur w = false → landingFree s d = none →
    ∃ v, exec (.migTry f) s = .next (retire s s.cur v) ∧ PredHas w v f.h.dst e (fun _ => false)) ∧
  (∀ id a, (getWave s id).arrive = some a → waveExists s id = true →
    (getWave s id).ship < nodeTime s (getWave s id).node → coreRuns s (getWave s id) = true →
    ∃ t, exec (.migArrival id) s = .next t ∧ (getWave t id).arrive = none ∧ (getWave t id).op = {} ∧
      (getWave t id).regs = (getWave s id).regs) ∧
  (∀ id slot q d, blockedAt s id slot = some (q, .mig f) →
    migTarget s (getWave s id) (BitVec.ofNat 64 (opnd64 ⟨s, { getWave s id with cur := slot }, { q with st := .live }⟩
      f.h.sa 0)) = some d → (landingFree s d).isSome = true →
    exec (.migLandingSlotFree id slot) s = .next (wakePath s id slot q (fun t _ => outState (execMig f t) t)))

/-! ## Tasks (R157-R185) -/

/-- R162, R164-R173: a dispatch takes the best record of its die; a record in order becomes a task of the die, and one that is
not a dead letter; when the leases are held and a core has room its gang launches, all waves in one step, each at its
role's entry; when every wave has ended and nothing is outstanding the task ends. A die with nothing of its own takes a
record of the peer with the most. A record with dependencies is lifted into the pending table. -/
def Obligations.TaskLife : Prop := ∀ (s : State),
  (∀ d c, dieRuns s d = true → readyParked s d = none → dieTakes s d = true →
    s.conts.find? (fun c => contReady s d c && c.die == d && (chooseCore s d [256] 0 none).isSome) = none →
    soloPlace s d = none → savedTask s d = none → tasksWaiting s d < 64 → doomedSlot s d = none → doomedPending s d = none →
    bestCand (getNode s d).rr (·.order) (visibleCands s d d (·.take 64) ++ pendingCands s d d) = some c →
    exec (.taskDispatch d) s =
      .next (dispatchCand (modNode s d (fun n => { n with rr := (handleIndex c.handle + 1) % 2048 })) d c)) ∧
  (∀ d c x u e, recordChecked s d c.asid x.1 = (u, .ok e) → u.nextTask = s.nextTask → recRanges e x.1 = [] →
    ∃ t, getTask (startRecord s d c x) s.nextTask = some t ∧ t.asid = c.asid ∧ t.die = d ∧ t.rec_ = x.1 ∧ t.entry = e ∧
      t.st = .leasing) ∧
  (∀ d c x u k, recordChecked s d c.asid x.1 = (u, .error k) →
    startRecord s d c x = deadLetter u c.asid x.1 c.handle k x.2.1 (handleDie c.handle)) ∧
  (∀ k t u ps off, getTask s k = some t → leasesHeld t = true → dieRuns s t.die = true → ctxRuns s t.asid = true →
    t.wg = none → gangPlace s t = some (u, ps, off) →
    (getCore s (coreKey t.die u)).score.length + (preTemplates t).length ≤ scoreEntries →
    (getCore s (coreKey t.die u)).locks.length + (preTemplates t).length ≤ lockEntries →
    exec (.gangLaunch k) s = .next (launchGang s t u ps off)) ∧
  (∀ k t j u ps off, getTask s k = some t → leasesHeld t = true → dieRuns s t.die = true → ctxRuns s t.asid = true →
    t.wg = some j → gangPlace s t = some (u, ps, off) →
    exec (.gangLaunch k) s = .next (modTask (restoreGroup s j t.die u ps) k (fun x => { x with st := .running }))) ∧
  (∀ t u ps off i y part, (gangWaves t.entry t.variant)[i]? = some y → ps[i]? = some part →
    getWave (launchGang s t u ps off) (s.nextWave + i) = launchWave t s.nextWg i t.die u part y) ∧
  (∀ k t j g, getTask s k = some t → t.wg = some j → getWg s j = some g → t.st = .running → g.st = .resident →
    g.task = some k → unended s g = [] → groupCmds s j g = [] → (∀ x ∈ groupWaves s g, x.2.pend = []) →
    ∃ u, exec (.taskEnd k) s = .next u ∧ u = dropGroup (addDone (endLeases s (.task k)) t g) j ∧
      getTask u k = none ∧ getWg u j = none) ∧
  (∀ thief peer c, dieTakes s thief = true →
    visibleCands s thief thief (·.take 64) ++ pendingCands s thief thief = [] → dieHasRoom s thief = true →
    s.conts.any (fun c => contReady s thief c && c.die == thief) = false →
    stealPeer s thief = some peer → tasksWaiting s thief < 64 → (getNode s peer).halt = false →
    nodeActive s peer = true →
    s.conts.find? (fun c => c.die == peer && contReady s thief c && (chooseCore s thief [256] 0 none).isSome) = none →
    stolenCand s thief peer = some c → exec (.steal thief peer) s =
      .next (dispatchCand (modNode s peer (fun n => { n with steal := (handleIndex c.handle + 1) % 2048 })) thief c)) ∧
  (∀ d, nodeActive s d = true → d < 32 → (getNode s d).countAt + 1000 ≤ nodeTime s d →
    ∃ t, exec .stealCountExchange s = .next t ∧ (getNode t d).countAt = nodeTime s d) ∧
  (∀ die i q k b y u, (getQidx s (die * 2048 + i)).q = some q → q.soft = false → (getNode s die).halt = false →
    (s.pending.filter (fun p => handleDie p.handle == die)).length < 4096 → (visibleSeqs q).head? = some k →
    recordAt s q k = some b → recDeps b ≠ 0 → takeSlot s q.handle k = (u, some y) →
    ∃ t z, exec (.pendingLift die i) s = .next t ∧ z ∈ t.pending ∧ z.handle = q.handle ∧ z.seq = k ∧ z.rec_ = y.rec_ ∧
      z.count = recDeps y.rec_)

/-- R174-R185: a blocked workgroup is parked when room is wanted, and is ready when one of its waves would wake; a
continuation resumes as a new wave; a watchdog that expires once posts a record, and twice resets the context; a
pre-emption saves, and at its last deadline resets. -/
def Obligations.TaskEvents : Prop := ∀ (s : State),
  (∀ k g, getWg s k = some g → parkable s k g = true →
    s.wgs.all (fun e => e.1 == k || e.2.node != g.node || e.2.unit != g.unit || !parkable s e.1 e.2
      || decide (blockedSince s g ≤ blockedSince s e.2)) = true →
    dieRuns s g.node = true → roomWanted s g.node g.unit = true →
    ∃ t, exec (.workgroupPark k) s = .next t ∧ (getWg t k).map (·.st) = some (.parked false)) ∧
  (∀ k g, getWg s k = some g → g.st = .parked false →
    (unended s g).any (fun x => (wavePaths x.2).any (pathWakes s x.2)) = true →
    exec (.parkedWorkgroupReady k) s = .next (setWg s k { g with st := .parked true })) ∧
  (∀ d k c, (s.conts.filter (fun c => contReady s d c && c.die == d))[k]? = some c → dieTakes s d = true →
    exec (.continuationResume d k) s = .next (resumeCont s d c)) ∧
  (∀ d c unit ps off u l, chooseCore s d [256] 0 none = some (unit, ps, off) →
    unitRead s c.asid (contVa (getCtx s c.asid) c.slot) 2112 = (u, .ok l) → zeroAt l [(15, 1), (56, 8)] = true →
    getWave (resumeCont s d c) u.nextWave = contWave l c.asid u.nextWg d unit (ps.headD 0)) ∧
  (∀ k t, getTask s k = some t → watchExpired t = true →
    (t.expired = false → ∃ u, exec (.watchdogFirstExpiry k) s = .next u ∧
      getTask u k = some { t with cycles := 0, expired := true } ∧ u.waves = s.waves) ∧
    (t.expired = true → ∃ u, exec (.watchdogSecondExpiry k) s = .next u ∧ (getCtx u t.asid).wdx = true ∧
      (getCtx u t.asid).sched = .halted)) ∧
  (∀ k y, s.preempts[k]? = some y → exec (.preemptSave k) s = .next (preemptStep s y)) ∧
  (∀ k y j g, s.preempts[k]? = some y → isHalt y.target = false →
    deadlineNs s.mods.d1 + deadlineNs s.mods.d2 ≤ y.count → getWg s j = some g → preemptHits s y.target g = true →
    groupQuiet s j = false → ∃ u, exec (.preemptForce k) s = .next u ∧ (getCtx u g.asid).prex = true)

/-! ## Engines (R219, R228-R230, R406-R428) -/

/-- R406-R409, R413-R426: an engine instruction whose block, operands, ranges and leases are in order retires with a tag and
issues its command; one whose block or operands are outside the limits is an illegal operand, SUB 4, of its lowest lane.
`ewait` returns the status of the oldest completion among its tags, or 0, and blocks while a command is outstanding;
`evpop` takes the oldest completion. -/
def Obligations.EngineInstructions : Prop := ∀ (f : GenF) (s : State) (w : Wave) (p : Path),
  let x : Rd := ⟨s, w, p⟩
  let e := workMask x f.h.g
  let l := (lowestLane e).getD 0
  let a := opnd32 x f.h.sa l
  let b := opnd32 x f.h.sb l
  let c := opnd32 x f.h.sc l
  let blk := bytesOfNat 64 (scrRead s (waveCore w) ((scrAlloc s w).1 + a) 64)
  let q := (cpyArgs f x l).1
  let o := (cpyArgs f x l).2
  let bad := fun (i : Instr) => exec i s = .next (trapNow s cIllegalOpnd 4 (entryMask w p f.h.g) (laneBit l) 0)
  let plain := fun (i : Instr) (r : Option EngReq) =>
    (∀ y, r = some y → EngineReady s i w p f.h.g y → EngineIssued s i w p f y) ∧
    (r = none → Ready s i w p → e ≠ 0 → w.home = none → bad i)
  let block := fun (i : Instr) (r : Option EngReq) => BlockHere s w a →
    (∀ y, r = some y → EngineReady s i w p f.h.g y → cpyTbBad y = none → cpyTbOut (scrAlloc s w).2 y = none →
      EngineIssued s i w p f y) ∧
    (r = none → Ready s i w p → e ≠ 0 → w.home = none → bad i)
  block (.mmx f) (mmxReq blk) ∧ block (.mepi f) (mepiReq blk) ∧ block (.wmv f) (wmvReq blk) ∧
  block (.wld f) (wldReq blk) ∧ block (.cpyLd f) (cpyLdReq blk q o) ∧ block (.cpySt f) (cpyStReq blk q o) ∧
  block (.cpym f) (cpymReq blk q o) ∧ plain (.mmz f) (mmzReq a b) ∧ plain (.mldA2s f) (mldA2sReq a b c) ∧
  plain (.mldS2a f) (mldS2aReq a b c) ∧ plain (.bcpy f) (bcpyArgs false f x l) ∧
  plain (.bcpyReg f) (bcpyArgs true f x l) ∧
  (let t : Word := BitVec.ofNat 32 (opnd32 x f.h.sa 0)
   let mine := (ownCmds s s.cur w).filter (fun y => if t = 0 then y.wave == some s.cur else y.tag == t)
   Ready s (.ewait f) w p → e ≠ 0 →
   (p.st = .live → mine = [] → (t = 0 ∨ ∀ y ∈ (compList s w).1, y.tag ≠ t) →
     ∃ v, exec (.ewait f) s = .next (retire s s.cur v) ∧ DstHas w v f.h.dst 1 e (fun _ => 0)) ∧
   (∀ k y, p.st = .live → mine = [] → t ≠ 0 → indexWhere (fun z => [t].contains z.tag) (compList s w).1 = some k →
     (compList s w).1[k]? = some y →
     ∃ u v, exec (.ewait f) s = .next (retire u s.cur v) ∧ DstHas (getWave u s.cur) v f.h.dst 1 e (fun _ => y.status) ∧
       compList u (getWave u s.cur) = (listErase (compList s w).1 k, (compList s w).2) ∧
       (getWave u s.cur).regs = w.regs) ∧
   (p.st = .live → mine ≠ [] → ∃ u, exec (.ewait f) s = .next u ∧
     (curPath (getWave u s.cur)).map (fun r => r.st) = some (.blocked (.ewait (mine.map (fun y => y.tag)) false))) ∧
   (∀ tags, p.st = .blocked (.ewait tags true) → exec (.ewait f) s = .next (ewaitReturn
     (setWave s s.cur (setCurPath w (some { p with st := .live }))) s.cur { p with st := .live } f tags (t == 0)))) ∧
  (Ready s (.evpop f) w p → e ≠ 0 →
    ((compList s w).1 = [] → ∃ u v, exec (.evpop f) s = .next (retire u s.cur v) ∧
      DstHas (getWave u s.cur) v f.h.dst 4 e (fun _ => (compList s w).2 * 2 ^ 40) ∧
      compList u (getWave u s.cur) = ([], 0)) ∧
    (∀ y r, (compList s w).1 = y :: r → ∃ u v, exec (.evpop f) s = .next (retire u s.cur v) ∧
      DstHas (getWave u s.cur) v f.h.dst 4 e (fun _ => y.tag.toNat + (y.status + (compList s w).2 * 256 +
        y.engine * 65536 + y.wave * 2 ^ 24) * 2 ^ 32 + y.addr.toNat * 2 ^ 64) ∧
      compList u (getWave u s.cur) = (r, 0)))

/-- R219, R246, R410, R422, R424: a command starts when no older one stands in its way, and completes when it has made
its effects and they are acknowledged; then it has left the scoreboard. A copy of a multicast that arrives marks the receiver's
lines empty; then the receiver writes it and its lines are full, or drops it when no workgroup owns the bytes; a W-die serves the oldest operation of a slot. R409, R414, R415, R420,
R424, R426: what the effects of a command are: `mmx` gives each element of C its chain of block products, `mmz` zeros,
`mld` copies between the memories of the core, `cpy.ld` lays the tile; a `wld` empties its slot, then fills it; a
`wmv` is answered with the slot's condition, or with the partials of each element. -/
def Obligations.EngineEvents : Prop :=
  (∀ (s : State) (ck tag : Nat) (c : Cmd),
   let t : Word := BitVec.ofNat 32 tag
   (findCmd s ck t = some c → c.started = false → engRuns s (cmdNode c) = true →
     ((getCore s ck).score.takeWhile (fun y => y.tag != t)).all (fun y => letsStart y c) = true →
     ∃ u, exec (.engineCmdStart ck tag) s = .next u ∧ (findCmd u ck t).map (fun y => y.started) = some true ∧
       (getCore u ck).scr = (getCore s ck).scr ∧ (getCore u ck).acc = (getCore s ck).acc) ∧
   (findCmd s ck t = some c → c.started = true → engRuns s (cmdNode c) = true → c.written = true → c.regs = [] →
     exec (.engineCmdComplete ck tag) s = .next (finishCmd s ck c (c.status, c.sub, c.addr)) ∧
     findCmd (finishCmd s ck c (c.status, c.sub, c.addr)) ck c.tag = none) ∧
   (findCmd s ck t = some c → c.started = true → engRuns s (cmdNode c) = true → c.written = false → slotOf c.k = none →
     c.inp = none → cmdHeld s c (runMap c.asid (cmdGlbR c.k)) = false →
     cmdHeld s c (runMap c.asid ((cmdOut c {} false).glb.map (fun x => (x.1, x.2.length)))) = false →
     exec (.engineCmdComplete ck tag) s = .next (cmdEffects (cmdRead s ck c 0).1 ck c (cmdRead s ck c 0).2)) ∧
   (∀ n p unit asid o bytes id, servable s n = some p → p.msg = .mcast unit asid o bytes none id →
     (getNode s p.dst).busy = false →
     let owned := (allocOwner s p.dst unit asid o bytes.length).isSome
     let fe := fun (t : State) (i : Nat) => Tab.find (getCore t (coreKey p.dst unit)).empty i
     (p.arrived = false → ∃ u, exec (.cpymReceiverWrite n) s = .next u ∧ servable u n = some { p with arrived := true } ∧
       (∀ i, (fe u i).isSome = ((fe s i).isSome || (owned && (linesOf o bytes.length).contains i))) ∧
       ∀ i, Tab.get 0 (getCore u (coreKey p.dst unit)).scr i = Tab.get 0 (getCore s (coreKey p.dst unit)).scr i) ∧
     (p.arrived = true → owned = false →
       exec (.cpymReceiverWrite n) s = .next (cmdRegDone (takeMsg s n) id (some (stDrop, BitVec.ofNat 64 o)))) ∧
     (p.arrived = true → owned = true →
       ∃ u, exec (.cpymReceiverWrite n) s = .next u ∧ (∀ i l, fe s i = some l →
         (∀ y ∈ l, y = mcastMark id ∨ y = 0) → (linesOf o bytes.length).contains i = true → fe u i = none) ∧
         ∀ i, i < bytes.length → ∀ b, bytes[i]? = some (some b) →
           Tab.get 0 (getCore u (coreKey p.dst unit)).scr (o + i) = b)) ∧
   (∀ d slot op, (getWdie s d).ops.find? (fun z => match findCmd s z.1 z.2 with
       | some y => (slotOf y.k).any (fun x => x % 64 == slot && 2 * (cmdNode y - 24) + x / 64 == d)
       | none => false) = some op → findCmd s op.1 op.2 = some c → nodeActive s (32 + d) = true →
     engRuns s (cmdNode c) = true → exec (.wdieOperationServe d slot) s = .next (serveSlot s d slot op.1 c))) ∧
  (∀ (s : State) (ck : Nat) (c : Cmd) (i : CmdIn),
   let u := cmdEffects s ck c i
   let acc := fun (t : State) (a : Nat) => Tab.get 0 (getCore t ck).acc (c.off / 2 + a)
   let scr := fun (t : State) (a : Nat) => Tab.get 0 (getCore t ck).scr (c.off + a)
   (CleanCmd s c i →
     (∀ b, c.k = .mmx b → mmxBad b = false → ∀ m n j, m < (mmxP b).m → n < (mmxP b).n → j < 4 →
       acc u ((mmxP b).coff + m * (mmxP b).cstr + 4 * n + j) = byteAt (bytesOfNat 4 (mmxElem c i (mmxP b) m n)) j) ∧
     (∀ a n, c.k = .mmz a n → (∀ j, j < n → acc u (a + j) = 0) ∧ (∀ j, j < a ∨ a + n ≤ j → acc u j = acc s j)) ∧
     (∀ b a n, c.k = .mldA2s b a n → ∀ j, j < n → scr u (b + j) = inAcc c i (a + j)) ∧
     (∀ b a n, c.k = .mldS2a b a n → ∀ j, j < n → acc u (a + j) = inScr c i (b + j)) ∧
     (∀ d c0 c1 c2 c3 o, c.k = .cpyLd d c0 c1 c2 c3 o none →
       ∀ j, j < (tileData c i (tensorP d) (coords c0 c1 c2 c3)).length →
         scr u (o + j) = byteAt (tileData c i (tensorP d) (coords c0 c1 c2 c3)) j)) ∧
   (∀ d sl b, c.k = .wld b →
     let x := Tab.get {} (getWdie s d).slots sl
     (x.st ≠ .loading → (Tab.get {} (getWdie (serveSlot s d sl ck c) d).slots sl).st = .loading) ∧
     (∀ t y, x.st = .loading → cmdHeld s c (runMap c.asid (cmdGlbR c.k)) = false → cmdRead s ck c 0 = (t, y) →
       (worst y.codes).1 ≤ stRace →
       Tab.get {} (getWdie (serveSlot s d sl ck c) d).slots sl = loadedSlot t c (wldP b) y)) ∧
   (∀ d sl b, c.k = .wmv b → findCmd s ck c.tag = some c →
     let x := Tab.get {} (getWdie s d).slots sl
     let st := wmvStatus s c (wmvP b) x
     (st ≠ 0 → (findCmd (serveSlot s d sl ck c) ck c.tag).map (fun y => y.served) = some (some (st, []))) ∧
     (st = 0 → ∃ y, (findCmd (serveSlot s d sl ck c) ck c.tag).bind (fun z => z.served) = some (0, y) ∧
       y.length = (wmvP b).rows * (wmvP b).ncnt)))

/-! ## System instructions (R119, R140, R265, R430-R439) -/

/-- R119, R140, R430-R439: `capr` gives each lane its capability entry, and `ctlr` the register's value. `ctlw` retires and
the register takes the value; a register that the issuer may not write, and a number without one, trap. `atinv` arrives at
the grantors, waits for the leases of its range, and retires with the translations of the range dropped. `lsave` stores the
wave's save area and gives its length, and `lrest` replaces the interrupted state by the area that it reads. `whalt` answers
whether it holds, and holds the wave, or its workgroup. `csleep` gives the code of a fired monitor or blocks, and returns
with the code of its wake-up. `keydrop` starts a destruction and waits for its end. -/
def Obligations.SystemInstructions : Prop :=
  (∀ (f : GenF) (s : State) (w : Wave) (p : Path),
   let x : Rd := ⟨s, w, p⟩
   let e := workMask x f.h.g
   let n := numOpnd x f.h.sa
   let va : DWord := BitVec.ofNat 64 (opndWide x 2 f.h.sa 0)
   let trap := fun (i : Instr) (sub : Nat) => exec i s = .next (trapNow s cIllegalOpnd sub (entryMask w p f.h.g) e 0)
   (Ready s (.capr f) w p → ∃ v, exec (.capr f) s = .next (retire s s.cur v) ∧
     DstHas w v f.h.dst 4 e (fun l => capEntry s (opnd32 x f.h.sa l))) ∧
   (Ready s (.ctlr f) w p → e ≠ 0 → ctlKind n ≠ .none_ →
     ∃ r v, ctlReadFor s w n = r ∧ exec (.ctlr f) s = .next (retire r.1 s.cur v) ∧
       DstHas (getWave r.1 s.cur) v f.h.dst 2 e (fun _ => r.2)) ∧
   (Ready s (.ctlw f) w p → e ≠ 0 → ctlKind n ≠ .none_ →
     (ctlWritable n (w.general && w.sup) = false → trap (.ctlw f) 2) ∧
     (ctlWritable n (w.general && w.sup) = true → releaseWaits s s.cur .pkg = false →
       exec (.ctlw f) s = .next (ctlWrite (retire s s.cur w) w.asid n (BitVec.ofNat 64 (opndWide x 2 f.h.sb 0))))) ∧
   (∀ i, i = .ctlr f ∨ i = .ctlw f → Ready s i w p → e ≠ 0 → ctlKind n = .none_ → trap i 4) ∧
   (∀ i force, i = .atinv f ∧ force = false ∨ i = .atinvForce f ∧ force = true → Ready s i w p → e ≠ 0 →
     (atinvRange va (numOpnd x f.h.sb) (numOpnd x f.h.sc) = none → trap i 4) ∧
     (∀ r, atinvRange va (numOpnd x f.h.sb) (numOpnd x f.h.sc) = some r → w.pend = [] →
       let b : Atinv := { who := .wave s.cur, asid := numOpnd x f.h.sc, range := r, force := force }
       (s.atinvs.find? (sameAtinv b) = none → atinvBlocked s b = false →
         exec i s = .next (opWait (atinvArrive s b) s.cur)) ∧
       (∀ a, s.atinvs.find? (sameAtinv b) = some a → atinvLeased s a = false →
         (a.tag = none → exec i s = .next (opWait (atinvDrain s a) s.cur)) ∧
         (a.tag.isSome = true → atinvRegions s a = [] →
           ∃ u, exec i s = .next (retire u s.cur (getWave u s.cur)) ∧ (∀ y ∈ u.atinvs, sameAtinv b y = false) ∧
             ∀ y ∈ u.tlb, y.asid = a.asid → rangesMeet { lo := y.base, hi := y.base + y.size } r = false)))) ∧
   (let allowed := fun (t : State) (kind : LKind) (k : Nat) (u : State) =>
      checkGlobal t s.cur (getWave t s.cur) p 1 kind false k [(0, va)] = (u, .ok)
    let area := waveArea (interrupted w)
    (∀ kind k, getWave s s.cur = w → w.general = false → LanesAllowed s w kind false k [(0, va)] → allowed s kind k s) ∧
    (∀ i, i = .lsave f ∨ i = .lrest f → Ready s i w p → e ≠ 0 → va.toNat % 64 ≠ 0 → trap i 4) ∧
    (∀ t, Ready s (.lsave f) w p → e ≠ 0 → va.toNat % 64 = 0 → w.badRegs = [] → allowed s .write area.length t →
      ∃ u v, u = storeLane t s.cur (storeAt (getWave t s.cur) (0, va)) area .plain ∧
        exec (.lsave f) s = .next (retire u s.cur v) ∧ DstHas (getWave u s.cur) v f.h.dst 1 e (fun _ => area.length)) ∧
    (∀ t u v, Ready s (.lrest f) w p → e ≠ 0 → va.toNat % 64 = 0 → w.op = {} → allowed s .read 64 t →
      CoreHolds t (getWave t s.cur) 64 [(0, va)] →
      let k := fieldAt (bytesOfNat 64 (coreValue t (getWave t s.cur) va 64)) 4 4
      64 ≤ k → k ≤ areaMax → allowed t .read k u → CoreHolds u (getWave u s.cur) k [(0, va)] →
      restoreArea (getWave u s.cur) (bytesOfNat k (coreValue u (getWave u s.cur) va k)) = some v →
      exec (.lrest f) s = .next (retire u s.cur v))) ∧
   (∀ i, i = .whalt f ∨ i = .whaltGroup f → Ready s i w p → e ≠ 0 → holdPossible s w = false →
     ∃ v, exec i s = .next (retire s s.cur v) ∧ PredHas w v f.h.dst (entryMask w p f.h.g) (fun _ => false)) ∧
   (∀ i, i = .whalt f ∨ i = .whaltGroup f → Ready s i w p → e ≠ 0 → holdPossible s w = true →
     ∃ v, holdAnswer s s.cur p f true = retire s s.cur v ∧ PredHas w v f.h.dst (entryMask w p f.h.g) (fun _ => true) ∧
       (i = .whalt f ∨ w.wg.bind (getWg s) = none → exec i s = .next (holdWave (retire s s.cur v) s.cur)) ∧
       (∀ k g, i = .whaltGroup f → w.wg = some k → getWg s k = some g → g.st = .resident →
         exec i s = .next (holdByWave (retire s s.cur v) s.cur k g))) ∧
   (∀ k g c m hold, Ready s (.whaltGroup f) w p → e ≠ 0 → holdPossible s w = true → w.wg = some k → getWg s k = some g →
     g.st = .halting c m hold →
     ∃ v, exec (.whaltGroup f) s = .next (retire s s.cur v) ∧ PredHas w v f.h.dst (entryMask w p f.h.g) (fun _ => hold)) ∧
   (∀ m c, Ready s (.csleep f) w p → e ≠ 0 → w.mon = some m → m.fired = some c →
     ∃ v, exec (.csleep f) s = .next (retire s s.cur v) ∧ DstHas w v f.h.dst 1 e (fun _ => c)) ∧
   (Ready s (.csleep f) w p → e ≠ 0 → w.mon.bind (fun m => m.fired) = none →
     ∃ t, exec (.csleep f) s = .next t ∧ (curPath (getWave t s.cur)).map (fun q => q.st) =
       some (.blocked (.csleep f (deadline s w (opnd32 x f.h.sa 0))))) ∧
   (Ready s (.keydrop f) w p → e ≠ 0 →
     (f.h.sa = .null → waveSlot s w = 0 → trap (.keydrop f) 4) ∧
     (f.h.sa = .null → waveSlot s w ≠ 0 → releaseWaits s s.cur .sys = false → exec (.keydrop f) s =
       .next (opWait (startKeyDestroy s (waveSlot s w) (waveAgent s w)) s.cur)) ∧
     (f.h.sa ≠ .null → (n = 0 ∨ 1024 ≤ n) → trap (.keydrop f) 4) ∧
     (f.h.sa ≠ .null → 0 < n → n < 1024 →
       (w.op.vals = [] → (getKey s n).alloc = false →
         ∃ v, exec (.keydrop f) s = .next (retire s s.cur v) ∧ DstHas w v f.h.dst 1 e (fun _ => 1)) ∧
       (w.op.vals = [] → (getKey s n).alloc = true → ∃ u, exec (.keydrop f) s = .next u ∧
         (getWave u s.cur).op.vals = [(0, (getKey s n).gen)] ∧ (getKey u n).destroying.isSome = true) ∧
       (∀ g, w.op.vals = [(0, g)] → ((getKey s n).alloc = false ∨ (getKey s n).gen ≠ g) →
         ∃ v, exec (.keydrop f) s = .next (retire s s.cur v) ∧ DstHas w v f.h.dst 1 e (fun _ => 0))))) ∧
  (∀ (f : GenF) (s : State) (id slot code : Nat) (q : Path) (dl : Option Nat),
   blockedAt s id slot = some (q, .csleep f dl) → code ≤ 4 → mwaitDue s (getWave s id) dl code = true →
   (code = 4 → (getWave s id).mon.isSome = true) →
   ∃ u v, exec (.csleepWake id slot code) s = .next (retire u id v) ∧ (getWave u id).mon = (getWave s id).mon ∧
     (getWave u id).regs = (getWave s id).regs ∧
     DstHas (getWave u id) v f.h.dst 1 (workMask ⟨u, getWave u id, { q with st := .live }⟩ f.h.g) (fun _ => code)) ∧
  (∀ (s0 r : State) (id a n : Nat),
   let s := withdrawTokens { s0 with watches := s0.watches.filter (fun x => x.wave != id) } id
   let v := getWave s id
   poolWrite s v.asid (imageBytes true (scrAlloc s v).2 [(v.num, waveArea v)] (fun _ => {}) (fun _ => true) [] []) =
     (r, some (a, n)) → getWave (holdWave s0 id) id = { v with run := .held a n, mon := none }) ∧
  (∀ (s : State) (a k : Nat) (y : DWord),
   let c := ctlValue (ctlWrite s a k y) a k
   (k = 0 → c = (y &&& 0x80007FFFFFFFFFFF#64).toNat) ∧ (k = 1 → c = (y &&& 0x003FFFFFFFFFF01F#64).toNat) ∧
   (k = 4 → c = (y &&& 0x003FFFFFFFFFF000#64).toNat) ∧ (k = 5 → c = y.toNat % 2 ^ 32 &&& 0xC000001F) ∧
   (k = 7 → c = (y &&& 0x003FFFFFFFC00001#64).toNat) ∧ (k = 8 → c = (y &&& 0xF83FFFFFFFFFFFC0#64).toNat) ∧
   (k = 0xA → c = y.toNat) ∧ (k = 0xB → c = y.toNat % 2 ^ 32) ∧ (0x30 ≤ k → k < 0x40 → c = y.toNat % 2 ^ 32) ∧
   (0x40 ≤ k → k < 0x80 → c = (y &&& 0x80000000000003FF#64).toNat) ∧ (0x80 ≤ k → c = (maskRset y).toNat))

/-! ## Waves between their instructions (R201, R209, R210, R228, R264) -/

/-- R201, R209, R210, R228, R264: a deferred trap that is ready enters the handler, deferred, with the lane, cause, SUB and
address of its access, and leaves the list. A sibling that the group halt reaches halts, and stops at once when it is
blocked, in handler mode, or at its boundary. A queued path that has waited 256 turns takes a slot; one that has waited 256 turns at a join
has the next turn. When a line is no longer empty, the first waiting scratchpad access of the core is tried again. -/
def Obligations.WaveEvents : Prop := ∀ (s : State) (id : Nat),
  let w := getWave s id
  (∀ k d p, waveRuns s id = true → w.run = .run → w.general = false → w.handler = none → w.op.vals = [] →
    indexWhere (deferredReady w) w.deferred = some k → w.deferred[k]? = some d → boundaryPath w = some p →
    handlerTakes (getCtx s w.asid) (preciseTrap w p d.cause d.sub 0 0 0) = true →
    ∃ t h, exec (.deferredTrapTaken id) s = .next t ∧ (getWave t id).handler = some h ∧ h.trap.cause = d.cause ∧
      h.trap.sub = d.sub ∧ h.trap.addr = d.addr ∧ h.trap.fmask = laneBit d.lane ∧ h.trap.pc = pathPc p ∧
      h.trap.deferred = true ∧ h.path = { pc := (getCtx s w.asid).trapPc, mask := 1 } ∧
      (getWave t id).deferred = listErase w.deferred k ∧ (getWave t id).regs = w.regs ∧ t.mem = s.mem) ∧
  (∀ k g c n hold, w.wg = some k → getWg s k = some g → g.st = .halting c n hold → waveExists s id = true →
    waveEnded w = false →
    (w.run = .run → waveBlocked w = false → w.handler = none →
      exec (.groupHaltArrival id false) s = .next (setWave s id { w with run := .halting s.time 0 })) ∧
    (∀ stop, w.run = .run → (stop = true ∨ waveBlocked w = true ∨ w.handler.isSome = true) →
      ∃ u, exec (.groupHaltArrival id stop) s = .next (stopProgress u k) ∧ (getWave u id).run = .stopped 0 ∧
        (getWave u id).regs = w.regs ∧ (∀ j, j ≠ id → getWave u j = getWave s j)) ∧
    (∀ t0 skid, w.run = .halting t0 skid →
      ∃ u, exec (.groupHaltArrival id true) s = .next (stopProgress u k) ∧ (getWave u id).run = .stopped skid ∧
        (getWave u id).regs = w.regs ∧ (∀ j, j ≠ id → getWave u j = getWave s j))) ∧
  (∀ k q, waveRuns s id = true → w.op.id = 0 → w.handler = none → promotionDue w = true →
    indexWhere (fun q => eligible q && decide (256 ≤ q.wait)) w.queue = some k → w.queue[k]? = some q →
    ∃ v i r, exec (.pathPromotion id) s = .next (setWave s id v) ∧ getSlot v i = some r ∧ r.pc = q.pc ∧
      r.mask = q.mask ∧ (∀ p, getSlot w i = some p → toQueue p ∈ v.queue) ∧ v.regs = w.regs) ∧
  (∀ slot n p, slot < 2 → waveExists s id = true → w.op.id = 0 → getSlot w slot = some p → p.st = .join n → 256 ≤ n →
    ∃ t, exec (.joinTimeout id slot) s = .next t ∧ getWave t id = { w with cur := 1 - slot } ∧
      nextSlot (getWave t id) = some slot) ∧
  (∀ line l r x t i, s.waves = l ++ (id, x) :: r → (Tab.find (getCore s (waveCore x)).empty line).isSome = false →
    headInstr s id = some (t, i) → ((∃ a f, i = .lds a f) ∨ (∃ a f, i = .atoms a f) ∨ (∃ f, i = .acass f) ∨
      (∃ a f, i = .reds a f)) → (∀ e ∈ l, waveCore e.2 ≠ waveCore x ∨ headInstr s e.1 = none) →
    ∃ u, exec (.emptyLineFilled (waveCore x) line) s = .next u ∧ exec i t = .next u)

/-! ## Flows, package time, the home-table rewrite (R24-R27, R43-R60) -/

/-- R43, R47, R49, R58-R60: an ordered message that follows its flow's last is delivered; one ahead of its turn is kept for
reordering, and a duplicate is dropped. A message of another module goes on toward where it is served; one of a reserved
class is logged. When a path fails every unacknowledged message travels again. A hub forwards to a module that it reaches,
at most four hops, hands the message to the other hub, or ends it as unreachable, which its requester is told and the
fault processor logs; it serves a record of another module and answers it. FLOW_RESET is handled; a die takes the hold, or its clearing, and has acknowledged it. R24-R27, R116: a stamp gives a
node its offset, at most 32,767 ns, and a slew toward it that does not step its time; it is out of step while the
offset is above 20 ns. A stamp that is missed is counted, and the eighth in a row loses the node's synchronisation.
Hub 1 becomes the source after 10 us without stamps. -/
def Obligations.FlowEvents : Prop :=
  (∀ (s : State) (n : Nat),
   (∀ ack p key, s.net.wire[n]? = some p → p.fl = some key → stalls s p = false →
     let f := getFlow s.net key
     ∃ t, exec (.flowMessageArrival (.wire n) ack) s = .next t ∧ t = { s with net := t.net } ∧
       (p.seq = f.expect → ∃ l, t.net.inbox = s.net.inbox ++ p :: l ∧ (∀ q ∈ l, q ∈ f.reorder)) ∧
       (p.seq = f.expect → f.reorder = [] → t.net.inbox = s.net.inbox ++ [p] ∧
         (getFlow t.net key).expect = (f.expect + 1) % 65536) ∧
       (0 < (p.seq + 65536 - f.expect) % 65536 → (p.seq + 65536 - f.expect) % 65536 < 32768 →
         (∀ q ∈ f.reorder, q.seq ≠ p.seq) →
         t.net.inbox = s.net.inbox ∧ (getFlow t.net key).reorder = f.reorder ++ [p]) ∧
       (32768 ≤ (p.seq + 65536 - f.expect) % 65536 →
         t.net.inbox = s.net.inbox ∧ (getFlow t.net key).reorder = f.reorder)) ∧
   (∀ m node seq l ack, m ≠ s.mods.podId → m < 64 →
     (∀ c p, clsOf (bitsOf (wordLo l 0) 18 3) = some c → podPkt s m c l = some p → (clsOrdered c = true →
       seq % 65536 = (getFlow s.net (65536 + m * 64 + node, clsCode c, bitsOf (wordLo l 0) 21 4)).expect) →
       ∃ t, exec (.flowMessageArrival (.pod m node seq l) ack) s = .next t ∧ Travels t p.src p.dst p.msg) ∧
     (clsOf (bitsOf (wordLo l 0) 18 3) = none → ∃ t, exec (.flowMessageArrival (.pod m node seq l) ack) s = .next t ∧
       t.net = s.net ∧
       (getNode t (roleHub s)).netLog = (getNode s (roleHub s)).netLog ++ [.badClass m node])) ∧
   (∀ f, s.net.flows[n]? = some f → ∃ t, exec (.flowPathFail n) s = .next t ∧ (∀ p ∈ f.unacked, p ∈ t.net.wire) ∧
     (∀ p ∈ s.net.wire, p.fl ≠ some f.key → p ∈ t.net.wire) ∧ t.net.inbox = s.net.inbox) ∧
   (∀ hub p m, servable s n = some p → p.dst = hub → p.mod = some m →
     let other := if hub = 48 then 49 else 48
     (p.hops ≤ 3 → hubReaches s hub m = true → exec (.hubForward hub n) s = .next (leaveModule (takeMsg s n) hub m p)) ∧
     (p.hops ≤ 3 → hubReaches s hub m = false → hubReaches s other m = true →
       ∃ t, exec (.hubForward hub n) s = .next t ∧ Travels t hub other p.msg) ∧
     (3 < p.hops ∨ hubReaches s hub m = false ∧ hubReaches s other m = false →
       exec (.hubForward hub n) s = .next (podUnreachable (takeMsg s n) p m))) ∧
   (∀ p m, p.smod = none →
     (∀ w lane a b c d e g mm, p.msg = .spawn a b c d e g w lane mm →
       podUnreachable s p m = spawnAnswered (logNet s (.unreachable m)) w lane qUnreach) ∧
     (∀ a b c d w e id l, p.msg = .gbarArr a b c d w e id l → waveExists s w = true → (getWave s w).op.id = id →
       (getWave (podUnreachable s p m) w).gdep = some { code := 3 } ∧
       (getNode (podUnreachable s p m) (roleHub s)).netLog = (getNode s (roleHub s)).netLog ++ [.unreachable m])) ∧
   (∀ p a b c d e g w lane m, servable s n = some p → p.mod = none → p.msg = .spawn a b c d e g w lane m →
     ∃ t code, exec (.hubForward p.dst n) s = .next t ∧ Travels t p.dst (roleHub s) (.spawnRsp w lane code)) ∧
   (∀ hub p w lane code, servable s n = some p → p.dst = hub → p.mod = none → p.msg = .spawnRsp w lane code →
     exec (.hubForward hub n) s = .next (spawnAnswered (takeMsg s n) w lane code)) ∧
   (∀ p lost, servable s n = some p → p.msg = .flowReset lost →
     exec (.flowReset n) s = .next (flowResetAt (takeMsg s n) p.dst lost)) ∧
   (∀ p x, servable s n = some p → p.msg = .hold x → ∃ t, exec (.debugHold n) s = .next t ∧
     (getNode t p.dst).dbgHold = true ∧ p.dst ∉ t.mods.dbgPend ∧ t.waves = s.waves ∧ t.mem = s.mem) ∧
   (∀ p, servable s n = some p → p.msg = .holdClear → ∃ t, exec (.debugHoldClear n) s = .next t ∧
     (getNode t p.dst).dbgHold = false ∧ p.dst ∉ t.mods.dbgPend ∧ t.waves = s.waves ∧ t.mem = s.mem)) ∧
  (∀ (s : State) (node : Nat),
   (∀ d : Int, node < 50 → node ≠ timeSource s → timeStarted s = true → nodeLost s node = false →
     nodeLost s (timeSource s) = false →
     let off : Int := (nodeTime s node : Int) - ((nodeTime s (timeSource s) : Int) + d)
     ∃ t, exec (.ptimeStamp node d) s = .next t ∧ nodeTime t node = nodeTime s node ∧
       (getNode t node).offset = max (-32767) (min off 32767) ∧ (getNode t node).slew = -off ∧
       (getNode t node).out = decide (20 < off.natAbs) ∧ (getNode t node).missRun = 0 ∧
       ((getNode t node).lost = true ↔ (getNode s node).lost = true ∧ 20 < off.natAbs)) ∧
   (node < 50 → node ≠ timeSource s → timeStarted s = true → nodeLost s node = false →
     (getNode s node).stampAt + 1000 ≤ s.time →
     ∃ t, exec (.ptimeStampMissed node) s = .next t ∧ (getNode t node).missRun = (getNode s node).missRun + 1 ∧
       (getNode t node).miss = min ((getNode s node).miss + 1) 255 ∧
       (7 ≤ (getNode s node).missRun → (getNode t node).lost = true)) ∧
   (s.mods.source = 0 → nodeLost s 49 = false → 10 ≤ (getNode s 49).missRun →
     ∃ t, exec .ptimeSourceTakeover s = .next t ∧ timeSource t = 49 ∧ nodeTime t 49 = nodeTime s 49))

/-- R54-R57: a GO is rejected with its ERR, or begins a rewrite: MOVE_MARK to every die and hub; a die that marks the
granules and has nothing waiting answers; after the last answer the old homes stop, and send what they hold: the tables of each granule, which then stand at the new
home, and its bytes, which the new home acknowledges, whereupon the old one sends HANDOFF_END. After the last HANDOFF_END
the entry is new and COMMIT goes to every die; after the last die has committed the rewrite is over. A redirected message
is kept until then, within its flow in SEQ order. -/
def Obligations.RewriteEvents : Prop := ∀ (s : State) (n : Nat),
  (∀ value : Word, bitsOf value.toNat 28 4 = 1 →
    let asid := bitsOf value.toNat 0 14
    let index := bitsOf value.toNat 14 6
    (∀ e, goError s asid index = some e → ∃ t, exec (.go value) s = .next t ∧ t.mods.rehomeErr = e ∧
      t = { s with mods := t.mods }) ∧
    (goError s asid index = none → ∃ t r, exec (.go value) s = .next t ∧ t.rehome = some r ∧ r.asid = asid ∧
      r.index = index ∧ r.new = s.mods.rehomeEnt ∧ r.old = Tab.get 0 (getCtx s asid).home index ∧ r.phase = 1 ∧
      t.mods.rehomeErr = 0 ∧ ∀ d ∈ rehomeNodes s, Travels t (roleHub s) d (.moveMark r.id))) ∧
  (∀ p r, servable s n = some p → p.msg = .moveMark r.id → s.rehome = some r → egressWaits s p.dst = false →
    ∃ t u, exec (.moveMark n) s = .next t ∧ t.rehome = some u ∧ p.dst ∈ u.marked ∧ (∀ d ∈ r.marked, d ∈ u.marked) ∧
      Travels t p.dst (roleHub s) (.markAck r.id)) ∧
  (∀ p r, servable s n = some p → p.msg = .markAck r.id → s.rehome = some r → r.phase = 1 →
    ∃ t u, exec (.markAck n) s = .next t ∧ t.rehome = some u ∧ u.acks = p.src :: r.acks ∧
      ((∃ d ∈ rehomeNodes s, d ∉ p.src :: r.acks) → u.phase = 1) ∧
      ((∀ d ∈ rehomeNodes s, d ∈ p.src :: r.acks) → u.phase = 2 ∧ ∀ x ∈ handoffList s r, x.1 ∈ u.stopped ∧
        x.2 ∈ u.ends ∧ Travels t x.1 x.2.1 (.handoff r.id x.2.2) ∧ Travels t x.1 x.2.1 (.handoffData r.id x.2.2))) ∧
  (∀ p r g, servable s n = some p → p.msg = .handoff r.id g → s.rehome = some r → r.phase = 2 →
    ∃ t, exec (.handoffState n) s = .next t ∧ t = moveTables (takeMsg s n) r.asid g p.src p.dst ∧
      (∀ x ∈ s.regions, x.node = p.src → x.asid = r.asid → granuleOf x.base = g → { x with node := p.dst } ∈ t.regions) ∧
      (∀ x ∈ s.tokens, x.node = p.src → x.asid = r.asid → x.base / 65536 = g → { x with node := p.dst } ∈ t.tokens)) ∧
  (∀ p r g, servable s n = some p → p.msg = .handoffData r.id g → s.rehome = some r → r.phase = 2 →
    ∃ t, exec (.handoffState n) s = .next t ∧ t.llc = (moveBytes s r.asid g p.src p.dst).llc ∧
      Travels t p.dst p.src (.handoffAck r.id g)) ∧
  (∀ p id g, servable s n = some p → p.msg = .handoffAck id g →
    ∃ t, exec (.handoffState n) s = .next t ∧ Travels t p.dst p.src (.handoffEnd id g)) ∧
  (∀ p r g, servable s n = some p → p.msg = .handoffEnd r.id g → s.rehome = some r → r.phase = 2 →
    let due := (r.ends.filter (fun x => x != (p.dst, g))).filter (fun x =>
      inFlight (takeMsg s n) (handoffMsg r.id x.2))
    ∃ t u, exec (.handoffEnd n) s = .next t ∧ t.rehome = some u ∧
      (due ≠ [] → u.phase = 2 ∧ u.ends = due) ∧
      (due = [] → u.phase = 3 ∧ Tab.get 0 (getCtx t r.asid).home r.index = r.new ∧
        ∀ d ∈ rehomeNodes s, Travels t (roleHub s) d .commit)) ∧
  (∀ p r, servable s n = some p → p.msg = .commit → s.rehome = some r → r.phase = 3 →
    ∃ t, exec (.commit n) s = .next t ∧
      ((∀ d ∈ rehomeNodes s, d ∈ p.dst :: r.committed) → t.rehome = none) ∧
      ((∃ d ∈ rehomeNodes s, d ∉ p.dst :: r.committed) → ∃ u, t.rehome = some u ∧ u.committed = p.dst :: r.committed ∧
        (∀ q ∈ u.held, q.src ≠ p.dst) ∧ (∀ q ∈ u.redirected, q.src ≠ p.dst))) ∧
  (∀ p m c seq, servable s n = some p → p.msg = .redirect m c seq →
    let fl := some (p.dst * 64 + p.src, clsCode c, flowId c ((msgHome m).getD (0, 0)).2)
    let q : Pkt := { src := p.dst, dst := p.src, cls := c, seq := seq, msg := m, fl := if clsOrdered c then fl else none }
    (∀ r, s.rehome = some r → p.dst ∉ r.committed → ∃ t u, exec (.redirect n) s = .next t ∧ t.rehome = some u ∧
      let later := fun (x : Pkt) => q.fl.isSome = true ∧ x.fl = q.fl ∧ (x.seq + 65536 - q.seq) % 65536 < 32768
      ∃ a b, r.redirected = a ++ b ∧ u.redirected = a ++ q :: b ∧ (∀ x ∈ a, ¬ later x) ∧ ∀ x, b.head? = some x → later x) ∧
    (s.rehome = none → exec (.redirect n) s = .next (replay (takeMsg s n) q)))

/-! ## Leases and faults (R109-R118, R252-R256) -/

/-- R110, R111, R115: a lease request against which nothing stands, and whose walks succeed, is granted for one millisecond
of the grantor's time; one that conflicts waits, and is granted when nothing stands against it; one whose walk faults is
answered so. The grant gives the holder its part. Within 500 us of the end the holder renews, and the grantor answers by
how close the two times stand; the holder takes the new end, or loses the lease; it loses it 2 us before the end, and the
grantor frees it 2 us after. -/
def Obligations.LeaseEvents : Prop := ∀ (s : State) (n node k : Nat),
  let granted := fun (t u : State) (g : Grant) => (∃ y ∈ t.grants, y.node = g.node ∧ y.range = g.range ∧ y.ent = g.ent ∧
      y.kind = g.kind ∧ y.asid = g.asid ∧ y.holder = g.holder ∧ y.req = g.req ∧ y.live = true ∧
      y.e = nodeTime u g.node + 1000000 ∧
      Travels t g.node (holderNode u g.holder) (.grant (holderCode g.holder) g.part y.num y.e g.req)) ∧ t.mem = s.mem
  (∀ p h asid lo hi kind part ent req u f, servable s n = some p → p.msg = .leaseReq h asid lo hi kind part ent req →
    let g : Grant := { node := p.dst, num := 0, req := req, src := p.src, asid := if bitOf lo 53 then 0 else asid,
                       range := { lo := lo, hi := hi }, ent := ent, kind := kindOf kind, holder := holderOf h, part := part,
                       e := 0, live := false }
    grantWalk (takeMsg s n) g = (u, f) →
    (grantBlocked s g s.grantWaits = false → f = none →
      ∃ t, exec (.leaseRequest n) s = .next t ∧ granted t u g) ∧
    (∀ x, f = some x → ∃ t, exec (.leaseRequest n) s = .next t ∧ t.grants = s.grants ∧ t.grantWaits = s.grantWaits ∧
      ∃ d, Travels t p.dst d (.leaseFault (holderCode (holderOf h)) part x.1 x.2 req)) ∧
    (grantBlocked s g s.grantWaits = true → f = none → ∃ t, exec (.leaseRequest n) s = .next t ∧ t.grants = s.grants ∧
      t.grantWaits = s.grantWaits ++ [g] ∧ Travels t p.dst p.src (.held req))) ∧
  (∀ g u, (s.grantWaits.filter (fun g => g.node == node))[k]? = some g →
    grantBlocked s g ((s.grantWaits.filter (fun x => x.node == node)).take k) = false → (getNode s node).halt = false →
    grantWalk { s with grantWaits := s.grantWaits.filter (fun x => x != g) } g = (u, none) →
    ∃ t, exec (.leaseWaitGranted node k) s = .next t ∧ granted t u g ∧ g ∉ t.grantWaits) ∧
  (∀ p h part num e req x, servable s n = some p → p.msg = .grant h part num e req →
    (holderParts s (holderOf h))[part]? = some x → x.req = req →
    ∃ t, exec (.leaseGrant n) s = .next t ∧
      (holderParts t (holderOf h))[part]? = some { x with num := num, e := e, grantor := p.src, pending := false }) ∧
  (∀ h i p, (nodeParts s node)[k]? = some (h, i, p) → p.lost = false → p.pending = false → p.renewing = false →
    p.e ≤ nodeTime s node + 500000 → (getNode s node).dbgHold = false →
    ∃ t, exec (.leaseRenewDue node k) s = .next t ∧ (holderParts t h)[i]? = some { p with renewing := true } ∧
      Travels t node p.grantor (.renew node p.req (nodeTime s node))) ∧
  (∀ p d req x, servable s n = some p → p.msg = .renew d req x →
    let now := nodeTime s p.dst
    let close := x ≤ now + 2000 ∧ now ≤ x + 2000
    let mine := fun (g : Grant) => g.node = p.dst ∧ g.req = req ∧ g.live = true
    ((∃ g ∈ s.grants, mine g) → close → ∃ t, exec (.renew n) s = .next t ∧
      Travels t p.dst p.src (.renewed d req (now + 1000000)) ∧
      (∀ g ∈ s.grants, mine g → { g with e := now + 1000000 } ∈ t.grants) ∧ ∀ g ∈ s.grants, ¬ mine g → g ∈ t.grants) ∧
    ((∀ g ∈ s.grants, ¬ mine g) ∨ ¬ close → ∃ t, exec (.renew n) s = .next t ∧ Travels t p.dst p.src (.leaseLost d req))) ∧
  (∀ p d req id y (i : Nat) (x : LeasePart), servable s n = some p → getTask s id = some y → y.die = d →
    y.parts[i]? = some x → x.grantor = p.src → x.req = req →
    (∀ e, p.msg = .renewed d req e → x.lost = false → ∃ t, exec (.renewed n) s = .next t ∧
      (holderParts t (.task id))[i]? = some { x with e := e, renewing := false }) ∧
    (p.msg = .leaseLost d req → ∃ t, exec (.leaseLostAnswer n) s = .next t ∧
      (holderParts t (.task id))[i]? = some { x with lost := true, renewing := false })) ∧
  (∀ h i p, (nodeParts s node)[k]? = some (h, i, p) → p.pending = false → p.e ≤ nodeTime s node + 2000 →
    ∃ t, exec (.leaseHolderExpiry node k) s = .next t ∧ (holderParts t h)[i]? = some { p with lost := true }) ∧
  (∀ g, (s.grants.filter (fun g => g.node == node))[k]? = some g → g.e + 2000 ≤ nodeTime s node →
    ∃ t, exec (.leaseGrantorExpiry node k) s = .next t ∧ ∀ x, x ∈ t.grants ↔ x ∈ s.grants ∧ x ≠ g)

/-- R111, R112, R117, R118, R255: a lease fault of a task is routed: its leases go, the record that must be answered is
posted, and the task waits for its number. RESOLVED requests the leases again, or lets a stalled thread go on; DENIED ends
the task, and traps the thread. A fault processor with room in its ring writes its oldest record there, under key slot 0,
advances HEAD, and signals vector 1 of the PF. -/
def Obligations.FaultEvents : Prop := ∀ (s : State),
  (∀ n p h id part kind v req y x, servable s n = some p → p.msg = .leaseFault h part kind v req → holderOf h = .task id →
    getTask s id = some y → y.parts[part]? = some x → x.req = req → (faultRoute s y.asid v).1 = s.mods.podId →
    ∃ t z, exec (.leaseFaultAnswer n) s = .next t ∧ getTask t id = some z ∧ z.parts = [] ∧
      z.st = .faulted s.flt.nextSeq (kindCode x.kind) kind (vaFull v) ∧
      (s.flt.nextSeq, AnsFor.task id) ∈ t.flt.awaiting ∧ ∃ r ∈ t.flt.buffer, r.seq = s.flt.nextSeq ∧ r.answer = true) ∧
  (∀ seq q w, s.flt.awaiting.find? (fun a => a.1 == seq.toNat) = some (q, .thread w) →
    (∃ t, exec (.resolved seq) s = .next t ∧ (getWave t w).stall = some (q, some true)) ∧
    (∃ t, exec (.denied seq) s = .next t ∧ (getWave t w).stall = some (q, some false))) ∧
  (∀ seq q id y a b c d, s.flt.awaiting.find? (fun a => a.1 == seq.toNat) = some (q, .task id) → getTask s id = some y →
    y.st = .faulted a b c d →
    (∃ u, exec (.resolved seq) s =
        .next (requestRanges u (.task id) y.asid (recRanges y.entry y.rec_)) ∧
      (getTask u id).map (fun z => z.st) = some .leasing) ∧
    (y.wg = none → ∃ t, exec (.denied seq) s = .next t ∧ getTask t id = none)) ∧
  (∀ i r, let m := getNode s 48
    let size := bitsOf m.fltBase.toNat 0 5
    let pa := bitsOf m.fltBase.toNat 12 40 * 4096 + 256 * (m.fltHead.toNat % 2 ^ size)
    6 ≤ size → size ≤ 16 → (m.fltHead - m.fltTail).toNat ≠ 2 ^ size →
    indexWhere (fun r => procOf s r.hub == 48) s.flt.buffer = some i → s.flt.buffer[i]? = some r →
    ∃ t, exec .faultRecordPost s = .next t ∧ t.flt.buffer = listErase s.flt.buffer i ∧
      (getNode t 48).fltHead = m.fltHead + 1 ∧ t.msix = s.msix ++ [(0, 1)] ∧
      (paIsMemory pa = true → ∀ j, j < r.bytes.length → paRead t 0 (pa + j) = byteAt r.bytes j))

/-! ## Contexts, their commands, and the host (R84-R91, R112, R126-R155, R164, R184, R273-R277) -/

/-- R112, R134-R140, R164: CREATE gives the context of a descriptor in order, with its key slot; one in error leaves only its
ERR. DESTROY ends the context, and its function is busy until hub firmware's atinv. A die that a key destruction reaches
clears the slot's keys, drops its lines and acknowledges. A write of CTX_LEASE stores the register; one of CTX_TTYPE
drops the context's type entries and its instruction lines. -/
def Obligations.ContextEvents : Prop := ∀ (s : State),
  (∀ func (cmd : Word), s.mods.ready = true →
    let asid := bitsOf cmd.toNat 0 14
    let join := cmd.getLsbD 27
    let d := hostRead s (getFunc s func).ctxDesc.toNat 4096
    let e := createErr s func asid join d
    let slot := if join then (getCtx s (getFunc s func).ctxJoin.toNat).slot else (freeSlot s).getD 0
    (e ≠ 0 → exec (.ctxCreate func cmd) s = .next (modFunc s func (fun f => { f with ctxErr := e }))) ∧
    (e = 0 → ∃ t, exec (.ctxCreate func cmd) s = .next t ∧ (getCtx t asid).live = true ∧ (getCtx t asid).func = func ∧
      (getCtx t asid).slot = slot ∧ (getCtx t asid).home = (descCtx d func slot).home ∧
      (getCtx t asid).ptbase = (descCtx d func slot).ptbase ∧ (getCtx t asid).rset = (descCtx d func slot).rset ∧
      (getFunc t func).ctxErr = 0 ∧ (getFunc t func).ctxSlot = slot ∧
      (join = false → (getKey t slot).alloc = true ∧ (getKey t slot).gen = (getKey s slot).gen + 1))) ∧
  (∀ func (cmd : Word), let asid := bitsOf cmd.toNat 0 14
    (((getFunc s func).ctxBusy = true → exec (.ctxDestroy func cmd) s =
      .next (modFunc s func (fun f => { f with ctxErr := 1 })))) ∧
    ((getFunc s func).ctxBusy = false → (asid = 0 ∨ (getCtx s asid).live = false ∨ (getCtx s asid).func ≠ func) →
      exec (.ctxDestroy func cmd) s = .next (modFunc s func (fun f => { f with ctxErr := 3 }))) ∧
    ((getFunc s func).ctxBusy = false → asid ≠ 0 → (getCtx s asid).live = true → (getCtx s asid).func = func →
      ∃ t, exec (.ctxDestroy func cmd) s = .next t ∧ (getCtx t asid).live = false ∧
        (getCtx t asid).awaitsAtinv = true ∧ (getCtx t asid).leases = [] ∧ (getFunc t func).ctxErr = 0 ∧
        (getFunc t func).ctxBusy = true ∧ (getFunc t func).ctxAsid = asid)) ∧
  (∀ n p slot gen a, servable s n = some p → p.msg = .keyDestroy slot gen a → (getKey s slot).gen = gen →
    ∃ t, exec (.keyDestruction n) s = .next t ∧ p.dst ∈ (getKey t slot).cleared ∧
      (∀ l, (getKey t slot).destroying = some l → p.dst ∉ l) ∧
      (∀ e ∈ t.llc, e.1 / 2 ^ 61 = p.dst → lineSlot s (e.1 % 2 ^ 61) ≠ some slot) ∧ t.mem = s.mem) ∧
  (∀ asid k x, ctxThere s asid = true → k < 16 → ∃ t, exec (.ctxLeaseWrite asid k x) s = .next t ∧
    (Tab.get {} (getCtx t asid).leases k).reg = standingStore x ∧
    (∀ g ∈ t.grants, g.holder ≠ .standing asid k) ∧ t.mem = s.mem) ∧
  (∀ asid x, ctxThere s asid = true → ∃ t, exec (.ctxTtypeWrite asid x) s = .next t ∧
    (getCtx t asid).ttype = x &&& 0x003FFFFFFFC00001#64 ∧ (getCtx t asid).ttCache = [] ∧
    (∀ e ∈ t.icache, lineAsid (e.1 % 2 ^ 61) ≠ asid) ∧ (∀ e ∈ s.icache, lineAsid (e.1 % 2 ^ 61) ≠ asid → e ∈ t.icache))

/-- R86, R89, R91, R153-R155: CREATE of a queue takes the lowest free index of its die, with a new generation, and gives the
handle; DESTROY quarantines the index until every FLUSH is answered, and it is free again after the last. A FLUSH is
answered once what was sent before it has been delivered. CREATE of a token asks every owner inside it to hand back its
words; DESTROY does so and takes the token from its holder; a command in error leaves only its ERR. -/
def Obligations.ContextCommands : Prop := ∀ (s : State) (asid : Nat) (x : DWord), ctxThere s asid = true →
  let die := bitsOf x.toNat 7 5
  let base := tokCmdBase x
  let size := tokCmdSize x
  let ta := if bitOf base 53 then 0 else asid
  let alone := (getCtx s asid).qCmd.any (fun c => c != x) = false
  let refused := fun (i : Instr) (e : Nat) => ∃ t, exec i s = .next t ∧ (getCtx t asid).qErr = e ∧ t = { s with ctxs := t.ctxs }
  (¬ alone → refused (.queueCreate asid x) 1 ∧ refused (.queueDestroy asid x) 1) ∧
  (alone → qCreateErr s x ≠ 0 → refused (.queueCreate asid x) (qCreateErr s x)) ∧
  (∀ i, alone → qCreateErr s x = 0 → (List.range 2048).find? (fun i =>
      (getQidx s (die * 2048 + i)).q.isNone && (getQidx s (die * 2048 + i)).quar.isNone) = some i →
    let gen := match (getQidx s (die * 2048 + i)).gen with
      | none => 0
      | some g => (g + 1) % 64
    let h := makeHandle die i (getCtx s asid).slot gen
    ∃ t, exec (.queueCreate asid x) s = .next t ∧ (getCtx t asid).qErr = 0 ∧ (getCtx t asid).qHandle = h ∧
      (getQidx t (die * 2048 + i)).gen = some gen ∧ (getQidx t (die * 2048 + i)).q = some
        { handle := h, asid := asid, soft := bitOf x.toNat 59, log2n := bitsOf x.toNat 54 5,
          base := bitsOf x.toNat 12 42 * 4096 }) ∧
  (alone → qDestroyErr s asid x ≠ 0 → refused (.queueDestroy asid x) (qDestroyErr s asid x)) ∧
  (alone → qDestroyErr s asid x = 0 → ∃ t, exec (.queueDestroy asid x) s = .next t ∧ (getCtx t asid).qErr = 0 ∧
    queueOf t (BitVec.ofNat 32 x.toNat) = none ∧ (getQidx t (handleKey (BitVec.ofNat 32 x.toNat))).quar.isSome = true) ∧
  (∀ n p node index m, servable s n = some p → p.msg = .flush node index → p.smod = some m →
    (∀ q ∈ s.net.wire ++ s.net.inbox ++ s.net.flows.flatMap (fun f => f.backlog), q.mod = some m → p.since ≤ q.since) →
    ∃ t, exec (.flush n) s = .next t ∧ Travels t p.dst p.dst (.flushAck p.dst index)) ∧
  (∀ n p node index, servable s n = some p → p.msg = .flush node index → p.smod = none →
    (∀ q ∈ s.net.wire, q.src = p.dst → p.since ≤ q.since) →
    (∀ f ∈ s.net.flows, ∀ q ∈ f.backlog, q.src = p.dst → p.since ≤ q.since) →
    ∃ t, exec (.flush n) s = .next t ∧ Travels t p.dst node (.flushAck p.dst index)) ∧
  (∀ n p d index z, servable s n = some p → p.msg = .flushAck d index → (getQidx s index).quar = some z →
    ∃ t, exec (.flush n) s = .next t ∧ (getQidx t index).quar = some { z with due := z.due.filter (fun k => k != d) }) ∧
  (∀ node index z, (getQidx s (node * 2048 + index)).quar = some z → z.due = [] →
    ∃ t, exec (.quarantineEnd node index) s = .next t ∧ (getQidx t (node * 2048 + index)).quar = none) ∧
  (∀ e, ((getCtx s asid).tokBusy = true ∧ e = 6 ∨ (getCtx s asid).tokBusy = false ∧ tokenHome s ta base size = none ∧ e = 3) →
    exec (.tokenCreate asid x) s = .next (tokFail s asid e) ∧ exec (.tokenDestroy asid x) s = .next (tokFail s asid e)) ∧
  (∀ h, (getCtx s asid).tokBusy = false → tokenHome s ta base size = some h → nodeActive s h = true →
    (∀ t ∈ s.tokens, tokenMeets t h ta base size = false) → (s.tokens.filter (fun t => t.node == h)).length < 4096 →
    ∃ u t, exec (.tokenCreate asid x) s = .next (tokenProgress (tokenDrain u t s.nextReq) h) ∧ t ∈ u.tokens ∧ t.node = h ∧
      t.asid = ta ∧ t.base = base ∧ t.size = size ∧ t.holder = none ∧ t.creating = some s.nextReq ∧
      (getCtx u asid).tokBusy = true) ∧
  (∀ h t, (getCtx s asid).tokBusy = false → tokenHome s ta base size = some h → nodeActive s h = true →
    s.tokens.find? (fun t => t.node == h && t.asid == ta && t.base == base && t.size == size) = some t →
    ∃ u, exec (.tokenDestroy asid x) s =
        .next (tokenProgress (tokenDrain u { t with dying := true, cmdBy := asid } s.nextReq) h) ∧
      { t with dying := true, cmdBy := asid } ∈ u.tokens ∧ (getCtx u asid).tokBusy = true) ∧
  (∀ t tag (r : Region), r ∈ s.regions → r.node = t.node → r.asid = t.asid →
    rangesHit (some [{ lo := t.base, hi := t.base + t.size }]) (r.base * 128) ((r.base + regionLines r.level) * 128) = true →
    Travels (tokenDrain s t tag) t.node (agentNode r.owner)
      (.drain r.owner false t.asid (some [{ lo := t.base, hi := t.base + t.size }]) (agentId s t.node 127) tag))

/-- R184, R185, R273-R277: STOP stops a context that runs, by a pre-emption; RUN runs one that is not stopping; RESET ends
its work on every die. HALT halts one whose life-cycle state allows it, RESUME lets its held work go on. A die is halted
and resumed in the states that allow it; the first halted die raises debug-hold, and the last to go on clears it. -/
def Obligations.SchedEvents : Prop := ∀ (s : State) (asid die : Nat),
  (ctxThere s asid = true →
    ((getCtx s asid).sched = .run → ∃ t, exec (.schedStop asid) s = .next t ∧ (getCtx t asid).sched = .stopping ∧
      t.preempts = s.preempts ++ [{ target := .ctx asid }]) ∧
    ((getCtx s asid).sched ≠ .run → exec (.schedStop asid) s = .next s) ∧
    (schedState s asid ≠ 1 → ∃ t, exec (.schedRun asid) s = .next t ∧ (getCtx t asid).sched = .run ∧ t.waves = s.waves) ∧
    (schedState s asid = 1 → exec (.schedRun asid) s = .next s) ∧
    (∃ t, exec (.schedReset asid) s = .next t ∧ (getCtx t asid).sched = .halted ∧ (∀ c ∈ t.conts, c.asid ≠ asid) ∧
      (∀ e ∈ t.wgs, e.2.asid ≠ asid)) ∧
    (debugOpen s = true → (getCtx s asid).dbgSt = 0 → ∃ t, exec (.dbgHalt asid) s = .next t ∧
      (getCtx t asid).dbgSt = 1 ∧ t.preempts = s.preempts ++ [{ target := .halt asid }]) ∧
    (debugOpen s = false → exec (.dbgHalt asid) s = .next s ∧ exec (.dbgResume asid) s = .next s) ∧
    (debugOpen s = true → dbgState s asid ≠ 1 → ∃ t, exec (.dbgResume asid) s = .next t ∧
      (getCtx t asid).dbgSt = 0)) ∧
  (isCdie die = true →
    (haltOpen s = false → exec (.dieHalt die) s = .next (modNode s die (fun n => { n with rej := true })) ∧
      exec (.dieResume die) s = .next s) ∧
    (haltOpen s = true → (getNode s die).halt = false → (getNode s die).busy = true →
      exec (.dieHalt die) s = .next (modNode s die (fun n => { n with haltPend := true }))) ∧
    (haltOpen s = true → (getNode s die).halt = false → (getNode s die).busy = false → ∃ t, exec (.dieHalt die) s = .next t ∧
      (getNode t die).halt = true ∧ (getNode t die).dbgHold = true ∧
      (haltedDies s = [] → t.mods.dbgFirst = die ∧ ∀ d ∈ homeNodes, nodeLost s d = false → (getNode s d).halt = false →
        d ≠ die → Travels t (roleHub s) d (.hold 0))) ∧
    (haltOpen s = true → (getNode s die).halt = true → ∃ t, exec (.dieResume die) s = .next t ∧
      (getNode t die).halt = false ∧
      ((∀ d ∈ haltedDies s, d = die) → (getNode t die).dbgHold = false ∧ ∀ d ∈ homeNodes, nodeLost s d = false →
        (getNode s d).halt = false → Travels t (roleHub s) d .holdClear)))

/-- R5, R36, R43, R122-R133, R163: a window write of whole, aligned records to a live queue of the function enqueues them in
order; one to a destroyed queue makes dead letters; any other is counted and dropped, and one before MOD_READY is counted
on the module. A configuration request before MOD_READY is answered with a retry. A host write or read of a register's
slot writes or reads that register; a read clears its RC fields. MOD_HCTL_VAL reads and writes the control register that
MOD_HCTL_NUM names, of the function's context. -/
def Obligations.HostPorts : Prop := ∀ (s : State) (func off : Nat),
  (∀ bytes, func < 64 → off < 2 ^ 28 →
    (s.mods.ready = false → exec (.enqueueWindowWrite func off bytes) s =
      .next (modMods s (fun m => { m with werr := min (m.werr + 1) 65535 }))) ∧
    (s.mods.ready = true → (getNode s (off / 4096 / 2048)).halt = false → hubStalls s (roleHub s) = false →
      (windowWriteOk (off % 4096) bytes.length = false ∨ windowOwner s func (off / 4096) = none →
        ∃ t, exec (.enqueueWindowWrite func off bytes) s = .next t ∧ t = { s with winErr := t.winErr } ∧
          Tab.get 0 t.winErr (windowKey func (off / 4096)) =
            min (Tab.get 0 s.winErr (windowKey func (off / 4096)) + 1) 65535) ∧
      (∀ a q, windowWriteOk (off % 4096) bytes.length = true → windowOwner s func (off / 4096) = some a →
        (getQidx s (off / 4096)).q = some q → exec (.enqueueWindowWrite func off bytes) s =
          .next ((List.range (bytes.length / 64)).foldl (fun t i => (enqueue t q.handle ((bytes.drop (64 * i)).take 64)
            (BitVec.ofNat 32 (2 ^ 31 + func)) (handleSlot q.handle) q.asid (roleHub t) []).1) s)) ∧
      (∀ a, windowWriteOk (off % 4096) bytes.length = true → windowOwner s func (off / 4096) = some a →
        (getQidx s (off / 4096)).q = none → exec (.enqueueWindowWrite func off bytes) s =
          .next (windowDead s func (off / 4096) a bytes)))) ∧
  (∀ hub, isHub hub = true → s.mods.ready = false → ∃ t, exec (.configRequestRetry hub) s = .next t ∧
    Tab.get 0 t.crs hub = Tab.get 0 s.crs hub + 1 ∧ t = { s with crs := t.crs }) ∧
  (∀ r, off % 8 = 0 → 0x20000 ≤ off → off < 2 ^ 26 → regAt off = some r →
    (∀ x, exec (.registerWrite 0 off x) s = .next (regWrite s true r x)) ∧
    ∃ t, exec (.registerReadClear 0 off) s = .next t ∧ t = { regClear s r with hostData := t.hostData } ∧
      t.hostData = regValue s r % 2 ^ 64) ∧
  (∀ o, func < 64 → off % 8 = 0 → funcOffset func off = some o →
    (∀ x, exec (.registerWrite func off x) s = .next (funcWrite s func o x)) ∧
    exec (.registerReadClear func off) s = .next { (funcRead s func o).1 with hostData := (funcRead s func o).2 }) ∧
  (∀ k, func < 64 → k < 65536 → ∃ t, exec (.registerReadClear func (2 ^ 32 + k * 4096 + 0xF08)) s = .next t ∧
    t.hostData = Tab.get 0 s.winErr (windowKey func k) ∧ Tab.get 0 t.winErr (windowKey func k) = 0) ∧
  (∀ a, func < 64 → hctlCtx s func = some a →
    let n := (getFunc s func).hctlNum
    (∀ x, ctlWritable n (func == 0) = true → exec (.hctlValWrite func x) s = .next (ctlWrite s a n x)) ∧
    (∀ x, ctlWritable n (func == 0) = false → ∃ t, exec (.hctlValWrite func x) s = .next t ∧
      (getFunc t func).hctlErr = true ∧ t = { s with funcs := t.funcs }) ∧
    (ctlKind n ≠ .none_ → ∃ t, exec (.hctlValRead func) s = .next t ∧ t.hostData = ctlValue s a n) ∧
    (ctlKind n = .none_ → ∃ t, exec (.hctlValRead func) s = .next t ∧ t.hostData = 0 ∧
      (getFunc t func).hctlErr = true))

/-- R127, R141-R148: an attestation command writes its bytes to the host, or fails with its ERR; an image whose checks all
pass is staged, performs its life-cycle transition, or ends recovery, and one that fails a check leaves the code of the
first. An image with ADVANCE that has run for 10 s raises the fused counter to its version, at most 63. -/
def Obligations.SecurityEvents : Prop := ∀ (s : State) (func : Nat) (ok : Bool),
  let f := hostImage s
  let x := s.secure
  let report := bytesOfNat 8 (identity x) ++ bytesOfNat 8 (lcCode x.lc + x.counter * 2 ^ 8) ++
    bytesOf 64 (getFunc s func).attNonce ++ bytesOf 64 (Tab.get ({} : Img) x.running 1).digest ++
    bytesOf 64 (Tab.get ({} : Img) x.running 2).digest ++ bytesOf 64 (Tab.get ({} : Img) x.running 3).digest ++
    bytesOfNat 8 (diesPresent s)
  let refused := fun (i : Instr) (c : Nat) => ∃ t, exec i s = .next t ∧ (getFunc t 0).imgErr = c ∧ t.secure.pendErr = c ∧
    t.secure = { x with pendErr := c } ∧ t.mods = s.mods
  let attAlone := fun (k : Nat) => (getFunc s func).attCmd.any (fun c => c != k) = false
  let imgAlone := fun (k : Nat) => (getFunc s 0).imgCmd.any (fun c => c != k) = false
  (func < 64 → (¬ attAlone 1 → ∃ t, exec (.attReport func ok) s = .next t ∧ (getFunc t func).attErr = 1 ∧ t.mem = s.mem) ∧
    (¬ attAlone 2 → ∃ t, exec (.attCert func ok) s = .next t ∧ (getFunc t func).attErr = 1 ∧ t.mem = s.mem)) ∧
  ((¬ imgAlone 1 → refused (.imgStage ok) 0x0F) ∧ (¬ imgAlone 2 → refused (.imgLifecycle ok) 0x0F) ∧
    (x.recovery.isSome = true → ¬ imgAlone 3 → refused (.imgRecover ok) 0x0F)) ∧
  (func < 64 → x.lc ≠ .retired → ok = true → attAlone 1 → attAlone 2 →
    (∃ l t, exec (.attReport func ok) s = .next t ∧ l.length = 1024 ∧ l.take report.length = report ∧
      (∀ i, report.length ≤ i → i < 512 → byteAt l i = 0) ∧ (getFunc t func).attErr = 0 ∧ (getFunc t func).attLen = 1024 ∧
      t.mem = (paWriteN s 0 (hostAddr (getFunc s func).attAddr.toNat) l).mem) ∧
    (∃ t, exec (.attCert func ok) s = .next t ∧ (getFunc t func).attErr = 0 ∧
      t.mem = (paWriteN s 0 (hostAddr (getFunc s func).attAddr.toNat) certBytes).mem)) ∧
  (func < 64 → ∀ i, i = .attReport func ok ∧ attAlone 1 ∨ i = .attCert func ok ∧ attAlone 2 →
    (x.lc = .retired → ∃ t, exec i s = .next t ∧ (getFunc t func).attErr = 3 ∧ t.mem = s.mem) ∧
    (x.lc ≠ .retired → ok = false → ∃ t, exec i s = .next t ∧ (getFunc t func).attErr = 2 ∧ t.mem = s.mem)) ∧
  (imgAlone 1 → ok = true → firmwareCode x f [1, 2, 3] = 0 → ∃ t, exec (.imgStage ok) s = .next t ∧ (getFunc t 0).imgErr = 0 ∧
    t.secure.running = x.running ∧ ∃ i, Tab.find t.secure.staged (imgType f) = some i ∧
      i.digest = shaBits (f.head ++ f.keys ++ f.body) ∧ i.version = imgVersion f ∧ i.advance = imgAdvance f) ∧
  (∀ c, imgAlone 1 → (ok = false ∧ c = 0x0D ∨ ok = true ∧ c = firmwareCode x f [1, 2, 3] ∧ c ≠ 0) → refused (.imgStage ok) c) ∧
  (imgAlone 2 → ok = true → lcCodeOf x f = 0 → ∃ t, exec (.imgLifecycle ok) s = .next t ∧ t.secure.lc = lcOfCode (lcTarget f) ∧
    t.secure.transitions = min 1024 (x.transitions + 1) ∧ t.mods.ready = false ∧ t.ctxs = [] ∧ t.waves = [] ∧
    t.secure.attKey = (lcOfCode (lcTarget f) != .retired)) ∧
  (∀ c, imgAlone 2 → (ok = false ∧ c = 0x0D ∨ ok = true ∧ c = lcCodeOf x f ∧ c ≠ 0) → refused (.imgLifecycle ok) c) ∧
  (x.recovery = none → exec (.imgRecover ok) s = .next s) ∧
  (imgAlone 3 → x.recovery.isSome = true → ok = true → firmwareCode x f [1] = 0 → ∃ t, exec (.imgRecover ok) s = .next t ∧
    t.secure.recovery = none ∧ (Tab.get ({} : Img) t.secure.running 1).version = imgVersion f) ∧
  (∀ c, imgAlone 3 → x.recovery.isSome = true → (ok = false ∧ c = 0x0D ∨ ok = true ∧ c = firmwareCode x f [1] ∧ c ≠ 0) →
    refused (.imgRecover ok) c) ∧
  (∃ t, exec .advanceCommit s = .next t ∧ x.counter ≤ t.secure.counter ∧
    (∀ e ∈ x.running, e.2.advance = true → e.2.startAt + 10000000000 ≤ s.time →
      min 63 e.2.version ≤ t.secure.counter) ∧
    (t.secure.counter = x.counter ∨ ∃ e ∈ x.running, e.2.advance = true ∧ e.2.startAt + 10000000000 ≤ s.time ∧
      t.secure.counter = min 63 e.2.version))

/-! ## The module: clusters, service, power, bring-up, errors (R10-R14, R20-R44, R221, R222, R267-R272) -/

/-- R12-R14, R31-R35, R53, R58: a cluster write that moves one die in service starts a move, which is done when the die holds
no work; any other is rejected. A service command whose conditions hold leaves only its reason code; ISOLATE drains the
node, and its work goes to the other dies; REHOME follows when nothing is resident, NEXT fences the node when nothing is
held there, READMIT loads and tests it, and it returns to service; ABORT returns it from drain or rehome. An unplanned
reset takes a die down at once. -/
def Obligations.ServiceEvents : Prop := ∀ (s : State) (node : Nat),
  let m := s.mods
  let svc := fun (t : State) => (getNode t node).svc
  let only := fun (i : Instr) (f : ModSt → ModSt) => exec i s = .next { s with mods := f m }
  (∀ value : Word, let tok : BitVec 24 := value.setWidth 24
    (m.move.isSome = true → only (.clusterWrite value) (fun y => { y with moveRej := true })) ∧
    (m.move = none → tok = m.tokmov → exec (.clusterWrite value) s = .next s) ∧
    (∀ d, m.move = none → (List.range 24).filter (fun d => tok.getLsbD d != m.tokmov.getLsbD d) = [d] →
      (nodeActive s d = true → clusterDies s tok true ≠ [] → clusterDies s tok false ≠ [] → only (.clusterWrite value)
        (fun y => { y with move := some { die := d, value := tok.getLsbD d }, moveDie := d })) ∧
      (nodeActive s d = false ∨ clusterDies s tok true = [] ∨ clusterDies s tok false = [] →
        only (.clusterWrite value) (fun y => { y with moveRej := true })))) ∧
  (∀ v, m.move = some v → dieWorks s v.die = false → v.die < 24 → ∃ t, exec .clusterMoveComplete s = .next t ∧
    t = { s with mods := t.mods } ∧ t.mods.move = none ∧
    ∀ d, d < 24 → t.mods.tokmov.getLsbD d = if d = v.die then v.value else m.tokmov.getLsbD d) ∧
  (∀ c, rejectCode [(1, m.svcOn.isSome), (2, lastOfCluster s node),
      (3, isHub node && !nodeActive s (if node = 48 then 49 else 48)), (4, decide (50 ≤ node)), (5, m.move.isSome)] = some c →
    only (.isolate node) (fun y => { y with svcReason := c })) ∧
  (m.svcOn = none → lastOfCluster s node = false → node < 50 → m.move = none →
    (isHub node = true → nodeActive s (if node = 48 then 49 else 48) = true) →
    ∃ t, exec (.isolate node) s = .next t ∧ t.mods.svcOn = some node ∧
      svc t = (if isWdie node then .rehome else .drain) ∧ (node = 48 → timeSource t = 49) ∧
      (isCdie node = true → t.preempts = s.preempts ++ [{ target := .die node }])) ∧
  (∀ n, m.svcOn = some n → (getNode s n).svc = .drain → nodeEmpty s n = true → ∃ t, exec .svcDrainComplete s = .next t ∧
    (getNode t n).svc = .rehome ∧ t.waves = s.waves) ∧
  (node < 50 → inService s node [.rehome] = true →
    (stateHeld s node = true → only (.next node) (fun y => { y with svcReason := 6 })) ∧
    (stateHeld s node = false → exec (.next node) s = .next (if isWdie node then wdieDown s node else dieDown s node))) ∧
  (inService s node [.rehome] = false → only (.next node) (fun y => { y with svcReason := if 50 ≤ node then 4 else 7 })) ∧
  (∀ n, wiping s = some n → ∃ t, exec .wipeComplete s = .next t ∧ (getNode t n).svc = .isolated ∧
    (isCdie n = true → ∀ a, a < 2 ^ 52 → paNode a = n → Memory.read t.mem a = 0)) ∧
  (node < 50 → inService s node [.isolated] = true → ∃ t, exec (.readmit node) s = .next t ∧ svc t = .load ∧
    t.secure = loadImages s.secure s.time (imageTypes node)) ∧
  (node < 50 → inService s node [.isolated] = false → only (.readmit node) (fun y => { y with svcReason := 7 })) ∧
  (∀ n, m.svcOn = some n → (getNode s n).svc = .load →
    (∃ t, exec (.selfTestDone true) s = .next t ∧ (getNode t n).svc = .readmit ∧ (getNode t n).absent = false ∧
      (getNode t n).cur = (getNode s n).freq ∧ nodeTime t n = nodeTime s (48 + m.source) ∧
      (isCdie n = true → ceilOf (getNode s n) < (getNode s n).freq → (getNode t n).busy = true ∧
        (getNode t n).target = ceilOf (getNode s n) ∧ (getNode t n).relockEnd = s.time + 2000)) ∧
    (∃ t, exec (.selfTestDone false) s = .next t ∧ (getNode t n).svc = .isolated ∧ t.mods.svcFail = true)) ∧
  (∀ n, m.svcOn = some n → (getNode s n).svc = .readmit → ∃ t, exec .dieTaskUnitReady s = .next t ∧
    (getNode t n).svc = .active ∧ t.mods.svcOn = nextInService t n) ∧
  (node < 50 → inService s node [.drain, .rehome] = true → ∃ t, exec (.abort node) s = .next t ∧ svc t = .active ∧
    t.mods.svcOn = nextInService t node ∧ ∀ p ∈ t.preempts, p.target ≠ .die node) ∧
  (node < 50 → inService s node [.drain, .rehome] = false → only (.abort node) (fun y => { y with svcReason := 7 })) ∧
  (∀ i c, i = .unplannedDieReset node ∨ (i = .thermalTrip node c ∧ 110 ≤ c ∧ isCdie node = true) → node < 50 →
    (nodeLost s node = false → exec i s = .next (dieDown s node) ∧ svc (dieDown s node) = .wipe) ∧
    (nodeLost s node = true → ∃ t, exec i s = .next t ∧ svc t = .wipe ∧ t.mods.svcOn.isSome = true))

/-- R20-R22, R28-R31: a write of FREQ among its codes, or a new ceiling, relocks the clock in 2 us, or waits for the relock
under way; at its end the clock has the new target. The power controller steps each die's ceiling once a millisecond by
the power above or below the cap, 800 W while the supply is limited; the thermal one by the temperature each 100 us. Each
supply event sets its bits; a fault resets the module, and an overvoltage disconnects it until V has been good for
100 ms. -/
def Obligations.PowerEvents : Prop := ∀ (s : State) (die : Nat),
  let n := getNode s die
  (∀ f : BitVec 6, isCdie die = true →
    (¬ (0x10 ≤ f.toNat ∧ f.toNat ≤ 0x32) → exec (.freqWrite die f) s =
      .next (modNode s die (fun x => { x with badf := true }))) ∧
    (0x10 ≤ f.toNat → f.toNat ≤ 0x32 → ∃ t, exec (.freqWrite die f) s = .next t ∧ (getNode t die).freq = f.toNat ∧
      (getNode t die).cur = n.cur ∧
      (n.busy = false → min f.toNat (ceilOf n) ≠ n.cur → (getNode t die).busy = true ∧
        (getNode t die).target = min f.toNat (ceilOf n) ∧ (getNode t die).relockEnd = s.time + 2000) ∧
      (n.busy = true → min f.toNat (ceilOf n) ≠ min n.freq (ceilOf n) → (getNode t die).pend = true ∧
        (getNode t die).next = min f.toNat (ceilOf n) ∧ (getNode t die).target = n.target))) ∧
  (n.busy = true → n.relockEnd ≤ s.time → ∃ t, exec (.relockEnd die) s = .next t ∧ (getNode t die).cur = n.target ∧
    ((n.pend = false ∨ n.next = n.target) → (getNode t die).busy = false ∧
      (getNode t die).halt = (n.halt || n.haltPend)) ∧
    (n.pend = true → n.next ≠ n.target → (getNode t die).busy = true ∧ (getNode t die).target = n.next)) ∧
  (∀ cap : BitVec 16, ∃ t, exec (.pwrCapWrite cap) s = .next t ∧ t.mods.cap = min 1000 (max 400 cap.toNat)) ∧
  (∀ avg : BitVec 16, s.mods.capAt + 1000000 ≤ s.time → isCdie die = true →
    let cap := if s.mods.limit then min s.mods.cap 800 else s.mods.cap
    ∃ t, exec (.powerCapWindow avg) s = .next t ∧ t.mods.avg = avg.toNat ∧ t.mods.capAt = s.time ∧
      (cap < avg.toNat → 0x10 < n.ceilP → (getNode t die).ceilP = n.ceilP - 1) ∧
      (avg.toNat < cap - 20 → n.ceilP < 0x32 → (getNode t die).ceilP = n.ceilP + 1) ∧
      (avg.toNat ≤ cap → cap - 20 ≤ avg.toNat → (getNode t die).ceilP = n.ceilP)) ∧
  (∀ c, isCdie die = true → n.thermAt + 100000 ≤ s.time → ∃ t, exec (.thermalCeilingStep die c) s = .next t ∧
    (100 < c → 0x10 < n.ceilT → (getNode t die).ceilT = n.ceilT - 1) ∧
    (c < 95 → n.ceilT < 0x32 → (getNode t die).ceilT = n.ceilT + 1) ∧
    (95 ≤ c → c ≤ 100 → (getNode t die).ceilT = n.ceilT)) ∧
  (∀ v, 192 ≤ v → v < 200 → ∃ t, exec (.supplyLow v) s = .next t ∧ t.mods.low = true ∧ t.mods.limit = true ∧
    t.mods.volt = v) ∧
  (s.mods.limit = true → s.mods.goodSince + 1000000 ≤ s.time → ∃ t, exec .supplyLimitClear s = .next t ∧
    t.mods.limit = false) ∧
  (∃ t, exec .supplyDip s = .next t ∧ t.mods.dip = min (s.mods.dip + 1) 255) ∧
  (∃ t, exec .supplyFaultLow s = .next t ∧ t.mods.fault = true ∧ t.mods.ready = false ∧ t.ctxs = [] ∧
    t.mods.disconnected = s.mods.disconnected) ∧
  (∀ v, 232 < v → v ≤ 240 → ∃ t, exec (.supplyHigh v) s = .next t ∧ t.mods.high = true ∧ t.mods.volt = v ∧
    t.mods.highSince = some (s.mods.highSince.getD s.time)) ∧
  (∀ t0, s.mods.highSince = some t0 → t0 + 10000000 < s.time → ∃ t, exec .supplyFaultHigh s = .next t ∧
    t.mods.fault = true ∧ t.mods.ready = false ∧ t.ctxs = []) ∧
  (∃ t, exec .supplyOvervoltage s = .next t ∧ t.mods.fault = true ∧ t.mods.disconnected = true ∧ t.ctxs = []) ∧
  (s.mods.disconnected = true → s.mods.badSince + 100000000 ≤ s.time → ∃ t, exec .supplyRestored s = .next t ∧
    t.mods.disconnected = false)

/-- R36-R44, R144: a module reset ends every context, empties caches, cores and tables, and keeps straps, supply faults and
fuses. Bring-up trains hubs, mesh, W-dies; then package time starts at 0 on every node, near and far memory are wiped, the
Tributary links train, and MOD_READY is set with every clock at 0x28. A UCIe module that fails is disabled at both ends;
retries, retrains and bad codewords are counted; a failed Tributary link ends what waited for an unreachable module. -/
def Obligations.BringUpEvents : Prop := ∀ (s : State),
  (∃ t, exec .moduleReset s = .next t ∧ t.mods.ready = false ∧ t.mods.boot = .rom ∧ t.ctxs = [] ∧ t.waves = [] ∧
    t.l1 = [] ∧ t.l2 = [] ∧ t.llc = [] ∧ t.cores = [] ∧ t.queues = [] ∧ t.tasks = [] ∧ t.mods.podId = s.mods.podId ∧
    t.mods.fault = s.mods.fault ∧ t.secure.lc = s.secure.lc ∧ t.secure.counter = s.secure.counter ∧
    ∀ k, (getKey t k).alloc = decide (k = 0)) ∧
  (∀ g failed, s.mods.disconnected = false → s.mods.trained.contains (groupCode g) = false →
    (g ≠ .tributary → s.secure.recovery = none → s.mods.trained.length = groupCode g → ∃ t,
      exec (.linkTrainingComplete g failed) s = .next t ∧ t.mods.trained = s.mods.trained ++ [groupCode g] ∧
      t.mods.boot = (if g = .wdie then .timeStarted else .linksTrained) ∧
      (g = .wdie → ∀ n, n < 50 → nodeTime t n = 0) ∧
      (∀ n ∈ failed, n < 50 → (getNode t n).absent = true ∧ (getNode t n).svc = .isolated)) ∧
    (g = .tributary → s.mods.boot = .farWiped → ∃ t, exec (.linkTrainingComplete g failed) s = .next t ∧
      t.mods.trained = s.mods.trained ++ [3] ∧
      ∀ k, k < 16 → k ∉ failed → let l := Tab.get ({} : TribSt) (getNode t (48 + k / 8)).tribs k
        l.up = true ∧ l.peer = (Config.tribPeer k).toNat ∧ l.peerLink = (Config.tribPeerLink k).toNat)) ∧
  (s.mods.boot = .timeStarted → ∃ t, exec (.moduleWipeComplete false) s = .next t ∧ t.mods.boot = .nearWiped ∧
    t.words = [] ∧ t.wdies = [] ∧ (∀ d, isCdie d = true → ∀ k, (Tab.get ({} : Core) t.cores (d * 128 + k % 128)).scr = []) ∧
    ∀ a, a < 2 ^ 52 → Memory.read t.mem a = if isNear a then 0 else Memory.read s.mem a) ∧
  (s.mods.boot = .nearWiped → ∃ t, exec (.moduleWipeComplete true) s = .next t ∧ t.mods.boot = .farWiped ∧
    ∀ a, a < 2 ^ 52 → Memory.read t.mem a = if isFar a then 0 else Memory.read s.mem a) ∧
  (s.mods.boot = .farWiped → s.secure.recovery = none → 3 ∈ s.mods.trained → (∃ d ∈ cdies, nodeActive s d = true ∧ 24 ≤ d) →
    (∃ d ∈ cdies, nodeActive s d = true ∧ d < 24) → ∃ t, exec .modReadySet s = .next t ∧ t.mods.ready = true ∧
      t.mods.tokmov = 0 ∧ ∀ d ∈ cdies, (getNode t d).freq = 0x28 ∧ (getNode t d).cur = 0x28 ∧
        (getNode t d).busy = decide (ceilOf (getNode s d) < 0x28)) ∧
  (∀ d n e, linkPartner d n = some e →
    (let u := modPair s d n (fun l => { l with up := false, dis := true })
     (getLink u d n).dis = true ∧ (pairDown u d e = false → exec (.ucieModuleFail d n) s = .next u) ∧
     (pairDown u d e = true → isCdie e = true → nodeLost u (max d e) = false →
       exec (.ucieModuleFail d n) s = .next (dieDown u (max d e))) ∧
     (pairDown u d e = true → isWdie e = true → nodeActive u e = true →
       exec (.ucieModuleFail d n) s = .next (isolateWdie u e) ∧ (getNode (isolateWdie u e) e).svc = .wipe)) ∧
    (∃ t, exec (.linkLevelRetry d n) s = .next t ∧ (getLink t d n).retry = min ((getLink s d n).retry + 1) 65535) ∧
    (∀ r, r ≤ 4 → (getLink s d n).dis = false → ∃ t, exec (.linkRetrain d n r) s = .next t ∧
      (getLink t d n).up = true ∧ (getLink t d n).repl = r ∧
      (getLink t d n).retrain = min ((getLink s d n).retrain + 1) 255)) ∧
  (∀ k, k < 16 →
    (∃ t, exec (.uncorrectableFecCodeword k) s = .next t ∧ (Tab.get ({} : TribSt) (getNode t (48 + k / 8)).tribs k).uncor =
      min ((Tab.get ({} : TribSt) (getNode s (48 + k / 8)).tribs k).uncor + 1) 65535) ∧
    (let u := modTrib s k (fun l => { l with up := false, dis := true })
     exec (.tributaryLinkFail k) s = .next ((List.range 64).foldl podFailed u) ∧
     (Tab.get ({} : TribSt) (getNode u (48 + k / 8)).tribs k).up = false ∧
     (Tab.get ({} : TribSt) (getNode u (48 + k / 8)).tribs k).dis = true)) ∧
  (∀ m, moduleReachable s m = true → podFailed s m = s) ∧
  (∀ m, moduleReachable s m = false →
    ((∀ p ∈ s.net.inbox, p.mod = some m → (∃ d k, p.msg = .flush d k) ∨ ∃ a k n sc w g id e, p.msg = .gbarArr a k n sc w g id e) →
      ∀ p ∈ (podFailed s m).net.inbox, p.mod ≠ some m) ∧
    ∀ p a k n sc w g id e, s.net.inbox.filter (fun q => q.mod == some m) = [p] → p.msg = .gbarArr a k n sc w g id e →
      waveExists s w = true → (getWave s w).op.id = id → (getWave (podFailed s m) w).gdep = some { code := 3 })

/-- R221, R222, R267-R270: a core that has rested for 10 us enters retention, and wakes when one of its waves would; a
correctable error is counted; an uncorrectable one is counted, and its word is lost at its home, but a clean L2 copy is
only dropped; a row scrub marks the slots whose checksum fails. -/
def Obligations.ErrorEvents : Prop := ∀ (s : State) (k : Nat),
  (mayRetain s k = true → ∃ t, exec (.coreRetentionEntry k) s = .next t ∧ (getCore t k).retention = true ∧
    (getCore t k).scr = (getCore s k).scr ∧ t.waves = s.waves) ∧
  (mayRetain s k = false → exec (.coreRetentionEntry k) s = .next s) ∧
  ((∃ e ∈ residentWaves s k, waveDue s e.2 = true) → (getCore s k).badScr = [] → (getCore s k).badAcc = [] →
    (∀ i, (getWave s i).badRegs = []) → ∃ t, exec (.coreWake k) s = .next t ∧ (getCore t k).retention = false ∧
      (getCore t k).scr = (getCore s k).scr ∧ t.waves = s.waves ∧
      ((getCore s k).retention = true → s.time < (getCore t k).sweepEnd)) ∧
  (isCdie k = true → ∃ t, exec (.eccCorrectable k) s = .next t ∧
    (getNode t k).ce = min ((getNode s k).ce + 1) (2 ^ 32 - 1) ∧ t.mem = s.mem ∧ t.words = s.words) ∧
  (∀ level asid va, level ≤ 2 → isCdie k = true →
    let a := va % 2 ^ 54
    let key := lineKey (if bitOf a 53 then 0 else asid) (a / 128)
    let w := a % 128 / 4
    (homeOf s (lineAsid key) (lineNo key * 128)).isSome = true → ∃ t, exec (.eccUncorrectable k level asid va) s = .next t ∧
      (getNode t k).ue = min ((getNode s k).ue + 1) 65535 ∧ (getNode t k).lastu = level ∧
      ((level < 2 ∨ (dirtyHolder s key w).map agentNode = some k) →
        wordSt t key w = .z ∧ Tab.find t.eccFound (key * 32 + w) = some level) ∧
      (level = 2 → (dirtyHolder s key w).map agentNode ≠ some k → t.words = s.words)) ∧
  (exec (.patrolScrub k) s = .next s) ∧
  (∀ bad, k < 16 → nodeActive s (32 + k) = true → ∃ t, exec (.wdieRowScrub k bad) s = .next t ∧
    ∀ j, (Tab.get ({} : WSlot) (getWdie t k).slots j).st =
      if j < 64 ∧ j ∈ bad then .bad else (Tab.get ({} : WSlot) (getWdie s k).slots j).st)

/-! ## The whole machine -/

/-- R297-R324: decoding and encoding agree, with every operand at every value that the encoding admits: the word of a
well-formed instruction decodes to it, and a word that decodes is the word of a well-formed instruction. -/
def Obligations.DecodeEncode : Prop :=
  (∀ i w, wellFormed i = true → encode i = some w → decodeAny w = .ok i) ∧
  (∀ w i, decodeAny w = .ok i → encode i = some w ∧ wellFormed i = true)

/-- R297-R314: words written out from the encodings of chapter 11 decode to the instructions that they stand for:
`ffma`, `iadd` with saturation, `ld.acq`, `bra`, `exit`, `spawn` and `tret.skipf`; an unused opcode is refused as an
illegal instruction, SUB 0. -/
def Obligations.DecodingSamples : Prop :=
  let none_ : Head := { g := { neg := false, pred := 31 }, hnt := 0, dst := .null, sa := .null, sb := .null, sc := .null }
  decodeAny (wordOf 0x14040083 0x23C78060 0x00040581) = .ok (.ffma
    { h := { g := { neg := true, pred := 3 }, hnt := 4, dst := .v 4, sa := .v 5, sb := .v 6, sc := .konst 30 }, hi := 4,
      ftz := false, sat := false, rnd := .rtz, ty := .f32 }) ∧
  decodeAny (wordOf 0x14040004 0x00E03400 0x03E82080) = .ok (.iadd
    { h := { none_ with g := { neg := false, pred := 0 }, dst := .v 4, sa := .v 5, sb := .imm }, hi := 1000,
      ftz := false, sat := true, rnd := .rne, ty := .s32 }) ∧
  decodeAny (wordOf 0x28080180 0x1FE03800 0x01029080) = .ok (.ld false
    { h := { none_ with dst := .v 8, sa := .v 10 }, off := 4, cache := .dflt, rset := 2, scope := .die, ord := .acq,
      space := .glb, size := .b32 }) ∧
  decodeAny (wordOf 0x03800140 0x01E0380E 0x000003C0) = .ok (.bra
    { h := { none_ with g := { neg := false, pred := 1 } }, imm := 15 }) ∧
  decodeAny (wordOf 0x03800148 0x1FE0380E 0) = .ok (.exit { h := none_, imm := 0 }) ∧
  decodeAny (wordOf 0x0C140240 0x1FE000C0 0) = .ok (.spawn
    { h := { none_ with dst := .v 20, sa := .v 3, sb := .v 12 }, imm12 := 0, rset := 0, flags := 0 }) ∧
  decodeAny (wordOf 0x038006C3 0x1FE0380E 0) = .ok (.tretSkipf { h := none_, imm12 := 0, rset := 0, flags := 0 }) ∧
  decodeAny (wordOf 0x038003FF 0x1FE0380E 0) = .error (.ins 0)

/-- R198, R205, R207, R315: a turn of a wave executes the instruction that the bytes at its path's PC decode to: where
the wave runs, no trap is due, and the fetch is allowed, the step is that instruction's, in the state that the fetch
leaves, with one turn counted. The bytes are those of the core's instruction cache where it holds their line. A turn of an
event is the event's own. -/
def Obligations.StepRunsDecoded : Prop := ∀ (s : State) (id dt : Nat) (r : List Turn),
  let s1 := advance { s with agenda := r, free := s.free + 1 } dt
  let w := getWave s1 id
  (∀ slot p s3 s4 word i, s.agenda = { dt := dt, act := .wave id } :: r → waveRuns s1 id = true → w.op.id = 0 →
    deferredDue w = false → (promotionDue w = false ∨ w.handler.isSome = true) → turnSlot w = some slot →
    let s2 := setWave (modCore { s1 with cur := id } (waveCore w) (fun c => { c with idleSince := s1.time })) id
      { w with cur := slot }
    curPath (getWave s2 id) = some p → fetchCheck s2 id p = (s3, .ok) → fetchWord s3 id p.pc = (s4, .got word) →
    decode (decCtx (getWave s4 id) p.fed.isSome) word = .ok i → (joinHint i = false ∨ oneLane (getWave s4 id) = true) →
    step s = exec i (setWave s4 id (countTurn (getWave s4 id)))) ∧
  (∀ e, s.agenda = { dt := dt, act := .event e } :: r → isEvent e = true → step s = exec e s1) ∧
  (∀ pc d, va54 pc % 128 ≤ 116 →
    Tab.find s.icache (cacheKey (l1Of (getWave s id).node (getWave s id).unit)
      (lineKey (asidOf (getWave s id).asid pc) (va54 pc / 128))) = some d →
    fetchWord s id pc = (s, .got (d.extractLsb' (8 * (va54 pc % 128)) 96)))

/-- R5, R12, R21, R30, R37, R54, R60, R138, R144, R182, R278: what reset leaves: every register that has a Reset column reads
as it says, key slot 0 alone is allocated and no context is live. Where the spec gives no reset value the values are the model's choice: the registers
of a context that is not live (log 8), memory, which reads as zeros and has its canonical form (log 7), and no wave and no
message (log 1). -/
def Obligations.ResetState : Prop :=
  let s := State.reset
  (∀ r, r ∈ [CReg.ready, .werr, .dbgStat, .clusterStat, .svcStat, .rehomeEnt false, .rehomeEnt true, .rehomeStat] →
    regValue s r = 0) ∧
  regValue s .cluster = 0xFF000000 ∧ regValue s .pwrCap = 1000 ∧ regValue s .preempt = 1000 * 2 ^ 16 + 100 ∧
  (∀ i hi, regValue s (.arot i hi) = 0) ∧
  (∀ d, regValue s (.clkCtl d) = 0x32 * 2 ^ 8 + 0x28 ∧ regValue s (.clkStat d) = 0x28 * 2 ^ 8 + 0x28 ∧
    regValue s (.diePtime d) = 0 ∧ regValue s (.ecc d) = 0 ∧ regValue s (.dbgCtl d) = 0 ∧
    ∀ n, regValue s (.link d n) = 0) ∧
  (∀ h, regValue s (.fltBase h) = 0 ∧ regValue s (.fltHead h) = 0 ∧ regValue s (.fltTail h) = 0 ∧
    regValue s (.fltLost h) = 0 ∧ regValue s (.trapVec h) = 0 ∧ regValue s (.hubPtime h) = 0 ∧
    ∀ n, regValue s (.tribStat h n) = 0 ∧ regValue s (.tribRoute h n) = 0) ∧
  (∀ k, (getKey s k).alloc = decide (k = 0)) ∧
  (∀ a, (getCtx s a).live = false ∧ ∀ n, ctlValue s a n = 0) ∧
  (∀ a, Memory.read s.mem a = 0) ∧ MemOk s ∧ s.waves = [] ∧ s.net = {}

/-- R139, R144: a byte of memory read under the key slot that wrote it is the byte written; under that slot every other
byte of a physical address, of this module or of another of the pod, reads as before; under a slot with another key, encrypted memory reads as a free value, whose form is the model's choice (log 7). -/
def Obligations.MemoryReadWrite : Prop := ∀ (s : State) (slot a : Nat),
  (∀ b, paRead (paWrite s slot a b) slot a = b) ∧
  (∀ b c, a < otherHost → c < otherHost → c ≠ a → paRead (paWrite s slot a b) slot c = paRead s slot c) ∧
  (∀ b c other, paEncrypted a = true → c / 128 = a / 128 → slotTag s other ≠ slotTag s slot →
    paRead (paWrite s slot a b) other c = Config.wrongKeyByte s.free c) ∧
  (∀ l : List Byte, a + l.length ≤ otherHost → paReadN (paWriteN s slot a l) slot a l.length = l)

/-- Every step keeps the canonical form of memory: addresses rise, and no listed byte is what an unlisted one reads as. -/
def Obligations.MemoryCanonical : Prop := ∀ (s t : State), MemOk s → step s = .next t → MemOk t

/-- The machine never stops: every instruction, event, fault and loss that the spec describes has a next state, from any
state. -/
def Obligations.MachineGoesOn : Prop := ∀ s : State, NeverStops s
end

