-- ==== Sys2Proof/Laws/Tab.lean ====
section
/-! SUPPORT. Laws of the sparse tables: reading after writing, and the canonical form. -/

namespace Sys2Proof.Machine

variable {α : Type}

@[simp] theorem Tab.find_nil (n : Nat) : Tab.find ([] : Tab α) n = none := rfl

theorem Tab.find_put (t : Tab α) (n m : Nat) (x : α) :
    Tab.find (Tab.put t n x) m = if n = m then some x else Tab.find t m := by
  induction t with
  | nil => simp [Tab.put, Tab.find]
  | cons e t ih =>
    obtain ⟨k, v⟩ := e
    simp only [Tab.put]
    split
    · subst_vars; simp only [Tab.find]; split <;> simp_all
    · split
      · simp only [Tab.find]
      · simp only [Tab.find, ih]; split <;> split <;> simp_all

@[simp] theorem Tab.find_put_same (t : Tab α) (n : Nat) (x : α) : Tab.find (Tab.put t n x) n = some x := by
  simp [Tab.find_put]

theorem Tab.find_put_ne (t : Tab α) {n m : Nat} (x : α) (h : n ≠ m) :
    Tab.find (Tab.put t n x) m = Tab.find t m := by simp [Tab.find_put, h]

theorem Tab.find_erase (t : Tab α) (n m : Nat) :
    Tab.find (Tab.erase t n) m = if n = m then none else Tab.find t m := by
  induction t with
  | nil => simp [Tab.erase, Tab.find]
  | cons e t ih =>
    obtain ⟨k, v⟩ := e
    simp only [Tab.erase]
    split
    · subst_vars; simp only [ih, Tab.find]; split <;> simp_all
    · simp only [Tab.find, ih]; split <;> split <;> simp_all

theorem Tab.get_set [DecidableEq α] (d : α) (t : Tab α) (n m : Nat) (x : α) :
    Tab.get d (Tab.set d t n x) m = if n = m then x else Tab.get d t m := by
  unfold Tab.get Tab.set
  split
  · subst_vars; simp only [Tab.find_erase]; split <;> rfl
  · simp only [Tab.find_put]; split <;> rfl

@[simp] theorem Tab.get_set_same [DecidableEq α] (d : α) (t : Tab α) (n : Nat) (x : α) :
    Tab.get d (Tab.set d t n x) n = x := by simp [Tab.get_set]

theorem Tab.get_set_ne [DecidableEq α] (d : α) (t : Tab α) {n m : Nat} (x : α) (h : n ≠ m) :
    Tab.get d (Tab.set d t n x) m = Tab.get d t m := by simp [Tab.get_set, h]

@[simp] theorem Tab.get_nil (d : α) (n : Nat) : Tab.get d ([] : Tab α) n = d := rfl

/-! ## The canonical form -/

theorem Tab.rising_weaken (t : Tab α) {a b : Nat} (h : a ≤ b) (r : Tab.rising t (some b) = true) :
    Tab.rising t (some a) = true := by
  cases t with
  | nil => rfl
  | cons e t => simp only [Tab.rising, Bool.and_eq_true, decide_eq_true_eq] at *; exact ⟨by omega, r.2⟩

theorem Tab.rising_none (t : Tab α) {a : Nat} (r : Tab.rising t (some a) = true) : Tab.rising t none = true := by
  cases t with
  | nil => rfl
  | cons e t => simp only [Tab.rising, Bool.and_eq_true] at *; exact r.2

theorem Tab.rising_tail (e : Nat × α) (t : Tab α) (lo : Option Nat) (r : Tab.rising (e :: t) lo = true) :
    Tab.rising t (some e.1) = true := by
  cases lo <;> simp_all [Tab.rising]

theorem Tab.rising_put (t : Tab α) (n : Nat) (x : α) (lo : Option Nat) (h : ∀ a, lo = some a → a < n)
    (r : Tab.rising t lo = true) : Tab.rising (Tab.put t n x) lo = true := by
  induction t generalizing lo with
  | nil => cases lo <;> simp_all [Tab.put, Tab.rising]
  | cons e t ih =>
    obtain ⟨k, v⟩ := e
    have ht := Tab.rising_tail _ _ _ r
    simp only [Tab.put]
    split
    · subst_vars; cases lo <;> simp_all [Tab.rising]
    · split
      · cases lo <;> simp_all [Tab.rising]
      · have := ih (some k) (by intro a ha; simp only [Option.some.injEq] at ha; omega) ht
        cases lo <;> simp_all [Tab.rising]

theorem Tab.rising_erase (t : Tab α) (n : Nat) (lo : Option Nat) (r : Tab.rising t lo = true) :
    Tab.rising (Tab.erase t n) lo = true := by
  induction t generalizing lo with
  | nil => rfl
  | cons e t ih =>
    obtain ⟨k, v⟩ := e
    have ht := Tab.rising_tail _ _ _ r
    simp only [Tab.erase]
    split
    · cases lo with
      | none => exact ih none (Tab.rising_none _ ht)
      | some a =>
        refine ih _ (Tab.rising_weaken _ ?_ ht)
        simp only [Tab.rising, Bool.and_eq_true, decide_eq_true_eq] at r; omega
    · have := ih _ ht
      cases lo <;> simp_all [Tab.rising]

theorem Tab.all_put (p : Nat × α → Bool) (t : Tab α) (n : Nat) (x : α) (h : p (n, x) = true)
    (r : t.all p = true) : (Tab.put t n x).all p = true := by
  induction t with
  | nil => simp_all [Tab.put]
  | cons e t ih =>
    simp only [List.all_cons, Bool.and_eq_true] at r
    simp only [Tab.put]
    split
    · simp [h, r.2]
    · split <;> simp_all

theorem Tab.all_erase (p : Nat × α → Bool) (t : Tab α) (n : Nat) (r : t.all p = true) :
    (Tab.erase t n).all p = true := by
  induction t with
  | nil => rfl
  | cons e t ih =>
    simp only [List.all_cons, Bool.and_eq_true] at r
    simp only [Tab.erase]
    split <;> simp_all

theorem Tab.wf_nil [DecidableEq α] (d : α) : Tab.wf d ([] : Tab α) = true := rfl

/-- Writing keeps the canonical form. -/
theorem Tab.wf_set [DecidableEq α] (d : α) (t : Tab α) (n : Nat) (x : α) (h : Tab.wf d t = true) :
    Tab.wf d (Tab.set d t n x) = true := by
  simp only [Tab.wf, Bool.and_eq_true] at *
  unfold Tab.set
  split
  · exact ⟨Tab.rising_erase _ _ _ h.1, Tab.all_erase _ _ _ h.2⟩
  · exact ⟨Tab.rising_put _ _ _ _ (by simp) h.1, Tab.all_put _ _ _ _ (by simpa) h.2⟩

theorem Tab.rising_filter (p : Nat × α → Bool) (t : Tab α) (lo : Option Nat) (r : Tab.rising t lo = true) :
    Tab.rising (t.filter p) lo = true := by
  induction t generalizing lo with
  | nil => rfl
  | cons e t ih =>
    have ht := Tab.rising_tail _ _ _ r
    simp only [List.filter_cons]
    split
    · have := ih _ ht
      cases lo <;> simp_all [Tab.rising]
    · cases lo with
      | none => exact ih none (Tab.rising_none _ ht)
      | some a =>
        refine ih _ (Tab.rising_weaken _ ?_ ht)
        simp only [Tab.rising, Bool.and_eq_true, decide_eq_true_eq] at r; omega

/-- Leaving entries out keeps the canonical form. -/
theorem Tab.wf_filter [DecidableEq α] (d : α) (p : Nat × α → Bool) (t : Tab α) (h : Tab.wf d t = true) :
    Tab.wf d (t.filter p) = true := by
  simp only [Tab.wf, Bool.and_eq_true] at *
  refine ⟨Tab.rising_filter _ _ _ h.1, ?_⟩
  simp only [List.all_eq_true, List.mem_filter] at *
  exact fun e he => h.2 e he.1

end Sys2Proof.Machine
end

