-- ==== Sys2Proof/Laws/State.lean ====
section
/-! SUPPORT. The updates of State: the field that each changes, and that it changes no other. -/

namespace Sys2Proof.Machine

@[simp] theorem setNode_agenda (s : State) (k : Nat) (x : NodeSt) : (State.agenda (setNode s k x)) = s.agenda := rfl
@[simp] theorem setNode_cur (s : State) (k : Nat) (x : NodeSt) : (State.cur (setNode s k x)) = s.cur := rfl
@[simp] theorem setNode_free (s : State) (k : Nat) (x : NodeSt) : (State.free (setNode s k x)) = s.free := rfl
@[simp] theorem setNode_nextWave (s : State) (k : Nat) (x : NodeSt) : (State.nextWave (setNode s k x)) = s.nextWave := rfl
@[simp] theorem setNode_nextWg (s : State) (k : Nat) (x : NodeSt) : (State.nextWg (setNode s k x)) = s.nextWg := rfl
@[simp] theorem setNode_nextTask (s : State) (k : Nat) (x : NodeSt) : (State.nextTask (setNode s k x)) = s.nextTask := rfl
@[simp] theorem setNode_nextReq (s : State) (k : Nat) (x : NodeSt) : (State.nextReq (setNode s k x)) = s.nextReq := rfl
@[simp] theorem setNode_time (s : State) (k : Nat) (x : NodeSt) : (State.time (setNode s k x)) = s.time := rfl
@[simp] theorem setNode_mods (s : State) (k : Nat) (x : NodeSt) : (State.mods (setNode s k x)) = s.mods := rfl
@[simp] theorem setNode_wdies (s : State) (k : Nat) (x : NodeSt) : (State.wdies (setNode s k x)) = s.wdies := rfl
@[simp] theorem setNode_secure (s : State) (k : Nat) (x : NodeSt) : (State.secure (setNode s k x)) = s.secure := rfl
@[simp] theorem setNode_funcs (s : State) (k : Nat) (x : NodeSt) : (State.funcs (setNode s k x)) = s.funcs := rfl
@[simp] theorem setNode_winErr (s : State) (k : Nat) (x : NodeSt) : (State.winErr (setNode s k x)) = s.winErr := rfl
@[simp] theorem setNode_ctxs (s : State) (k : Nat) (x : NodeSt) : (State.ctxs (setNode s k x)) = s.ctxs := rfl
@[simp] theorem setNode_keys (s : State) (k : Nat) (x : NodeSt) : (State.keys (setNode s k x)) = s.keys := rfl
@[simp] theorem setNode_msix (s : State) (k : Nat) (x : NodeSt) : (State.msix (setNode s k x)) = s.msix := rfl
@[simp] theorem setNode_hostData (s : State) (k : Nat) (x : NodeSt) : (State.hostData (setNode s k x)) = s.hostData := rfl
@[simp] theorem setNode_crs (s : State) (k : Nat) (x : NodeSt) : (State.crs (setNode s k x)) = s.crs := rfl
@[simp] theorem setNode_mem (s : State) (k : Nat) (x : NodeSt) : (State.mem (setNode s k x)) = s.mem := rfl
@[simp] theorem setNode_memKey (s : State) (k : Nat) (x : NodeSt) : (State.memKey (setNode s k x)) = s.memKey := rfl
@[simp] theorem setNode_words (s : State) (k : Nat) (x : NodeSt) : (State.words (setNode s k x)) = s.words := rfl
@[simp] theorem setNode_eccFound (s : State) (k : Nat) (x : NodeSt) : (State.eccFound (setNode s k x)) = s.eccFound := rfl
@[simp] theorem setNode_llc (s : State) (k : Nat) (x : NodeSt) : (State.llc (setNode s k x)) = s.llc := rfl
@[simp] theorem setNode_l2 (s : State) (k : Nat) (x : NodeSt) : (State.l2 (setNode s k x)) = s.l2 := rfl
@[simp] theorem setNode_l1 (s : State) (k : Nat) (x : NodeSt) : (State.l1 (setNode s k x)) = s.l1 := rfl
@[simp] theorem setNode_icache (s : State) (k : Nat) (x : NodeSt) : (State.icache (setNode s k x)) = s.icache := rfl
@[simp] theorem setNode_regions (s : State) (k : Nat) (x : NodeSt) : (State.regions (setNode s k x)) = s.regions := rfl
@[simp] theorem setNode_proxies (s : State) (k : Nat) (x : NodeSt) : (State.proxies (setNode s k x)) = s.proxies := rfl
@[simp] theorem setNode_rels (s : State) (k : Nat) (x : NodeSt) : (State.rels (setNode s k x)) = s.rels := rfl
@[simp] theorem setNode_tokens (s : State) (k : Nat) (x : NodeSt) : (State.tokens (setNode s k x)) = s.tokens := rfl
@[simp] theorem setNode_watches (s : State) (k : Nat) (x : NodeSt) : (State.watches (setNode s k x)) = s.watches := rfl
@[simp] theorem setNode_drains (s : State) (k : Nat) (x : NodeSt) : (State.drains (setNode s k x)) = s.drains := rfl
@[simp] theorem setNode_net (s : State) (k : Nat) (x : NodeSt) : (State.net (setNode s k x)) = s.net := rfl
@[simp] theorem setNode_rehome (s : State) (k : Nat) (x : NodeSt) : (State.rehome (setNode s k x)) = s.rehome := rfl
@[simp] theorem setNode_tlb (s : State) (k : Nat) (x : NodeSt) : (State.tlb (setNode s k x)) = s.tlb := rfl
@[simp] theorem setNode_walks (s : State) (k : Nat) (x : NodeSt) : (State.walks (setNode s k x)) = s.walks := rfl
@[simp] theorem setNode_perms (s : State) (k : Nat) (x : NodeSt) : (State.perms (setNode s k x)) = s.perms := rfl
@[simp] theorem setNode_grants (s : State) (k : Nat) (x : NodeSt) : (State.grants (setNode s k x)) = s.grants := rfl
@[simp] theorem setNode_grantWaits (s : State) (k : Nat) (x : NodeSt) : (State.grantWaits (setNode s k x)) = s.grantWaits := rfl
@[simp] theorem setNode_atinvs (s : State) (k : Nat) (x : NodeSt) : (State.atinvs (setNode s k x)) = s.atinvs := rfl
@[simp] theorem setNode_arot (s : State) (k : Nat) (x : NodeSt) : (State.arot (setNode s k x)) = s.arot := rfl
@[simp] theorem setNode_waves (s : State) (k : Nat) (x : NodeSt) : (State.waves (setNode s k x)) = s.waves := rfl
@[simp] theorem setNode_wgs (s : State) (k : Nat) (x : NodeSt) : (State.wgs (setNode s k x)) = s.wgs := rfl
@[simp] theorem setNode_cores (s : State) (k : Nat) (x : NodeSt) : (State.cores (setNode s k x)) = s.cores := rfl
@[simp] theorem setNode_queues (s : State) (k : Nat) (x : NodeSt) : (State.queues (setNode s k x)) = s.queues := rfl
@[simp] theorem setNode_resvs (s : State) (k : Nat) (x : NodeSt) : (State.resvs (setNode s k x)) = s.resvs := rfl
@[simp] theorem setNode_pending (s : State) (k : Nat) (x : NodeSt) : (State.pending (setNode s k x)) = s.pending := rfl
@[simp] theorem setNode_tasks (s : State) (k : Nat) (x : NodeSt) : (State.tasks (setNode s k x)) = s.tasks := rfl
@[simp] theorem setNode_conts (s : State) (k : Nat) (x : NodeSt) : (State.conts (setNode s k x)) = s.conts := rfl
@[simp] theorem setNode_varsels (s : State) (k : Nat) (x : NodeSt) : (State.varsels (setNode s k x)) = s.varsels := rfl
@[simp] theorem setNode_preempts (s : State) (k : Nat) (x : NodeSt) : (State.preempts (setNode s k x)) = s.preempts := rfl
@[simp] theorem setNode_gbars (s : State) (k : Nat) (x : NodeSt) : (State.gbars (setNode s k x)) = s.gbars := rfl
@[simp] theorem setNode_flt (s : State) (k : Nat) (x : NodeSt) : (State.flt (setNode s k x)) = s.flt := rfl

@[simp] theorem modNode_agenda (s : State) (k : Nat) (f : NodeSt → NodeSt) : (State.agenda (modNode s k f)) = s.agenda := rfl
@[simp] theorem modNode_cur (s : State) (k : Nat) (f : NodeSt → NodeSt) : (State.cur (modNode s k f)) = s.cur := rfl
@[simp] theorem modNode_free (s : State) (k : Nat) (f : NodeSt → NodeSt) : (State.free (modNode s k f)) = s.free := rfl
@[simp] theorem modNode_nextWave (s : State) (k : Nat) (f : NodeSt → NodeSt) : (State.nextWave (modNode s k f)) = s.nextWave := rfl
@[simp] theorem modNode_nextWg (s : State) (k : Nat) (f : NodeSt → NodeSt) : (State.nextWg (modNode s k f)) = s.nextWg := rfl
@[simp] theorem modNode_nextTask (s : State) (k : Nat) (f : NodeSt → NodeSt) : (State.nextTask (modNode s k f)) = s.nextTask := rfl
@[simp] theorem modNode_nextReq (s : State) (k : Nat) (f : NodeSt → NodeSt) : (State.nextReq (modNode s k f)) = s.nextReq := rfl
@[simp] theorem modNode_time (s : State) (k : Nat) (f : NodeSt → NodeSt) : (State.time (modNode s k f)) = s.time := rfl
@[simp] theorem modNode_mods (s : State) (k : Nat) (f : NodeSt → NodeSt) : (State.mods (modNode s k f)) = s.mods := rfl
@[simp] theorem modNode_wdies (s : State) (k : Nat) (f : NodeSt → NodeSt) : (State.wdies (modNode s k f)) = s.wdies := rfl
@[simp] theorem modNode_secure (s : State) (k : Nat) (f : NodeSt → NodeSt) : (State.secure (modNode s k f)) = s.secure := rfl
@[simp] theorem modNode_funcs (s : State) (k : Nat) (f : NodeSt → NodeSt) : (State.funcs (modNode s k f)) = s.funcs := rfl
@[simp] theorem modNode_winErr (s : State) (k : Nat) (f : NodeSt → NodeSt) : (State.winErr (modNode s k f)) = s.winErr := rfl
@[simp] theorem modNode_ctxs (s : State) (k : Nat) (f : NodeSt → NodeSt) : (State.ctxs (modNode s k f)) = s.ctxs := rfl
@[simp] theorem modNode_keys (s : State) (k : Nat) (f : NodeSt → NodeSt) : (State.keys (modNode s k f)) = s.keys := rfl
@[simp] theorem modNode_msix (s : State) (k : Nat) (f : NodeSt → NodeSt) : (State.msix (modNode s k f)) = s.msix := rfl
@[simp] theorem modNode_hostData (s : State) (k : Nat) (f : NodeSt → NodeSt) : (State.hostData (modNode s k f)) = s.hostData := rfl
@[simp] theorem modNode_crs (s : State) (k : Nat) (f : NodeSt → NodeSt) : (State.crs (modNode s k f)) = s.crs := rfl
@[simp] theorem modNode_mem (s : State) (k : Nat) (f : NodeSt → NodeSt) : (State.mem (modNode s k f)) = s.mem := rfl
@[simp] theorem modNode_memKey (s : State) (k : Nat) (f : NodeSt → NodeSt) : (State.memKey (modNode s k f)) = s.memKey := rfl
@[simp] theorem modNode_words (s : State) (k : Nat) (f : NodeSt → NodeSt) : (State.words (modNode s k f)) = s.words := rfl
@[simp] theorem modNode_eccFound (s : State) (k : Nat) (f : NodeSt → NodeSt) : (State.eccFound (modNode s k f)) = s.eccFound := rfl
@[simp] theorem modNode_llc (s : State) (k : Nat) (f : NodeSt → NodeSt) : (State.llc (modNode s k f)) = s.llc := rfl
@[simp] theorem modNode_l2 (s : State) (k : Nat) (f : NodeSt → NodeSt) : (State.l2 (modNode s k f)) = s.l2 := rfl
@[simp] theorem modNode_l1 (s : State) (k : Nat) (f : NodeSt → NodeSt) : (State.l1 (modNode s k f)) = s.l1 := rfl
@[simp] theorem modNode_icache (s : State) (k : Nat) (f : NodeSt → NodeSt) : (State.icache (modNode s k f)) = s.icache := rfl
@[simp] theorem modNode_regions (s : State) (k : Nat) (f : NodeSt → NodeSt) : (State.regions (modNode s k f)) = s.regions := rfl
@[simp] theorem modNode_proxies (s : State) (k : Nat) (f : NodeSt → NodeSt) : (State.proxies (modNode s k f)) = s.proxies := rfl
@[simp] theorem modNode_rels (s : State) (k : Nat) (f : NodeSt → NodeSt) : (State.rels (modNode s k f)) = s.rels := rfl
@[simp] theorem modNode_tokens (s : State) (k : Nat) (f : NodeSt → NodeSt) : (State.tokens (modNode s k f)) = s.tokens := rfl
@[simp] theorem modNode_watches (s : State) (k : Nat) (f : NodeSt → NodeSt) : (State.watches (modNode s k f)) = s.watches := rfl
@[simp] theorem modNode_drains (s : State) (k : Nat) (f : NodeSt → NodeSt) : (State.drains (modNode s k f)) = s.drains := rfl
@[simp] theorem modNode_net (s : State) (k : Nat) (f : NodeSt → NodeSt) : (State.net (modNode s k f)) = s.net := rfl
@[simp] theorem modNode_rehome (s : State) (k : Nat) (f : NodeSt → NodeSt) : (State.rehome (modNode s k f)) = s.rehome := rfl
@[simp] theorem modNode_tlb (s : State) (k : Nat) (f : NodeSt → NodeSt) : (State.tlb (modNode s k f)) = s.tlb := rfl
@[simp] theorem modNode_walks (s : State) (k : Nat) (f : NodeSt → NodeSt) : (State.walks (modNode s k f)) = s.walks := rfl
@[simp] theorem modNode_perms (s : State) (k : Nat) (f : NodeSt → NodeSt) : (State.perms (modNode s k f)) = s.perms := rfl
@[simp] theorem modNode_grants (s : State) (k : Nat) (f : NodeSt → NodeSt) : (State.grants (modNode s k f)) = s.grants := rfl
@[simp] theorem modNode_grantWaits (s : State) (k : Nat) (f : NodeSt → NodeSt) : (State.grantWaits (modNode s k f)) = s.grantWaits := rfl
@[simp] theorem modNode_atinvs (s : State) (k : Nat) (f : NodeSt → NodeSt) : (State.atinvs (modNode s k f)) = s.atinvs := rfl
@[simp] theorem modNode_arot (s : State) (k : Nat) (f : NodeSt → NodeSt) : (State.arot (modNode s k f)) = s.arot := rfl
@[simp] theorem modNode_waves (s : State) (k : Nat) (f : NodeSt → NodeSt) : (State.waves (modNode s k f)) = s.waves := rfl
@[simp] theorem modNode_wgs (s : State) (k : Nat) (f : NodeSt → NodeSt) : (State.wgs (modNode s k f)) = s.wgs := rfl
@[simp] theorem modNode_cores (s : State) (k : Nat) (f : NodeSt → NodeSt) : (State.cores (modNode s k f)) = s.cores := rfl
@[simp] theorem modNode_queues (s : State) (k : Nat) (f : NodeSt → NodeSt) : (State.queues (modNode s k f)) = s.queues := rfl
@[simp] theorem modNode_resvs (s : State) (k : Nat) (f : NodeSt → NodeSt) : (State.resvs (modNode s k f)) = s.resvs := rfl
@[simp] theorem modNode_pending (s : State) (k : Nat) (f : NodeSt → NodeSt) : (State.pending (modNode s k f)) = s.pending := rfl
@[simp] theorem modNode_tasks (s : State) (k : Nat) (f : NodeSt → NodeSt) : (State.tasks (modNode s k f)) = s.tasks := rfl
@[simp] theorem modNode_conts (s : State) (k : Nat) (f : NodeSt → NodeSt) : (State.conts (modNode s k f)) = s.conts := rfl
@[simp] theorem modNode_varsels (s : State) (k : Nat) (f : NodeSt → NodeSt) : (State.varsels (modNode s k f)) = s.varsels := rfl
@[simp] theorem modNode_preempts (s : State) (k : Nat) (f : NodeSt → NodeSt) : (State.preempts (modNode s k f)) = s.preempts := rfl
@[simp] theorem modNode_gbars (s : State) (k : Nat) (f : NodeSt → NodeSt) : (State.gbars (modNode s k f)) = s.gbars := rfl
@[simp] theorem modNode_flt (s : State) (k : Nat) (f : NodeSt → NodeSt) : (State.flt (modNode s k f)) = s.flt := rfl

@[simp] theorem setCtx_agenda (s : State) (k : Nat) (x : Ctx) : (State.agenda (setCtx s k x)) = s.agenda := rfl
@[simp] theorem setCtx_cur (s : State) (k : Nat) (x : Ctx) : (State.cur (setCtx s k x)) = s.cur := rfl
@[simp] theorem setCtx_free (s : State) (k : Nat) (x : Ctx) : (State.free (setCtx s k x)) = s.free := rfl
@[simp] theorem setCtx_nextWave (s : State) (k : Nat) (x : Ctx) : (State.nextWave (setCtx s k x)) = s.nextWave := rfl
@[simp] theorem setCtx_nextWg (s : State) (k : Nat) (x : Ctx) : (State.nextWg (setCtx s k x)) = s.nextWg := rfl
@[simp] theorem setCtx_nextTask (s : State) (k : Nat) (x : Ctx) : (State.nextTask (setCtx s k x)) = s.nextTask := rfl
@[simp] theorem setCtx_nextReq (s : State) (k : Nat) (x : Ctx) : (State.nextReq (setCtx s k x)) = s.nextReq := rfl
@[simp] theorem setCtx_time (s : State) (k : Nat) (x : Ctx) : (State.time (setCtx s k x)) = s.time := rfl
@[simp] theorem setCtx_mods (s : State) (k : Nat) (x : Ctx) : (State.mods (setCtx s k x)) = s.mods := rfl
@[simp] theorem setCtx_nodes (s : State) (k : Nat) (x : Ctx) : (State.nodes (setCtx s k x)) = s.nodes := rfl
@[simp] theorem setCtx_wdies (s : State) (k : Nat) (x : Ctx) : (State.wdies (setCtx s k x)) = s.wdies := rfl
@[simp] theorem setCtx_secure (s : State) (k : Nat) (x : Ctx) : (State.secure (setCtx s k x)) = s.secure := rfl
@[simp] theorem setCtx_funcs (s : State) (k : Nat) (x : Ctx) : (State.funcs (setCtx s k x)) = s.funcs := rfl
@[simp] theorem setCtx_winErr (s : State) (k : Nat) (x : Ctx) : (State.winErr (setCtx s k x)) = s.winErr := rfl
@[simp] theorem setCtx_keys (s : State) (k : Nat) (x : Ctx) : (State.keys (setCtx s k x)) = s.keys := rfl
@[simp] theorem setCtx_msix (s : State) (k : Nat) (x : Ctx) : (State.msix (setCtx s k x)) = s.msix := rfl
@[simp] theorem setCtx_hostData (s : State) (k : Nat) (x : Ctx) : (State.hostData (setCtx s k x)) = s.hostData := rfl
@[simp] theorem setCtx_crs (s : State) (k : Nat) (x : Ctx) : (State.crs (setCtx s k x)) = s.crs := rfl
@[simp] theorem setCtx_mem (s : State) (k : Nat) (x : Ctx) : (State.mem (setCtx s k x)) = s.mem := rfl
@[simp] theorem setCtx_memKey (s : State) (k : Nat) (x : Ctx) : (State.memKey (setCtx s k x)) = s.memKey := rfl
@[simp] theorem setCtx_words (s : State) (k : Nat) (x : Ctx) : (State.words (setCtx s k x)) = s.words := rfl
@[simp] theorem setCtx_eccFound (s : State) (k : Nat) (x : Ctx) : (State.eccFound (setCtx s k x)) = s.eccFound := rfl
@[simp] theorem setCtx_llc (s : State) (k : Nat) (x : Ctx) : (State.llc (setCtx s k x)) = s.llc := rfl
@[simp] theorem setCtx_l2 (s : State) (k : Nat) (x : Ctx) : (State.l2 (setCtx s k x)) = s.l2 := rfl
@[simp] theorem setCtx_l1 (s : State) (k : Nat) (x : Ctx) : (State.l1 (setCtx s k x)) = s.l1 := rfl
@[simp] theorem setCtx_icache (s : State) (k : Nat) (x : Ctx) : (State.icache (setCtx s k x)) = s.icache := rfl
@[simp] theorem setCtx_regions (s : State) (k : Nat) (x : Ctx) : (State.regions (setCtx s k x)) = s.regions := rfl
@[simp] theorem setCtx_proxies (s : State) (k : Nat) (x : Ctx) : (State.proxies (setCtx s k x)) = s.proxies := rfl
@[simp] theorem setCtx_rels (s : State) (k : Nat) (x : Ctx) : (State.rels (setCtx s k x)) = s.rels := rfl
@[simp] theorem setCtx_tokens (s : State) (k : Nat) (x : Ctx) : (State.tokens (setCtx s k x)) = s.tokens := rfl
@[simp] theorem setCtx_watches (s : State) (k : Nat) (x : Ctx) : (State.watches (setCtx s k x)) = s.watches := rfl
@[simp] theorem setCtx_drains (s : State) (k : Nat) (x : Ctx) : (State.drains (setCtx s k x)) = s.drains := rfl
@[simp] theorem setCtx_net (s : State) (k : Nat) (x : Ctx) : (State.net (setCtx s k x)) = s.net := rfl
@[simp] theorem setCtx_rehome (s : State) (k : Nat) (x : Ctx) : (State.rehome (setCtx s k x)) = s.rehome := rfl
@[simp] theorem setCtx_tlb (s : State) (k : Nat) (x : Ctx) : (State.tlb (setCtx s k x)) = s.tlb := rfl
@[simp] theorem setCtx_walks (s : State) (k : Nat) (x : Ctx) : (State.walks (setCtx s k x)) = s.walks := rfl
@[simp] theorem setCtx_perms (s : State) (k : Nat) (x : Ctx) : (State.perms (setCtx s k x)) = s.perms := rfl
@[simp] theorem setCtx_grants (s : State) (k : Nat) (x : Ctx) : (State.grants (setCtx s k x)) = s.grants := rfl
@[simp] theorem setCtx_grantWaits (s : State) (k : Nat) (x : Ctx) : (State.grantWaits (setCtx s k x)) = s.grantWaits := rfl
@[simp] theorem setCtx_atinvs (s : State) (k : Nat) (x : Ctx) : (State.atinvs (setCtx s k x)) = s.atinvs := rfl
@[simp] theorem setCtx_arot (s : State) (k : Nat) (x : Ctx) : (State.arot (setCtx s k x)) = s.arot := rfl
@[simp] theorem setCtx_waves (s : State) (k : Nat) (x : Ctx) : (State.waves (setCtx s k x)) = s.waves := rfl
@[simp] theorem setCtx_wgs (s : State) (k : Nat) (x : Ctx) : (State.wgs (setCtx s k x)) = s.wgs := rfl
@[simp] theorem setCtx_cores (s : State) (k : Nat) (x : Ctx) : (State.cores (setCtx s k x)) = s.cores := rfl
@[simp] theorem setCtx_queues (s : State) (k : Nat) (x : Ctx) : (State.queues (setCtx s k x)) = s.queues := rfl
@[simp] theorem setCtx_resvs (s : State) (k : Nat) (x : Ctx) : (State.resvs (setCtx s k x)) = s.resvs := rfl
@[simp] theorem setCtx_pending (s : State) (k : Nat) (x : Ctx) : (State.pending (setCtx s k x)) = s.pending := rfl
@[simp] theorem setCtx_tasks (s : State) (k : Nat) (x : Ctx) : (State.tasks (setCtx s k x)) = s.tasks := rfl
@[simp] theorem setCtx_conts (s : State) (k : Nat) (x : Ctx) : (State.conts (setCtx s k x)) = s.conts := rfl
@[simp] theorem setCtx_varsels (s : State) (k : Nat) (x : Ctx) : (State.varsels (setCtx s k x)) = s.varsels := rfl
@[simp] theorem setCtx_preempts (s : State) (k : Nat) (x : Ctx) : (State.preempts (setCtx s k x)) = s.preempts := rfl
@[simp] theorem setCtx_gbars (s : State) (k : Nat) (x : Ctx) : (State.gbars (setCtx s k x)) = s.gbars := rfl
@[simp] theorem setCtx_flt (s : State) (k : Nat) (x : Ctx) : (State.flt (setCtx s k x)) = s.flt := rfl

@[simp] theorem modCtx_agenda (s : State) (k : Nat) (f : Ctx → Ctx) : (State.agenda (modCtx s k f)) = s.agenda := rfl
@[simp] theorem modCtx_cur (s : State) (k : Nat) (f : Ctx → Ctx) : (State.cur (modCtx s k f)) = s.cur := rfl
@[simp] theorem modCtx_free (s : State) (k : Nat) (f : Ctx → Ctx) : (State.free (modCtx s k f)) = s.free := rfl
@[simp] theorem modCtx_nextWave (s : State) (k : Nat) (f : Ctx → Ctx) : (State.nextWave (modCtx s k f)) = s.nextWave := rfl
@[simp] theorem modCtx_nextWg (s : State) (k : Nat) (f : Ctx → Ctx) : (State.nextWg (modCtx s k f)) = s.nextWg := rfl
@[simp] theorem modCtx_nextTask (s : State) (k : Nat) (f : Ctx → Ctx) : (State.nextTask (modCtx s k f)) = s.nextTask := rfl
@[simp] theorem modCtx_nextReq (s : State) (k : Nat) (f : Ctx → Ctx) : (State.nextReq (modCtx s k f)) = s.nextReq := rfl
@[simp] theorem modCtx_time (s : State) (k : Nat) (f : Ctx → Ctx) : (State.time (modCtx s k f)) = s.time := rfl
@[simp] theorem modCtx_mods (s : State) (k : Nat) (f : Ctx → Ctx) : (State.mods (modCtx s k f)) = s.mods := rfl
@[simp] theorem modCtx_nodes (s : State) (k : Nat) (f : Ctx → Ctx) : (State.nodes (modCtx s k f)) = s.nodes := rfl
@[simp] theorem modCtx_wdies (s : State) (k : Nat) (f : Ctx → Ctx) : (State.wdies (modCtx s k f)) = s.wdies := rfl
@[simp] theorem modCtx_secure (s : State) (k : Nat) (f : Ctx → Ctx) : (State.secure (modCtx s k f)) = s.secure := rfl
@[simp] theorem modCtx_funcs (s : State) (k : Nat) (f : Ctx → Ctx) : (State.funcs (modCtx s k f)) = s.funcs := rfl
@[simp] theorem modCtx_winErr (s : State) (k : Nat) (f : Ctx → Ctx) : (State.winErr (modCtx s k f)) = s.winErr := rfl
@[simp] theorem modCtx_keys (s : State) (k : Nat) (f : Ctx → Ctx) : (State.keys (modCtx s k f)) = s.keys := rfl
@[simp] theorem modCtx_msix (s : State) (k : Nat) (f : Ctx → Ctx) : (State.msix (modCtx s k f)) = s.msix := rfl
@[simp] theorem modCtx_hostData (s : State) (k : Nat) (f : Ctx → Ctx) : (State.hostData (modCtx s k f)) = s.hostData := rfl
@[simp] theorem modCtx_crs (s : State) (k : Nat) (f : Ctx → Ctx) : (State.crs (modCtx s k f)) = s.crs := rfl
@[simp] theorem modCtx_mem (s : State) (k : Nat) (f : Ctx → Ctx) : (State.mem (modCtx s k f)) = s.mem := rfl
@[simp] theorem modCtx_memKey (s : State) (k : Nat) (f : Ctx → Ctx) : (State.memKey (modCtx s k f)) = s.memKey := rfl
@[simp] theorem modCtx_words (s : State) (k : Nat) (f : Ctx → Ctx) : (State.words (modCtx s k f)) = s.words := rfl
@[simp] theorem modCtx_eccFound (s : State) (k : Nat) (f : Ctx → Ctx) : (State.eccFound (modCtx s k f)) = s.eccFound := rfl
@[simp] theorem modCtx_llc (s : State) (k : Nat) (f : Ctx → Ctx) : (State.llc (modCtx s k f)) = s.llc := rfl
@[simp] theorem modCtx_l2 (s : State) (k : Nat) (f : Ctx → Ctx) : (State.l2 (modCtx s k f)) = s.l2 := rfl
@[simp] theorem modCtx_l1 (s : State) (k : Nat) (f : Ctx → Ctx) : (State.l1 (modCtx s k f)) = s.l1 := rfl
@[simp] theorem modCtx_icache (s : State) (k : Nat) (f : Ctx → Ctx) : (State.icache (modCtx s k f)) = s.icache := rfl
@[simp] theorem modCtx_regions (s : State) (k : Nat) (f : Ctx → Ctx) : (State.regions (modCtx s k f)) = s.regions := rfl
@[simp] theorem modCtx_proxies (s : State) (k : Nat) (f : Ctx → Ctx) : (State.proxies (modCtx s k f)) = s.proxies := rfl
@[simp] theorem modCtx_rels (s : State) (k : Nat) (f : Ctx → Ctx) : (State.rels (modCtx s k f)) = s.rels := rfl
@[simp] theorem modCtx_tokens (s : State) (k : Nat) (f : Ctx → Ctx) : (State.tokens (modCtx s k f)) = s.tokens := rfl
@[simp] theorem modCtx_watches (s : State) (k : Nat) (f : Ctx → Ctx) : (State.watches (modCtx s k f)) = s.watches := rfl
@[simp] theorem modCtx_drains (s : State) (k : Nat) (f : Ctx → Ctx) : (State.drains (modCtx s k f)) = s.drains := rfl
@[simp] theorem modCtx_net (s : State) (k : Nat) (f : Ctx → Ctx) : (State.net (modCtx s k f)) = s.net := rfl
@[simp] theorem modCtx_rehome (s : State) (k : Nat) (f : Ctx → Ctx) : (State.rehome (modCtx s k f)) = s.rehome := rfl
@[simp] theorem modCtx_tlb (s : State) (k : Nat) (f : Ctx → Ctx) : (State.tlb (modCtx s k f)) = s.tlb := rfl
@[simp] theorem modCtx_walks (s : State) (k : Nat) (f : Ctx → Ctx) : (State.walks (modCtx s k f)) = s.walks := rfl
@[simp] theorem modCtx_perms (s : State) (k : Nat) (f : Ctx → Ctx) : (State.perms (modCtx s k f)) = s.perms := rfl
@[simp] theorem modCtx_grants (s : State) (k : Nat) (f : Ctx → Ctx) : (State.grants (modCtx s k f)) = s.grants := rfl
@[simp] theorem modCtx_grantWaits (s : State) (k : Nat) (f : Ctx → Ctx) : (State.grantWaits (modCtx s k f)) = s.grantWaits := rfl
@[simp] theorem modCtx_atinvs (s : State) (k : Nat) (f : Ctx → Ctx) : (State.atinvs (modCtx s k f)) = s.atinvs := rfl
@[simp] theorem modCtx_arot (s : State) (k : Nat) (f : Ctx → Ctx) : (State.arot (modCtx s k f)) = s.arot := rfl
@[simp] theorem modCtx_waves (s : State) (k : Nat) (f : Ctx → Ctx) : (State.waves (modCtx s k f)) = s.waves := rfl
@[simp] theorem modCtx_wgs (s : State) (k : Nat) (f : Ctx → Ctx) : (State.wgs (modCtx s k f)) = s.wgs := rfl
@[simp] theorem modCtx_cores (s : State) (k : Nat) (f : Ctx → Ctx) : (State.cores (modCtx s k f)) = s.cores := rfl
@[simp] theorem modCtx_queues (s : State) (k : Nat) (f : Ctx → Ctx) : (State.queues (modCtx s k f)) = s.queues := rfl
@[simp] theorem modCtx_resvs (s : State) (k : Nat) (f : Ctx → Ctx) : (State.resvs (modCtx s k f)) = s.resvs := rfl
@[simp] theorem modCtx_pending (s : State) (k : Nat) (f : Ctx → Ctx) : (State.pending (modCtx s k f)) = s.pending := rfl
@[simp] theorem modCtx_tasks (s : State) (k : Nat) (f : Ctx → Ctx) : (State.tasks (modCtx s k f)) = s.tasks := rfl
@[simp] theorem modCtx_conts (s : State) (k : Nat) (f : Ctx → Ctx) : (State.conts (modCtx s k f)) = s.conts := rfl
@[simp] theorem modCtx_varsels (s : State) (k : Nat) (f : Ctx → Ctx) : (State.varsels (modCtx s k f)) = s.varsels := rfl
@[simp] theorem modCtx_preempts (s : State) (k : Nat) (f : Ctx → Ctx) : (State.preempts (modCtx s k f)) = s.preempts := rfl
@[simp] theorem modCtx_gbars (s : State) (k : Nat) (f : Ctx → Ctx) : (State.gbars (modCtx s k f)) = s.gbars := rfl
@[simp] theorem modCtx_flt (s : State) (k : Nat) (f : Ctx → Ctx) : (State.flt (modCtx s k f)) = s.flt := rfl

@[simp] theorem modKey_agenda (s : State) (k : Nat) (f : KeySlot → KeySlot) : (State.agenda (modKey s k f)) = s.agenda := rfl
@[simp] theorem modKey_cur (s : State) (k : Nat) (f : KeySlot → KeySlot) : (State.cur (modKey s k f)) = s.cur := rfl
@[simp] theorem modKey_free (s : State) (k : Nat) (f : KeySlot → KeySlot) : (State.free (modKey s k f)) = s.free := rfl
@[simp] theorem modKey_nextWave (s : State) (k : Nat) (f : KeySlot → KeySlot) : (State.nextWave (modKey s k f)) = s.nextWave := rfl
@[simp] theorem modKey_nextWg (s : State) (k : Nat) (f : KeySlot → KeySlot) : (State.nextWg (modKey s k f)) = s.nextWg := rfl
@[simp] theorem modKey_nextTask (s : State) (k : Nat) (f : KeySlot → KeySlot) : (State.nextTask (modKey s k f)) = s.nextTask := rfl
@[simp] theorem modKey_nextReq (s : State) (k : Nat) (f : KeySlot → KeySlot) : (State.nextReq (modKey s k f)) = s.nextReq := rfl
@[simp] theorem modKey_time (s : State) (k : Nat) (f : KeySlot → KeySlot) : (State.time (modKey s k f)) = s.time := rfl
@[simp] theorem modKey_mods (s : State) (k : Nat) (f : KeySlot → KeySlot) : (State.mods (modKey s k f)) = s.mods := rfl
@[simp] theorem modKey_nodes (s : State) (k : Nat) (f : KeySlot → KeySlot) : (State.nodes (modKey s k f)) = s.nodes := rfl
@[simp] theorem modKey_wdies (s : State) (k : Nat) (f : KeySlot → KeySlot) : (State.wdies (modKey s k f)) = s.wdies := rfl
@[simp] theorem modKey_secure (s : State) (k : Nat) (f : KeySlot → KeySlot) : (State.secure (modKey s k f)) = s.secure := rfl
@[simp] theorem modKey_funcs (s : State) (k : Nat) (f : KeySlot → KeySlot) : (State.funcs (modKey s k f)) = s.funcs := rfl
@[simp] theorem modKey_winErr (s : State) (k : Nat) (f : KeySlot → KeySlot) : (State.winErr (modKey s k f)) = s.winErr := rfl
@[simp] theorem modKey_ctxs (s : State) (k : Nat) (f : KeySlot → KeySlot) : (State.ctxs (modKey s k f)) = s.ctxs := rfl
@[simp] theorem modKey_msix (s : State) (k : Nat) (f : KeySlot → KeySlot) : (State.msix (modKey s k f)) = s.msix := rfl
@[simp] theorem modKey_hostData (s : State) (k : Nat) (f : KeySlot → KeySlot) : (State.hostData (modKey s k f)) = s.hostData := rfl
@[simp] theorem modKey_crs (s : State) (k : Nat) (f : KeySlot → KeySlot) : (State.crs (modKey s k f)) = s.crs := rfl
@[simp] theorem modKey_mem (s : State) (k : Nat) (f : KeySlot → KeySlot) : (State.mem (modKey s k f)) = s.mem := rfl
@[simp] theorem modKey_memKey (s : State) (k : Nat) (f : KeySlot → KeySlot) : (State.memKey (modKey s k f)) = s.memKey := rfl
@[simp] theorem modKey_words (s : State) (k : Nat) (f : KeySlot → KeySlot) : (State.words (modKey s k f)) = s.words := rfl
@[simp] theorem modKey_eccFound (s : State) (k : Nat) (f : KeySlot → KeySlot) : (State.eccFound (modKey s k f)) = s.eccFound := rfl
@[simp] theorem modKey_llc (s : State) (k : Nat) (f : KeySlot → KeySlot) : (State.llc (modKey s k f)) = s.llc := rfl
@[simp] theorem modKey_l2 (s : State) (k : Nat) (f : KeySlot → KeySlot) : (State.l2 (modKey s k f)) = s.l2 := rfl
@[simp] theorem modKey_l1 (s : State) (k : Nat) (f : KeySlot → KeySlot) : (State.l1 (modKey s k f)) = s.l1 := rfl
@[simp] theorem modKey_icache (s : State) (k : Nat) (f : KeySlot → KeySlot) : (State.icache (modKey s k f)) = s.icache := rfl
@[simp] theorem modKey_regions (s : State) (k : Nat) (f : KeySlot → KeySlot) : (State.regions (modKey s k f)) = s.regions := rfl
@[simp] theorem modKey_proxies (s : State) (k : Nat) (f : KeySlot → KeySlot) : (State.proxies (modKey s k f)) = s.proxies := rfl
@[simp] theorem modKey_rels (s : State) (k : Nat) (f : KeySlot → KeySlot) : (State.rels (modKey s k f)) = s.rels := rfl
@[simp] theorem modKey_tokens (s : State) (k : Nat) (f : KeySlot → KeySlot) : (State.tokens (modKey s k f)) = s.tokens := rfl
@[simp] theorem modKey_watches (s : State) (k : Nat) (f : KeySlot → KeySlot) : (State.watches (modKey s k f)) = s.watches := rfl
@[simp] theorem modKey_drains (s : State) (k : Nat) (f : KeySlot → KeySlot) : (State.drains (modKey s k f)) = s.drains := rfl
@[simp] theorem modKey_net (s : State) (k : Nat) (f : KeySlot → KeySlot) : (State.net (modKey s k f)) = s.net := rfl
@[simp] theorem modKey_rehome (s : State) (k : Nat) (f : KeySlot → KeySlot) : (State.rehome (modKey s k f)) = s.rehome := rfl
@[simp] theorem modKey_tlb (s : State) (k : Nat) (f : KeySlot → KeySlot) : (State.tlb (modKey s k f)) = s.tlb := rfl
@[simp] theorem modKey_walks (s : State) (k : Nat) (f : KeySlot → KeySlot) : (State.walks (modKey s k f)) = s.walks := rfl
@[simp] theorem modKey_perms (s : State) (k : Nat) (f : KeySlot → KeySlot) : (State.perms (modKey s k f)) = s.perms := rfl
@[simp] theorem modKey_grants (s : State) (k : Nat) (f : KeySlot → KeySlot) : (State.grants (modKey s k f)) = s.grants := rfl
@[simp] theorem modKey_grantWaits (s : State) (k : Nat) (f : KeySlot → KeySlot) : (State.grantWaits (modKey s k f)) = s.grantWaits := rfl
@[simp] theorem modKey_atinvs (s : State) (k : Nat) (f : KeySlot → KeySlot) : (State.atinvs (modKey s k f)) = s.atinvs := rfl
@[simp] theorem modKey_arot (s : State) (k : Nat) (f : KeySlot → KeySlot) : (State.arot (modKey s k f)) = s.arot := rfl
@[simp] theorem modKey_waves (s : State) (k : Nat) (f : KeySlot → KeySlot) : (State.waves (modKey s k f)) = s.waves := rfl
@[simp] theorem modKey_wgs (s : State) (k : Nat) (f : KeySlot → KeySlot) : (State.wgs (modKey s k f)) = s.wgs := rfl
@[simp] theorem modKey_cores (s : State) (k : Nat) (f : KeySlot → KeySlot) : (State.cores (modKey s k f)) = s.cores := rfl
@[simp] theorem modKey_queues (s : State) (k : Nat) (f : KeySlot → KeySlot) : (State.queues (modKey s k f)) = s.queues := rfl
@[simp] theorem modKey_resvs (s : State) (k : Nat) (f : KeySlot → KeySlot) : (State.resvs (modKey s k f)) = s.resvs := rfl
@[simp] theorem modKey_pending (s : State) (k : Nat) (f : KeySlot → KeySlot) : (State.pending (modKey s k f)) = s.pending := rfl
@[simp] theorem modKey_tasks (s : State) (k : Nat) (f : KeySlot → KeySlot) : (State.tasks (modKey s k f)) = s.tasks := rfl
@[simp] theorem modKey_conts (s : State) (k : Nat) (f : KeySlot → KeySlot) : (State.conts (modKey s k f)) = s.conts := rfl
@[simp] theorem modKey_varsels (s : State) (k : Nat) (f : KeySlot → KeySlot) : (State.varsels (modKey s k f)) = s.varsels := rfl
@[simp] theorem modKey_preempts (s : State) (k : Nat) (f : KeySlot → KeySlot) : (State.preempts (modKey s k f)) = s.preempts := rfl
@[simp] theorem modKey_gbars (s : State) (k : Nat) (f : KeySlot → KeySlot) : (State.gbars (modKey s k f)) = s.gbars := rfl
@[simp] theorem modKey_flt (s : State) (k : Nat) (f : KeySlot → KeySlot) : (State.flt (modKey s k f)) = s.flt := rfl

@[simp] theorem modFunc_agenda (s : State) (k : Nat) (f : Func → Func) : (State.agenda (modFunc s k f)) = s.agenda := rfl
@[simp] theorem modFunc_cur (s : State) (k : Nat) (f : Func → Func) : (State.cur (modFunc s k f)) = s.cur := rfl
@[simp] theorem modFunc_free (s : State) (k : Nat) (f : Func → Func) : (State.free (modFunc s k f)) = s.free := rfl
@[simp] theorem modFunc_nextWave (s : State) (k : Nat) (f : Func → Func) : (State.nextWave (modFunc s k f)) = s.nextWave := rfl
@[simp] theorem modFunc_nextWg (s : State) (k : Nat) (f : Func → Func) : (State.nextWg (modFunc s k f)) = s.nextWg := rfl
@[simp] theorem modFunc_nextTask (s : State) (k : Nat) (f : Func → Func) : (State.nextTask (modFunc s k f)) = s.nextTask := rfl
@[simp] theorem modFunc_nextReq (s : State) (k : Nat) (f : Func → Func) : (State.nextReq (modFunc s k f)) = s.nextReq := rfl
@[simp] theorem modFunc_time (s : State) (k : Nat) (f : Func → Func) : (State.time (modFunc s k f)) = s.time := rfl
@[simp] theorem modFunc_mods (s : State) (k : Nat) (f : Func → Func) : (State.mods (modFunc s k f)) = s.mods := rfl
@[simp] theorem modFunc_nodes (s : State) (k : Nat) (f : Func → Func) : (State.nodes (modFunc s k f)) = s.nodes := rfl
@[simp] theorem modFunc_wdies (s : State) (k : Nat) (f : Func → Func) : (State.wdies (modFunc s k f)) = s.wdies := rfl
@[simp] theorem modFunc_secure (s : State) (k : Nat) (f : Func → Func) : (State.secure (modFunc s k f)) = s.secure := rfl
@[simp] theorem modFunc_winErr (s : State) (k : Nat) (f : Func → Func) : (State.winErr (modFunc s k f)) = s.winErr := rfl
@[simp] theorem modFunc_ctxs (s : State) (k : Nat) (f : Func → Func) : (State.ctxs (modFunc s k f)) = s.ctxs := rfl
@[simp] theorem modFunc_keys (s : State) (k : Nat) (f : Func → Func) : (State.keys (modFunc s k f)) = s.keys := rfl
@[simp] theorem modFunc_msix (s : State) (k : Nat) (f : Func → Func) : (State.msix (modFunc s k f)) = s.msix := rfl
@[simp] theorem modFunc_hostData (s : State) (k : Nat) (f : Func → Func) : (State.hostData (modFunc s k f)) = s.hostData := rfl
@[simp] theorem modFunc_crs (s : State) (k : Nat) (f : Func → Func) : (State.crs (modFunc s k f)) = s.crs := rfl
@[simp] theorem modFunc_mem (s : State) (k : Nat) (f : Func → Func) : (State.mem (modFunc s k f)) = s.mem := rfl
@[simp] theorem modFunc_memKey (s : State) (k : Nat) (f : Func → Func) : (State.memKey (modFunc s k f)) = s.memKey := rfl
@[simp] theorem modFunc_words (s : State) (k : Nat) (f : Func → Func) : (State.words (modFunc s k f)) = s.words := rfl
@[simp] theorem modFunc_eccFound (s : State) (k : Nat) (f : Func → Func) : (State.eccFound (modFunc s k f)) = s.eccFound := rfl
@[simp] theorem modFunc_llc (s : State) (k : Nat) (f : Func → Func) : (State.llc (modFunc s k f)) = s.llc := rfl
@[simp] theorem modFunc_l2 (s : State) (k : Nat) (f : Func → Func) : (State.l2 (modFunc s k f)) = s.l2 := rfl
@[simp] theorem modFunc_l1 (s : State) (k : Nat) (f : Func → Func) : (State.l1 (modFunc s k f)) = s.l1 := rfl
@[simp] theorem modFunc_icache (s : State) (k : Nat) (f : Func → Func) : (State.icache (modFunc s k f)) = s.icache := rfl
@[simp] theorem modFunc_regions (s : State) (k : Nat) (f : Func → Func) : (State.regions (modFunc s k f)) = s.regions := rfl
@[simp] theorem modFunc_proxies (s : State) (k : Nat) (f : Func → Func) : (State.proxies (modFunc s k f)) = s.proxies := rfl
@[simp] theorem modFunc_rels (s : State) (k : Nat) (f : Func → Func) : (State.rels (modFunc s k f)) = s.rels := rfl
@[simp] theorem modFunc_tokens (s : State) (k : Nat) (f : Func → Func) : (State.tokens (modFunc s k f)) = s.tokens := rfl
@[simp] theorem modFunc_watches (s : State) (k : Nat) (f : Func → Func) : (State.watches (modFunc s k f)) = s.watches := rfl
@[simp] theorem modFunc_drains (s : State) (k : Nat) (f : Func → Func) : (State.drains (modFunc s k f)) = s.drains := rfl
@[simp] theorem modFunc_net (s : State) (k : Nat) (f : Func → Func) : (State.net (modFunc s k f)) = s.net := rfl
@[simp] theorem modFunc_rehome (s : State) (k : Nat) (f : Func → Func) : (State.rehome (modFunc s k f)) = s.rehome := rfl
@[simp] theorem modFunc_tlb (s : State) (k : Nat) (f : Func → Func) : (State.tlb (modFunc s k f)) = s.tlb := rfl
@[simp] theorem modFunc_walks (s : State) (k : Nat) (f : Func → Func) : (State.walks (modFunc s k f)) = s.walks := rfl
@[simp] theorem modFunc_perms (s : State) (k : Nat) (f : Func → Func) : (State.perms (modFunc s k f)) = s.perms := rfl
@[simp] theorem modFunc_grants (s : State) (k : Nat) (f : Func → Func) : (State.grants (modFunc s k f)) = s.grants := rfl
@[simp] theorem modFunc_grantWaits (s : State) (k : Nat) (f : Func → Func) : (State.grantWaits (modFunc s k f)) = s.grantWaits := rfl
@[simp] theorem modFunc_atinvs (s : State) (k : Nat) (f : Func → Func) : (State.atinvs (modFunc s k f)) = s.atinvs := rfl
@[simp] theorem modFunc_arot (s : State) (k : Nat) (f : Func → Func) : (State.arot (modFunc s k f)) = s.arot := rfl
@[simp] theorem modFunc_waves (s : State) (k : Nat) (f : Func → Func) : (State.waves (modFunc s k f)) = s.waves := rfl
@[simp] theorem modFunc_wgs (s : State) (k : Nat) (f : Func → Func) : (State.wgs (modFunc s k f)) = s.wgs := rfl
@[simp] theorem modFunc_cores (s : State) (k : Nat) (f : Func → Func) : (State.cores (modFunc s k f)) = s.cores := rfl
@[simp] theorem modFunc_queues (s : State) (k : Nat) (f : Func → Func) : (State.queues (modFunc s k f)) = s.queues := rfl
@[simp] theorem modFunc_resvs (s : State) (k : Nat) (f : Func → Func) : (State.resvs (modFunc s k f)) = s.resvs := rfl
@[simp] theorem modFunc_pending (s : State) (k : Nat) (f : Func → Func) : (State.pending (modFunc s k f)) = s.pending := rfl
@[simp] theorem modFunc_tasks (s : State) (k : Nat) (f : Func → Func) : (State.tasks (modFunc s k f)) = s.tasks := rfl
@[simp] theorem modFunc_conts (s : State) (k : Nat) (f : Func → Func) : (State.conts (modFunc s k f)) = s.conts := rfl
@[simp] theorem modFunc_varsels (s : State) (k : Nat) (f : Func → Func) : (State.varsels (modFunc s k f)) = s.varsels := rfl
@[simp] theorem modFunc_preempts (s : State) (k : Nat) (f : Func → Func) : (State.preempts (modFunc s k f)) = s.preempts := rfl
@[simp] theorem modFunc_gbars (s : State) (k : Nat) (f : Func → Func) : (State.gbars (modFunc s k f)) = s.gbars := rfl
@[simp] theorem modFunc_flt (s : State) (k : Nat) (f : Func → Func) : (State.flt (modFunc s k f)) = s.flt := rfl

@[simp] theorem modWdie_agenda (s : State) (k : Nat) (f : WDie → WDie) : (State.agenda (modWdie s k f)) = s.agenda := rfl
@[simp] theorem modWdie_cur (s : State) (k : Nat) (f : WDie → WDie) : (State.cur (modWdie s k f)) = s.cur := rfl
@[simp] theorem modWdie_free (s : State) (k : Nat) (f : WDie → WDie) : (State.free (modWdie s k f)) = s.free := rfl
@[simp] theorem modWdie_nextWave (s : State) (k : Nat) (f : WDie → WDie) : (State.nextWave (modWdie s k f)) = s.nextWave := rfl
@[simp] theorem modWdie_nextWg (s : State) (k : Nat) (f : WDie → WDie) : (State.nextWg (modWdie s k f)) = s.nextWg := rfl
@[simp] theorem modWdie_nextTask (s : State) (k : Nat) (f : WDie → WDie) : (State.nextTask (modWdie s k f)) = s.nextTask := rfl
@[simp] theorem modWdie_nextReq (s : State) (k : Nat) (f : WDie → WDie) : (State.nextReq (modWdie s k f)) = s.nextReq := rfl
@[simp] theorem modWdie_time (s : State) (k : Nat) (f : WDie → WDie) : (State.time (modWdie s k f)) = s.time := rfl
@[simp] theorem modWdie_mods (s : State) (k : Nat) (f : WDie → WDie) : (State.mods (modWdie s k f)) = s.mods := rfl
@[simp] theorem modWdie_nodes (s : State) (k : Nat) (f : WDie → WDie) : (State.nodes (modWdie s k f)) = s.nodes := rfl
@[simp] theorem modWdie_secure (s : State) (k : Nat) (f : WDie → WDie) : (State.secure (modWdie s k f)) = s.secure := rfl
@[simp] theorem modWdie_funcs (s : State) (k : Nat) (f : WDie → WDie) : (State.funcs (modWdie s k f)) = s.funcs := rfl
@[simp] theorem modWdie_winErr (s : State) (k : Nat) (f : WDie → WDie) : (State.winErr (modWdie s k f)) = s.winErr := rfl
@[simp] theorem modWdie_ctxs (s : State) (k : Nat) (f : WDie → WDie) : (State.ctxs (modWdie s k f)) = s.ctxs := rfl
@[simp] theorem modWdie_keys (s : State) (k : Nat) (f : WDie → WDie) : (State.keys (modWdie s k f)) = s.keys := rfl
@[simp] theorem modWdie_msix (s : State) (k : Nat) (f : WDie → WDie) : (State.msix (modWdie s k f)) = s.msix := rfl
@[simp] theorem modWdie_hostData (s : State) (k : Nat) (f : WDie → WDie) : (State.hostData (modWdie s k f)) = s.hostData := rfl
@[simp] theorem modWdie_crs (s : State) (k : Nat) (f : WDie → WDie) : (State.crs (modWdie s k f)) = s.crs := rfl
@[simp] theorem modWdie_mem (s : State) (k : Nat) (f : WDie → WDie) : (State.mem (modWdie s k f)) = s.mem := rfl
@[simp] theorem modWdie_memKey (s : State) (k : Nat) (f : WDie → WDie) : (State.memKey (modWdie s k f)) = s.memKey := rfl
@[simp] theorem modWdie_words (s : State) (k : Nat) (f : WDie → WDie) : (State.words (modWdie s k f)) = s.words := rfl
@[simp] theorem modWdie_eccFound (s : State) (k : Nat) (f : WDie → WDie) : (State.eccFound (modWdie s k f)) = s.eccFound := rfl
@[simp] theorem modWdie_llc (s : State) (k : Nat) (f : WDie → WDie) : (State.llc (modWdie s k f)) = s.llc := rfl
@[simp] theorem modWdie_l2 (s : State) (k : Nat) (f : WDie → WDie) : (State.l2 (modWdie s k f)) = s.l2 := rfl
@[simp] theorem modWdie_l1 (s : State) (k : Nat) (f : WDie → WDie) : (State.l1 (modWdie s k f)) = s.l1 := rfl
@[simp] theorem modWdie_icache (s : State) (k : Nat) (f : WDie → WDie) : (State.icache (modWdie s k f)) = s.icache := rfl
@[simp] theorem modWdie_regions (s : State) (k : Nat) (f : WDie → WDie) : (State.regions (modWdie s k f)) = s.regions := rfl
@[simp] theorem modWdie_proxies (s : State) (k : Nat) (f : WDie → WDie) : (State.proxies (modWdie s k f)) = s.proxies := rfl
@[simp] theorem modWdie_rels (s : State) (k : Nat) (f : WDie → WDie) : (State.rels (modWdie s k f)) = s.rels := rfl
@[simp] theorem modWdie_tokens (s : State) (k : Nat) (f : WDie → WDie) : (State.tokens (modWdie s k f)) = s.tokens := rfl
@[simp] theorem modWdie_watches (s : State) (k : Nat) (f : WDie → WDie) : (State.watches (modWdie s k f)) = s.watches := rfl
@[simp] theorem modWdie_drains (s : State) (k : Nat) (f : WDie → WDie) : (State.drains (modWdie s k f)) = s.drains := rfl
@[simp] theorem modWdie_net (s : State) (k : Nat) (f : WDie → WDie) : (State.net (modWdie s k f)) = s.net := rfl
@[simp] theorem modWdie_rehome (s : State) (k : Nat) (f : WDie → WDie) : (State.rehome (modWdie s k f)) = s.rehome := rfl
@[simp] theorem modWdie_tlb (s : State) (k : Nat) (f : WDie → WDie) : (State.tlb (modWdie s k f)) = s.tlb := rfl
@[simp] theorem modWdie_walks (s : State) (k : Nat) (f : WDie → WDie) : (State.walks (modWdie s k f)) = s.walks := rfl
@[simp] theorem modWdie_perms (s : State) (k : Nat) (f : WDie → WDie) : (State.perms (modWdie s k f)) = s.perms := rfl
@[simp] theorem modWdie_grants (s : State) (k : Nat) (f : WDie → WDie) : (State.grants (modWdie s k f)) = s.grants := rfl
@[simp] theorem modWdie_grantWaits (s : State) (k : Nat) (f : WDie → WDie) : (State.grantWaits (modWdie s k f)) = s.grantWaits := rfl
@[simp] theorem modWdie_atinvs (s : State) (k : Nat) (f : WDie → WDie) : (State.atinvs (modWdie s k f)) = s.atinvs := rfl
@[simp] theorem modWdie_arot (s : State) (k : Nat) (f : WDie → WDie) : (State.arot (modWdie s k f)) = s.arot := rfl
@[simp] theorem modWdie_waves (s : State) (k : Nat) (f : WDie → WDie) : (State.waves (modWdie s k f)) = s.waves := rfl
@[simp] theorem modWdie_wgs (s : State) (k : Nat) (f : WDie → WDie) : (State.wgs (modWdie s k f)) = s.wgs := rfl
@[simp] theorem modWdie_cores (s : State) (k : Nat) (f : WDie → WDie) : (State.cores (modWdie s k f)) = s.cores := rfl
@[simp] theorem modWdie_queues (s : State) (k : Nat) (f : WDie → WDie) : (State.queues (modWdie s k f)) = s.queues := rfl
@[simp] theorem modWdie_resvs (s : State) (k : Nat) (f : WDie → WDie) : (State.resvs (modWdie s k f)) = s.resvs := rfl
@[simp] theorem modWdie_pending (s : State) (k : Nat) (f : WDie → WDie) : (State.pending (modWdie s k f)) = s.pending := rfl
@[simp] theorem modWdie_tasks (s : State) (k : Nat) (f : WDie → WDie) : (State.tasks (modWdie s k f)) = s.tasks := rfl
@[simp] theorem modWdie_conts (s : State) (k : Nat) (f : WDie → WDie) : (State.conts (modWdie s k f)) = s.conts := rfl
@[simp] theorem modWdie_varsels (s : State) (k : Nat) (f : WDie → WDie) : (State.varsels (modWdie s k f)) = s.varsels := rfl
@[simp] theorem modWdie_preempts (s : State) (k : Nat) (f : WDie → WDie) : (State.preempts (modWdie s k f)) = s.preempts := rfl
@[simp] theorem modWdie_gbars (s : State) (k : Nat) (f : WDie → WDie) : (State.gbars (modWdie s k f)) = s.gbars := rfl
@[simp] theorem modWdie_flt (s : State) (k : Nat) (f : WDie → WDie) : (State.flt (modWdie s k f)) = s.flt := rfl

@[simp] theorem modQidx_agenda (s : State) (k : Nat) (f : QIdx → QIdx) : (State.agenda (modQidx s k f)) = s.agenda := rfl
@[simp] theorem modQidx_cur (s : State) (k : Nat) (f : QIdx → QIdx) : (State.cur (modQidx s k f)) = s.cur := rfl
@[simp] theorem modQidx_free (s : State) (k : Nat) (f : QIdx → QIdx) : (State.free (modQidx s k f)) = s.free := rfl
@[simp] theorem modQidx_nextWave (s : State) (k : Nat) (f : QIdx → QIdx) : (State.nextWave (modQidx s k f)) = s.nextWave := rfl
@[simp] theorem modQidx_nextWg (s : State) (k : Nat) (f : QIdx → QIdx) : (State.nextWg (modQidx s k f)) = s.nextWg := rfl
@[simp] theorem modQidx_nextTask (s : State) (k : Nat) (f : QIdx → QIdx) : (State.nextTask (modQidx s k f)) = s.nextTask := rfl
@[simp] theorem modQidx_nextReq (s : State) (k : Nat) (f : QIdx → QIdx) : (State.nextReq (modQidx s k f)) = s.nextReq := rfl
@[simp] theorem modQidx_time (s : State) (k : Nat) (f : QIdx → QIdx) : (State.time (modQidx s k f)) = s.time := rfl
@[simp] theorem modQidx_mods (s : State) (k : Nat) (f : QIdx → QIdx) : (State.mods (modQidx s k f)) = s.mods := rfl
@[simp] theorem modQidx_nodes (s : State) (k : Nat) (f : QIdx → QIdx) : (State.nodes (modQidx s k f)) = s.nodes := rfl
@[simp] theorem modQidx_wdies (s : State) (k : Nat) (f : QIdx → QIdx) : (State.wdies (modQidx s k f)) = s.wdies := rfl
@[simp] theorem modQidx_secure (s : State) (k : Nat) (f : QIdx → QIdx) : (State.secure (modQidx s k f)) = s.secure := rfl
@[simp] theorem modQidx_funcs (s : State) (k : Nat) (f : QIdx → QIdx) : (State.funcs (modQidx s k f)) = s.funcs := rfl
@[simp] theorem modQidx_winErr (s : State) (k : Nat) (f : QIdx → QIdx) : (State.winErr (modQidx s k f)) = s.winErr := rfl
@[simp] theorem modQidx_ctxs (s : State) (k : Nat) (f : QIdx → QIdx) : (State.ctxs (modQidx s k f)) = s.ctxs := rfl
@[simp] theorem modQidx_keys (s : State) (k : Nat) (f : QIdx → QIdx) : (State.keys (modQidx s k f)) = s.keys := rfl
@[simp] theorem modQidx_msix (s : State) (k : Nat) (f : QIdx → QIdx) : (State.msix (modQidx s k f)) = s.msix := rfl
@[simp] theorem modQidx_hostData (s : State) (k : Nat) (f : QIdx → QIdx) : (State.hostData (modQidx s k f)) = s.hostData := rfl
@[simp] theorem modQidx_crs (s : State) (k : Nat) (f : QIdx → QIdx) : (State.crs (modQidx s k f)) = s.crs := rfl
@[simp] theorem modQidx_mem (s : State) (k : Nat) (f : QIdx → QIdx) : (State.mem (modQidx s k f)) = s.mem := rfl
@[simp] theorem modQidx_memKey (s : State) (k : Nat) (f : QIdx → QIdx) : (State.memKey (modQidx s k f)) = s.memKey := rfl
@[simp] theorem modQidx_words (s : State) (k : Nat) (f : QIdx → QIdx) : (State.words (modQidx s k f)) = s.words := rfl
@[simp] theorem modQidx_eccFound (s : State) (k : Nat) (f : QIdx → QIdx) : (State.eccFound (modQidx s k f)) = s.eccFound := rfl
@[simp] theorem modQidx_llc (s : State) (k : Nat) (f : QIdx → QIdx) : (State.llc (modQidx s k f)) = s.llc := rfl
@[simp] theorem modQidx_l2 (s : State) (k : Nat) (f : QIdx → QIdx) : (State.l2 (modQidx s k f)) = s.l2 := rfl
@[simp] theorem modQidx_l1 (s : State) (k : Nat) (f : QIdx → QIdx) : (State.l1 (modQidx s k f)) = s.l1 := rfl
@[simp] theorem modQidx_icache (s : State) (k : Nat) (f : QIdx → QIdx) : (State.icache (modQidx s k f)) = s.icache := rfl
@[simp] theorem modQidx_regions (s : State) (k : Nat) (f : QIdx → QIdx) : (State.regions (modQidx s k f)) = s.regions := rfl
@[simp] theorem modQidx_proxies (s : State) (k : Nat) (f : QIdx → QIdx) : (State.proxies (modQidx s k f)) = s.proxies := rfl
@[simp] theorem modQidx_rels (s : State) (k : Nat) (f : QIdx → QIdx) : (State.rels (modQidx s k f)) = s.rels := rfl
@[simp] theorem modQidx_tokens (s : State) (k : Nat) (f : QIdx → QIdx) : (State.tokens (modQidx s k f)) = s.tokens := rfl
@[simp] theorem modQidx_watches (s : State) (k : Nat) (f : QIdx → QIdx) : (State.watches (modQidx s k f)) = s.watches := rfl
@[simp] theorem modQidx_drains (s : State) (k : Nat) (f : QIdx → QIdx) : (State.drains (modQidx s k f)) = s.drains := rfl
@[simp] theorem modQidx_net (s : State) (k : Nat) (f : QIdx → QIdx) : (State.net (modQidx s k f)) = s.net := rfl
@[simp] theorem modQidx_rehome (s : State) (k : Nat) (f : QIdx → QIdx) : (State.rehome (modQidx s k f)) = s.rehome := rfl
@[simp] theorem modQidx_tlb (s : State) (k : Nat) (f : QIdx → QIdx) : (State.tlb (modQidx s k f)) = s.tlb := rfl
@[simp] theorem modQidx_walks (s : State) (k : Nat) (f : QIdx → QIdx) : (State.walks (modQidx s k f)) = s.walks := rfl
@[simp] theorem modQidx_perms (s : State) (k : Nat) (f : QIdx → QIdx) : (State.perms (modQidx s k f)) = s.perms := rfl
@[simp] theorem modQidx_grants (s : State) (k : Nat) (f : QIdx → QIdx) : (State.grants (modQidx s k f)) = s.grants := rfl
@[simp] theorem modQidx_grantWaits (s : State) (k : Nat) (f : QIdx → QIdx) : (State.grantWaits (modQidx s k f)) = s.grantWaits := rfl
@[simp] theorem modQidx_atinvs (s : State) (k : Nat) (f : QIdx → QIdx) : (State.atinvs (modQidx s k f)) = s.atinvs := rfl
@[simp] theorem modQidx_arot (s : State) (k : Nat) (f : QIdx → QIdx) : (State.arot (modQidx s k f)) = s.arot := rfl
@[simp] theorem modQidx_waves (s : State) (k : Nat) (f : QIdx → QIdx) : (State.waves (modQidx s k f)) = s.waves := rfl
@[simp] theorem modQidx_wgs (s : State) (k : Nat) (f : QIdx → QIdx) : (State.wgs (modQidx s k f)) = s.wgs := rfl
@[simp] theorem modQidx_cores (s : State) (k : Nat) (f : QIdx → QIdx) : (State.cores (modQidx s k f)) = s.cores := rfl
@[simp] theorem modQidx_resvs (s : State) (k : Nat) (f : QIdx → QIdx) : (State.resvs (modQidx s k f)) = s.resvs := rfl
@[simp] theorem modQidx_pending (s : State) (k : Nat) (f : QIdx → QIdx) : (State.pending (modQidx s k f)) = s.pending := rfl
@[simp] theorem modQidx_tasks (s : State) (k : Nat) (f : QIdx → QIdx) : (State.tasks (modQidx s k f)) = s.tasks := rfl
@[simp] theorem modQidx_conts (s : State) (k : Nat) (f : QIdx → QIdx) : (State.conts (modQidx s k f)) = s.conts := rfl
@[simp] theorem modQidx_varsels (s : State) (k : Nat) (f : QIdx → QIdx) : (State.varsels (modQidx s k f)) = s.varsels := rfl
@[simp] theorem modQidx_preempts (s : State) (k : Nat) (f : QIdx → QIdx) : (State.preempts (modQidx s k f)) = s.preempts := rfl
@[simp] theorem modQidx_gbars (s : State) (k : Nat) (f : QIdx → QIdx) : (State.gbars (modQidx s k f)) = s.gbars := rfl
@[simp] theorem modQidx_flt (s : State) (k : Nat) (f : QIdx → QIdx) : (State.flt (modQidx s k f)) = s.flt := rfl

@[simp] theorem setCore_agenda (s : State) (k : Nat) (x : Core) : (State.agenda (setCore s k x)) = s.agenda := rfl
@[simp] theorem setCore_cur (s : State) (k : Nat) (x : Core) : (State.cur (setCore s k x)) = s.cur := rfl
@[simp] theorem setCore_free (s : State) (k : Nat) (x : Core) : (State.free (setCore s k x)) = s.free := rfl
@[simp] theorem setCore_nextWave (s : State) (k : Nat) (x : Core) : (State.nextWave (setCore s k x)) = s.nextWave := rfl
@[simp] theorem setCore_nextWg (s : State) (k : Nat) (x : Core) : (State.nextWg (setCore s k x)) = s.nextWg := rfl
@[simp] theorem setCore_nextTask (s : State) (k : Nat) (x : Core) : (State.nextTask (setCore s k x)) = s.nextTask := rfl
@[simp] theorem setCore_nextReq (s : State) (k : Nat) (x : Core) : (State.nextReq (setCore s k x)) = s.nextReq := rfl
@[simp] theorem setCore_time (s : State) (k : Nat) (x : Core) : (State.time (setCore s k x)) = s.time := rfl
@[simp] theorem setCore_mods (s : State) (k : Nat) (x : Core) : (State.mods (setCore s k x)) = s.mods := rfl
@[simp] theorem setCore_nodes (s : State) (k : Nat) (x : Core) : (State.nodes (setCore s k x)) = s.nodes := rfl
@[simp] theorem setCore_wdies (s : State) (k : Nat) (x : Core) : (State.wdies (setCore s k x)) = s.wdies := rfl
@[simp] theorem setCore_secure (s : State) (k : Nat) (x : Core) : (State.secure (setCore s k x)) = s.secure := rfl
@[simp] theorem setCore_funcs (s : State) (k : Nat) (x : Core) : (State.funcs (setCore s k x)) = s.funcs := rfl
@[simp] theorem setCore_winErr (s : State) (k : Nat) (x : Core) : (State.winErr (setCore s k x)) = s.winErr := rfl
@[simp] theorem setCore_ctxs (s : State) (k : Nat) (x : Core) : (State.ctxs (setCore s k x)) = s.ctxs := rfl
@[simp] theorem setCore_keys (s : State) (k : Nat) (x : Core) : (State.keys (setCore s k x)) = s.keys := rfl
@[simp] theorem setCore_msix (s : State) (k : Nat) (x : Core) : (State.msix (setCore s k x)) = s.msix := rfl
@[simp] theorem setCore_hostData (s : State) (k : Nat) (x : Core) : (State.hostData (setCore s k x)) = s.hostData := rfl
@[simp] theorem setCore_crs (s : State) (k : Nat) (x : Core) : (State.crs (setCore s k x)) = s.crs := rfl
@[simp] theorem setCore_mem (s : State) (k : Nat) (x : Core) : (State.mem (setCore s k x)) = s.mem := rfl
@[simp] theorem setCore_memKey (s : State) (k : Nat) (x : Core) : (State.memKey (setCore s k x)) = s.memKey := rfl
@[simp] theorem setCore_words (s : State) (k : Nat) (x : Core) : (State.words (setCore s k x)) = s.words := rfl
@[simp] theorem setCore_eccFound (s : State) (k : Nat) (x : Core) : (State.eccFound (setCore s k x)) = s.eccFound := rfl
@[simp] theorem setCore_llc (s : State) (k : Nat) (x : Core) : (State.llc (setCore s k x)) = s.llc := rfl
@[simp] theorem setCore_l2 (s : State) (k : Nat) (x : Core) : (State.l2 (setCore s k x)) = s.l2 := rfl
@[simp] theorem setCore_l1 (s : State) (k : Nat) (x : Core) : (State.l1 (setCore s k x)) = s.l1 := rfl
@[simp] theorem setCore_icache (s : State) (k : Nat) (x : Core) : (State.icache (setCore s k x)) = s.icache := rfl
@[simp] theorem setCore_regions (s : State) (k : Nat) (x : Core) : (State.regions (setCore s k x)) = s.regions := rfl
@[simp] theorem setCore_proxies (s : State) (k : Nat) (x : Core) : (State.proxies (setCore s k x)) = s.proxies := rfl
@[simp] theorem setCore_rels (s : State) (k : Nat) (x : Core) : (State.rels (setCore s k x)) = s.rels := rfl
@[simp] theorem setCore_tokens (s : State) (k : Nat) (x : Core) : (State.tokens (setCore s k x)) = s.tokens := rfl
@[simp] theorem setCore_watches (s : State) (k : Nat) (x : Core) : (State.watches (setCore s k x)) = s.watches := rfl
@[simp] theorem setCore_drains (s : State) (k : Nat) (x : Core) : (State.drains (setCore s k x)) = s.drains := rfl
@[simp] theorem setCore_net (s : State) (k : Nat) (x : Core) : (State.net (setCore s k x)) = s.net := rfl
@[simp] theorem setCore_rehome (s : State) (k : Nat) (x : Core) : (State.rehome (setCore s k x)) = s.rehome := rfl
@[simp] theorem setCore_tlb (s : State) (k : Nat) (x : Core) : (State.tlb (setCore s k x)) = s.tlb := rfl
@[simp] theorem setCore_walks (s : State) (k : Nat) (x : Core) : (State.walks (setCore s k x)) = s.walks := rfl
@[simp] theorem setCore_perms (s : State) (k : Nat) (x : Core) : (State.perms (setCore s k x)) = s.perms := rfl
@[simp] theorem setCore_grants (s : State) (k : Nat) (x : Core) : (State.grants (setCore s k x)) = s.grants := rfl
@[simp] theorem setCore_grantWaits (s : State) (k : Nat) (x : Core) : (State.grantWaits (setCore s k x)) = s.grantWaits := rfl
@[simp] theorem setCore_atinvs (s : State) (k : Nat) (x : Core) : (State.atinvs (setCore s k x)) = s.atinvs := rfl
@[simp] theorem setCore_arot (s : State) (k : Nat) (x : Core) : (State.arot (setCore s k x)) = s.arot := rfl
@[simp] theorem setCore_waves (s : State) (k : Nat) (x : Core) : (State.waves (setCore s k x)) = s.waves := rfl
@[simp] theorem setCore_wgs (s : State) (k : Nat) (x : Core) : (State.wgs (setCore s k x)) = s.wgs := rfl
@[simp] theorem setCore_queues (s : State) (k : Nat) (x : Core) : (State.queues (setCore s k x)) = s.queues := rfl
@[simp] theorem setCore_resvs (s : State) (k : Nat) (x : Core) : (State.resvs (setCore s k x)) = s.resvs := rfl
@[simp] theorem setCore_pending (s : State) (k : Nat) (x : Core) : (State.pending (setCore s k x)) = s.pending := rfl
@[simp] theorem setCore_tasks (s : State) (k : Nat) (x : Core) : (State.tasks (setCore s k x)) = s.tasks := rfl
@[simp] theorem setCore_conts (s : State) (k : Nat) (x : Core) : (State.conts (setCore s k x)) = s.conts := rfl
@[simp] theorem setCore_varsels (s : State) (k : Nat) (x : Core) : (State.varsels (setCore s k x)) = s.varsels := rfl
@[simp] theorem setCore_preempts (s : State) (k : Nat) (x : Core) : (State.preempts (setCore s k x)) = s.preempts := rfl
@[simp] theorem setCore_gbars (s : State) (k : Nat) (x : Core) : (State.gbars (setCore s k x)) = s.gbars := rfl
@[simp] theorem setCore_flt (s : State) (k : Nat) (x : Core) : (State.flt (setCore s k x)) = s.flt := rfl

@[simp] theorem modCore_agenda (s : State) (k : Nat) (f : Core → Core) : (State.agenda (modCore s k f)) = s.agenda := rfl
@[simp] theorem modCore_cur (s : State) (k : Nat) (f : Core → Core) : (State.cur (modCore s k f)) = s.cur := rfl
@[simp] theorem modCore_free (s : State) (k : Nat) (f : Core → Core) : (State.free (modCore s k f)) = s.free := rfl
@[simp] theorem modCore_nextWave (s : State) (k : Nat) (f : Core → Core) : (State.nextWave (modCore s k f)) = s.nextWave := rfl
@[simp] theorem modCore_nextWg (s : State) (k : Nat) (f : Core → Core) : (State.nextWg (modCore s k f)) = s.nextWg := rfl
@[simp] theorem modCore_nextTask (s : State) (k : Nat) (f : Core → Core) : (State.nextTask (modCore s k f)) = s.nextTask := rfl
@[simp] theorem modCore_nextReq (s : State) (k : Nat) (f : Core → Core) : (State.nextReq (modCore s k f)) = s.nextReq := rfl
@[simp] theorem modCore_time (s : State) (k : Nat) (f : Core → Core) : (State.time (modCore s k f)) = s.time := rfl
@[simp] theorem modCore_mods (s : State) (k : Nat) (f : Core → Core) : (State.mods (modCore s k f)) = s.mods := rfl
@[simp] theorem modCore_nodes (s : State) (k : Nat) (f : Core → Core) : (State.nodes (modCore s k f)) = s.nodes := rfl
@[simp] theorem modCore_wdies (s : State) (k : Nat) (f : Core → Core) : (State.wdies (modCore s k f)) = s.wdies := rfl
@[simp] theorem modCore_secure (s : State) (k : Nat) (f : Core → Core) : (State.secure (modCore s k f)) = s.secure := rfl
@[simp] theorem modCore_funcs (s : State) (k : Nat) (f : Core → Core) : (State.funcs (modCore s k f)) = s.funcs := rfl
@[simp] theorem modCore_winErr (s : State) (k : Nat) (f : Core → Core) : (State.winErr (modCore s k f)) = s.winErr := rfl
@[simp] theorem modCore_ctxs (s : State) (k : Nat) (f : Core → Core) : (State.ctxs (modCore s k f)) = s.ctxs := rfl
@[simp] theorem modCore_keys (s : State) (k : Nat) (f : Core → Core) : (State.keys (modCore s k f)) = s.keys := rfl
@[simp] theorem modCore_msix (s : State) (k : Nat) (f : Core → Core) : (State.msix (modCore s k f)) = s.msix := rfl
@[simp] theorem modCore_hostData (s : State) (k : Nat) (f : Core → Core) : (State.hostData (modCore s k f)) = s.hostData := rfl
@[simp] theorem modCore_crs (s : State) (k : Nat) (f : Core → Core) : (State.crs (modCore s k f)) = s.crs := rfl
@[simp] theorem modCore_mem (s : State) (k : Nat) (f : Core → Core) : (State.mem (modCore s k f)) = s.mem := rfl
@[simp] theorem modCore_memKey (s : State) (k : Nat) (f : Core → Core) : (State.memKey (modCore s k f)) = s.memKey := rfl
@[simp] theorem modCore_words (s : State) (k : Nat) (f : Core → Core) : (State.words (modCore s k f)) = s.words := rfl
@[simp] theorem modCore_eccFound (s : State) (k : Nat) (f : Core → Core) : (State.eccFound (modCore s k f)) = s.eccFound := rfl
@[simp] theorem modCore_llc (s : State) (k : Nat) (f : Core → Core) : (State.llc (modCore s k f)) = s.llc := rfl
@[simp] theorem modCore_l2 (s : State) (k : Nat) (f : Core → Core) : (State.l2 (modCore s k f)) = s.l2 := rfl
@[simp] theorem modCore_l1 (s : State) (k : Nat) (f : Core → Core) : (State.l1 (modCore s k f)) = s.l1 := rfl
@[simp] theorem modCore_icache (s : State) (k : Nat) (f : Core → Core) : (State.icache (modCore s k f)) = s.icache := rfl
@[simp] theorem modCore_regions (s : State) (k : Nat) (f : Core → Core) : (State.regions (modCore s k f)) = s.regions := rfl
@[simp] theorem modCore_proxies (s : State) (k : Nat) (f : Core → Core) : (State.proxies (modCore s k f)) = s.proxies := rfl
@[simp] theorem modCore_rels (s : State) (k : Nat) (f : Core → Core) : (State.rels (modCore s k f)) = s.rels := rfl
@[simp] theorem modCore_tokens (s : State) (k : Nat) (f : Core → Core) : (State.tokens (modCore s k f)) = s.tokens := rfl
@[simp] theorem modCore_watches (s : State) (k : Nat) (f : Core → Core) : (State.watches (modCore s k f)) = s.watches := rfl
@[simp] theorem modCore_drains (s : State) (k : Nat) (f : Core → Core) : (State.drains (modCore s k f)) = s.drains := rfl
@[simp] theorem modCore_net (s : State) (k : Nat) (f : Core → Core) : (State.net (modCore s k f)) = s.net := rfl
@[simp] theorem modCore_rehome (s : State) (k : Nat) (f : Core → Core) : (State.rehome (modCore s k f)) = s.rehome := rfl
@[simp] theorem modCore_tlb (s : State) (k : Nat) (f : Core → Core) : (State.tlb (modCore s k f)) = s.tlb := rfl
@[simp] theorem modCore_walks (s : State) (k : Nat) (f : Core → Core) : (State.walks (modCore s k f)) = s.walks := rfl
@[simp] theorem modCore_perms (s : State) (k : Nat) (f : Core → Core) : (State.perms (modCore s k f)) = s.perms := rfl
@[simp] theorem modCore_grants (s : State) (k : Nat) (f : Core → Core) : (State.grants (modCore s k f)) = s.grants := rfl
@[simp] theorem modCore_grantWaits (s : State) (k : Nat) (f : Core → Core) : (State.grantWaits (modCore s k f)) = s.grantWaits := rfl
@[simp] theorem modCore_atinvs (s : State) (k : Nat) (f : Core → Core) : (State.atinvs (modCore s k f)) = s.atinvs := rfl
@[simp] theorem modCore_arot (s : State) (k : Nat) (f : Core → Core) : (State.arot (modCore s k f)) = s.arot := rfl
@[simp] theorem modCore_waves (s : State) (k : Nat) (f : Core → Core) : (State.waves (modCore s k f)) = s.waves := rfl
@[simp] theorem modCore_wgs (s : State) (k : Nat) (f : Core → Core) : (State.wgs (modCore s k f)) = s.wgs := rfl
@[simp] theorem modCore_queues (s : State) (k : Nat) (f : Core → Core) : (State.queues (modCore s k f)) = s.queues := rfl
@[simp] theorem modCore_resvs (s : State) (k : Nat) (f : Core → Core) : (State.resvs (modCore s k f)) = s.resvs := rfl
@[simp] theorem modCore_pending (s : State) (k : Nat) (f : Core → Core) : (State.pending (modCore s k f)) = s.pending := rfl
@[simp] theorem modCore_tasks (s : State) (k : Nat) (f : Core → Core) : (State.tasks (modCore s k f)) = s.tasks := rfl
@[simp] theorem modCore_conts (s : State) (k : Nat) (f : Core → Core) : (State.conts (modCore s k f)) = s.conts := rfl
@[simp] theorem modCore_varsels (s : State) (k : Nat) (f : Core → Core) : (State.varsels (modCore s k f)) = s.varsels := rfl
@[simp] theorem modCore_preempts (s : State) (k : Nat) (f : Core → Core) : (State.preempts (modCore s k f)) = s.preempts := rfl
@[simp] theorem modCore_gbars (s : State) (k : Nat) (f : Core → Core) : (State.gbars (modCore s k f)) = s.gbars := rfl
@[simp] theorem modCore_flt (s : State) (k : Nat) (f : Core → Core) : (State.flt (modCore s k f)) = s.flt := rfl

@[simp] theorem setWave_agenda (s : State) (k : Nat) (x : Wave) : (State.agenda (setWave s k x)) = s.agenda := rfl
@[simp] theorem setWave_cur (s : State) (k : Nat) (x : Wave) : (State.cur (setWave s k x)) = s.cur := rfl
@[simp] theorem setWave_free (s : State) (k : Nat) (x : Wave) : (State.free (setWave s k x)) = s.free := rfl
@[simp] theorem setWave_nextWave (s : State) (k : Nat) (x : Wave) : (State.nextWave (setWave s k x)) = s.nextWave := rfl
@[simp] theorem setWave_nextWg (s : State) (k : Nat) (x : Wave) : (State.nextWg (setWave s k x)) = s.nextWg := rfl
@[simp] theorem setWave_nextTask (s : State) (k : Nat) (x : Wave) : (State.nextTask (setWave s k x)) = s.nextTask := rfl
@[simp] theorem setWave_nextReq (s : State) (k : Nat) (x : Wave) : (State.nextReq (setWave s k x)) = s.nextReq := rfl
@[simp] theorem setWave_time (s : State) (k : Nat) (x : Wave) : (State.time (setWave s k x)) = s.time := rfl
@[simp] theorem setWave_mods (s : State) (k : Nat) (x : Wave) : (State.mods (setWave s k x)) = s.mods := rfl
@[simp] theorem setWave_nodes (s : State) (k : Nat) (x : Wave) : (State.nodes (setWave s k x)) = s.nodes := rfl
@[simp] theorem setWave_wdies (s : State) (k : Nat) (x : Wave) : (State.wdies (setWave s k x)) = s.wdies := rfl
@[simp] theorem setWave_secure (s : State) (k : Nat) (x : Wave) : (State.secure (setWave s k x)) = s.secure := rfl
@[simp] theorem setWave_funcs (s : State) (k : Nat) (x : Wave) : (State.funcs (setWave s k x)) = s.funcs := rfl
@[simp] theorem setWave_winErr (s : State) (k : Nat) (x : Wave) : (State.winErr (setWave s k x)) = s.winErr := rfl
@[simp] theorem setWave_ctxs (s : State) (k : Nat) (x : Wave) : (State.ctxs (setWave s k x)) = s.ctxs := rfl
@[simp] theorem setWave_keys (s : State) (k : Nat) (x : Wave) : (State.keys (setWave s k x)) = s.keys := rfl
@[simp] theorem setWave_msix (s : State) (k : Nat) (x : Wave) : (State.msix (setWave s k x)) = s.msix := rfl
@[simp] theorem setWave_hostData (s : State) (k : Nat) (x : Wave) : (State.hostData (setWave s k x)) = s.hostData := rfl
@[simp] theorem setWave_crs (s : State) (k : Nat) (x : Wave) : (State.crs (setWave s k x)) = s.crs := rfl
@[simp] theorem setWave_mem (s : State) (k : Nat) (x : Wave) : (State.mem (setWave s k x)) = s.mem := rfl
@[simp] theorem setWave_memKey (s : State) (k : Nat) (x : Wave) : (State.memKey (setWave s k x)) = s.memKey := rfl
@[simp] theorem setWave_words (s : State) (k : Nat) (x : Wave) : (State.words (setWave s k x)) = s.words := rfl
@[simp] theorem setWave_eccFound (s : State) (k : Nat) (x : Wave) : (State.eccFound (setWave s k x)) = s.eccFound := rfl
@[simp] theorem setWave_llc (s : State) (k : Nat) (x : Wave) : (State.llc (setWave s k x)) = s.llc := rfl
@[simp] theorem setWave_l2 (s : State) (k : Nat) (x : Wave) : (State.l2 (setWave s k x)) = s.l2 := rfl
@[simp] theorem setWave_l1 (s : State) (k : Nat) (x : Wave) : (State.l1 (setWave s k x)) = s.l1 := rfl
@[simp] theorem setWave_icache (s : State) (k : Nat) (x : Wave) : (State.icache (setWave s k x)) = s.icache := rfl
@[simp] theorem setWave_regions (s : State) (k : Nat) (x : Wave) : (State.regions (setWave s k x)) = s.regions := rfl
@[simp] theorem setWave_proxies (s : State) (k : Nat) (x : Wave) : (State.proxies (setWave s k x)) = s.proxies := rfl
@[simp] theorem setWave_rels (s : State) (k : Nat) (x : Wave) : (State.rels (setWave s k x)) = s.rels := rfl
@[simp] theorem setWave_tokens (s : State) (k : Nat) (x : Wave) : (State.tokens (setWave s k x)) = s.tokens := rfl
@[simp] theorem setWave_watches (s : State) (k : Nat) (x : Wave) : (State.watches (setWave s k x)) = s.watches := rfl
@[simp] theorem setWave_drains (s : State) (k : Nat) (x : Wave) : (State.drains (setWave s k x)) = s.drains := rfl
@[simp] theorem setWave_net (s : State) (k : Nat) (x : Wave) : (State.net (setWave s k x)) = s.net := rfl
@[simp] theorem setWave_rehome (s : State) (k : Nat) (x : Wave) : (State.rehome (setWave s k x)) = s.rehome := rfl
@[simp] theorem setWave_tlb (s : State) (k : Nat) (x : Wave) : (State.tlb (setWave s k x)) = s.tlb := rfl
@[simp] theorem setWave_walks (s : State) (k : Nat) (x : Wave) : (State.walks (setWave s k x)) = s.walks := rfl
@[simp] theorem setWave_perms (s : State) (k : Nat) (x : Wave) : (State.perms (setWave s k x)) = s.perms := rfl
@[simp] theorem setWave_grants (s : State) (k : Nat) (x : Wave) : (State.grants (setWave s k x)) = s.grants := rfl
@[simp] theorem setWave_grantWaits (s : State) (k : Nat) (x : Wave) : (State.grantWaits (setWave s k x)) = s.grantWaits := rfl
@[simp] theorem setWave_atinvs (s : State) (k : Nat) (x : Wave) : (State.atinvs (setWave s k x)) = s.atinvs := rfl
@[simp] theorem setWave_arot (s : State) (k : Nat) (x : Wave) : (State.arot (setWave s k x)) = s.arot := rfl
@[simp] theorem setWave_wgs (s : State) (k : Nat) (x : Wave) : (State.wgs (setWave s k x)) = s.wgs := rfl
@[simp] theorem setWave_cores (s : State) (k : Nat) (x : Wave) : (State.cores (setWave s k x)) = s.cores := rfl
@[simp] theorem setWave_queues (s : State) (k : Nat) (x : Wave) : (State.queues (setWave s k x)) = s.queues := rfl
@[simp] theorem setWave_resvs (s : State) (k : Nat) (x : Wave) : (State.resvs (setWave s k x)) = s.resvs := rfl
@[simp] theorem setWave_pending (s : State) (k : Nat) (x : Wave) : (State.pending (setWave s k x)) = s.pending := rfl
@[simp] theorem setWave_tasks (s : State) (k : Nat) (x : Wave) : (State.tasks (setWave s k x)) = s.tasks := rfl
@[simp] theorem setWave_conts (s : State) (k : Nat) (x : Wave) : (State.conts (setWave s k x)) = s.conts := rfl
@[simp] theorem setWave_varsels (s : State) (k : Nat) (x : Wave) : (State.varsels (setWave s k x)) = s.varsels := rfl
@[simp] theorem setWave_preempts (s : State) (k : Nat) (x : Wave) : (State.preempts (setWave s k x)) = s.preempts := rfl
@[simp] theorem setWave_gbars (s : State) (k : Nat) (x : Wave) : (State.gbars (setWave s k x)) = s.gbars := rfl
@[simp] theorem setWave_flt (s : State) (k : Nat) (x : Wave) : (State.flt (setWave s k x)) = s.flt := rfl

@[simp] theorem modWave_agenda (s : State) (k : Nat) (f : Wave → Wave) : (State.agenda (modWave s k f)) = s.agenda := rfl
@[simp] theorem modWave_cur (s : State) (k : Nat) (f : Wave → Wave) : (State.cur (modWave s k f)) = s.cur := rfl
@[simp] theorem modWave_free (s : State) (k : Nat) (f : Wave → Wave) : (State.free (modWave s k f)) = s.free := rfl
@[simp] theorem modWave_nextWave (s : State) (k : Nat) (f : Wave → Wave) : (State.nextWave (modWave s k f)) = s.nextWave := rfl
@[simp] theorem modWave_nextWg (s : State) (k : Nat) (f : Wave → Wave) : (State.nextWg (modWave s k f)) = s.nextWg := rfl
@[simp] theorem modWave_nextTask (s : State) (k : Nat) (f : Wave → Wave) : (State.nextTask (modWave s k f)) = s.nextTask := rfl
@[simp] theorem modWave_nextReq (s : State) (k : Nat) (f : Wave → Wave) : (State.nextReq (modWave s k f)) = s.nextReq := rfl
@[simp] theorem modWave_time (s : State) (k : Nat) (f : Wave → Wave) : (State.time (modWave s k f)) = s.time := rfl
@[simp] theorem modWave_mods (s : State) (k : Nat) (f : Wave → Wave) : (State.mods (modWave s k f)) = s.mods := rfl
@[simp] theorem modWave_nodes (s : State) (k : Nat) (f : Wave → Wave) : (State.nodes (modWave s k f)) = s.nodes := rfl
@[simp] theorem modWave_wdies (s : State) (k : Nat) (f : Wave → Wave) : (State.wdies (modWave s k f)) = s.wdies := rfl
@[simp] theorem modWave_secure (s : State) (k : Nat) (f : Wave → Wave) : (State.secure (modWave s k f)) = s.secure := rfl
@[simp] theorem modWave_funcs (s : State) (k : Nat) (f : Wave → Wave) : (State.funcs (modWave s k f)) = s.funcs := rfl
@[simp] theorem modWave_winErr (s : State) (k : Nat) (f : Wave → Wave) : (State.winErr (modWave s k f)) = s.winErr := rfl
@[simp] theorem modWave_ctxs (s : State) (k : Nat) (f : Wave → Wave) : (State.ctxs (modWave s k f)) = s.ctxs := rfl
@[simp] theorem modWave_keys (s : State) (k : Nat) (f : Wave → Wave) : (State.keys (modWave s k f)) = s.keys := rfl
@[simp] theorem modWave_msix (s : State) (k : Nat) (f : Wave → Wave) : (State.msix (modWave s k f)) = s.msix := rfl
@[simp] theorem modWave_hostData (s : State) (k : Nat) (f : Wave → Wave) : (State.hostData (modWave s k f)) = s.hostData := rfl
@[simp] theorem modWave_crs (s : State) (k : Nat) (f : Wave → Wave) : (State.crs (modWave s k f)) = s.crs := rfl
@[simp] theorem modWave_mem (s : State) (k : Nat) (f : Wave → Wave) : (State.mem (modWave s k f)) = s.mem := rfl
@[simp] theorem modWave_memKey (s : State) (k : Nat) (f : Wave → Wave) : (State.memKey (modWave s k f)) = s.memKey := rfl
@[simp] theorem modWave_words (s : State) (k : Nat) (f : Wave → Wave) : (State.words (modWave s k f)) = s.words := rfl
@[simp] theorem modWave_eccFound (s : State) (k : Nat) (f : Wave → Wave) : (State.eccFound (modWave s k f)) = s.eccFound := rfl
@[simp] theorem modWave_llc (s : State) (k : Nat) (f : Wave → Wave) : (State.llc (modWave s k f)) = s.llc := rfl
@[simp] theorem modWave_l2 (s : State) (k : Nat) (f : Wave → Wave) : (State.l2 (modWave s k f)) = s.l2 := rfl
@[simp] theorem modWave_l1 (s : State) (k : Nat) (f : Wave → Wave) : (State.l1 (modWave s k f)) = s.l1 := rfl
@[simp] theorem modWave_icache (s : State) (k : Nat) (f : Wave → Wave) : (State.icache (modWave s k f)) = s.icache := rfl
@[simp] theorem modWave_regions (s : State) (k : Nat) (f : Wave → Wave) : (State.regions (modWave s k f)) = s.regions := rfl
@[simp] theorem modWave_proxies (s : State) (k : Nat) (f : Wave → Wave) : (State.proxies (modWave s k f)) = s.proxies := rfl
@[simp] theorem modWave_rels (s : State) (k : Nat) (f : Wave → Wave) : (State.rels (modWave s k f)) = s.rels := rfl
@[simp] theorem modWave_tokens (s : State) (k : Nat) (f : Wave → Wave) : (State.tokens (modWave s k f)) = s.tokens := rfl
@[simp] theorem modWave_watches (s : State) (k : Nat) (f : Wave → Wave) : (State.watches (modWave s k f)) = s.watches := rfl
@[simp] theorem modWave_drains (s : State) (k : Nat) (f : Wave → Wave) : (State.drains (modWave s k f)) = s.drains := rfl
@[simp] theorem modWave_net (s : State) (k : Nat) (f : Wave → Wave) : (State.net (modWave s k f)) = s.net := rfl
@[simp] theorem modWave_rehome (s : State) (k : Nat) (f : Wave → Wave) : (State.rehome (modWave s k f)) = s.rehome := rfl
@[simp] theorem modWave_tlb (s : State) (k : Nat) (f : Wave → Wave) : (State.tlb (modWave s k f)) = s.tlb := rfl
@[simp] theorem modWave_walks (s : State) (k : Nat) (f : Wave → Wave) : (State.walks (modWave s k f)) = s.walks := rfl
@[simp] theorem modWave_perms (s : State) (k : Nat) (f : Wave → Wave) : (State.perms (modWave s k f)) = s.perms := rfl
@[simp] theorem modWave_grants (s : State) (k : Nat) (f : Wave → Wave) : (State.grants (modWave s k f)) = s.grants := rfl
@[simp] theorem modWave_grantWaits (s : State) (k : Nat) (f : Wave → Wave) : (State.grantWaits (modWave s k f)) = s.grantWaits := rfl
@[simp] theorem modWave_atinvs (s : State) (k : Nat) (f : Wave → Wave) : (State.atinvs (modWave s k f)) = s.atinvs := rfl
@[simp] theorem modWave_arot (s : State) (k : Nat) (f : Wave → Wave) : (State.arot (modWave s k f)) = s.arot := rfl
@[simp] theorem modWave_wgs (s : State) (k : Nat) (f : Wave → Wave) : (State.wgs (modWave s k f)) = s.wgs := rfl
@[simp] theorem modWave_cores (s : State) (k : Nat) (f : Wave → Wave) : (State.cores (modWave s k f)) = s.cores := rfl
@[simp] theorem modWave_queues (s : State) (k : Nat) (f : Wave → Wave) : (State.queues (modWave s k f)) = s.queues := rfl
@[simp] theorem modWave_resvs (s : State) (k : Nat) (f : Wave → Wave) : (State.resvs (modWave s k f)) = s.resvs := rfl
@[simp] theorem modWave_pending (s : State) (k : Nat) (f : Wave → Wave) : (State.pending (modWave s k f)) = s.pending := rfl
@[simp] theorem modWave_tasks (s : State) (k : Nat) (f : Wave → Wave) : (State.tasks (modWave s k f)) = s.tasks := rfl
@[simp] theorem modWave_conts (s : State) (k : Nat) (f : Wave → Wave) : (State.conts (modWave s k f)) = s.conts := rfl
@[simp] theorem modWave_varsels (s : State) (k : Nat) (f : Wave → Wave) : (State.varsels (modWave s k f)) = s.varsels := rfl
@[simp] theorem modWave_preempts (s : State) (k : Nat) (f : Wave → Wave) : (State.preempts (modWave s k f)) = s.preempts := rfl
@[simp] theorem modWave_gbars (s : State) (k : Nat) (f : Wave → Wave) : (State.gbars (modWave s k f)) = s.gbars := rfl
@[simp] theorem modWave_flt (s : State) (k : Nat) (f : Wave → Wave) : (State.flt (modWave s k f)) = s.flt := rfl

@[simp] theorem setWg_agenda (s : State) (k : Nat) (x : Workgroup) : (State.agenda (setWg s k x)) = s.agenda := rfl
@[simp] theorem setWg_cur (s : State) (k : Nat) (x : Workgroup) : (State.cur (setWg s k x)) = s.cur := rfl
@[simp] theorem setWg_free (s : State) (k : Nat) (x : Workgroup) : (State.free (setWg s k x)) = s.free := rfl
@[simp] theorem setWg_nextWave (s : State) (k : Nat) (x : Workgroup) : (State.nextWave (setWg s k x)) = s.nextWave := rfl
@[simp] theorem setWg_nextWg (s : State) (k : Nat) (x : Workgroup) : (State.nextWg (setWg s k x)) = s.nextWg := rfl
@[simp] theorem setWg_nextTask (s : State) (k : Nat) (x : Workgroup) : (State.nextTask (setWg s k x)) = s.nextTask := rfl
@[simp] theorem setWg_nextReq (s : State) (k : Nat) (x : Workgroup) : (State.nextReq (setWg s k x)) = s.nextReq := rfl
@[simp] theorem setWg_time (s : State) (k : Nat) (x : Workgroup) : (State.time (setWg s k x)) = s.time := rfl
@[simp] theorem setWg_mods (s : State) (k : Nat) (x : Workgroup) : (State.mods (setWg s k x)) = s.mods := rfl
@[simp] theorem setWg_nodes (s : State) (k : Nat) (x : Workgroup) : (State.nodes (setWg s k x)) = s.nodes := rfl
@[simp] theorem setWg_wdies (s : State) (k : Nat) (x : Workgroup) : (State.wdies (setWg s k x)) = s.wdies := rfl
@[simp] theorem setWg_secure (s : State) (k : Nat) (x : Workgroup) : (State.secure (setWg s k x)) = s.secure := rfl
@[simp] theorem setWg_funcs (s : State) (k : Nat) (x : Workgroup) : (State.funcs (setWg s k x)) = s.funcs := rfl
@[simp] theorem setWg_winErr (s : State) (k : Nat) (x : Workgroup) : (State.winErr (setWg s k x)) = s.winErr := rfl
@[simp] theorem setWg_ctxs (s : State) (k : Nat) (x : Workgroup) : (State.ctxs (setWg s k x)) = s.ctxs := rfl
@[simp] theorem setWg_keys (s : State) (k : Nat) (x : Workgroup) : (State.keys (setWg s k x)) = s.keys := rfl
@[simp] theorem setWg_msix (s : State) (k : Nat) (x : Workgroup) : (State.msix (setWg s k x)) = s.msix := rfl
@[simp] theorem setWg_hostData (s : State) (k : Nat) (x : Workgroup) : (State.hostData (setWg s k x)) = s.hostData := rfl
@[simp] theorem setWg_crs (s : State) (k : Nat) (x : Workgroup) : (State.crs (setWg s k x)) = s.crs := rfl
@[simp] theorem setWg_mem (s : State) (k : Nat) (x : Workgroup) : (State.mem (setWg s k x)) = s.mem := rfl
@[simp] theorem setWg_memKey (s : State) (k : Nat) (x : Workgroup) : (State.memKey (setWg s k x)) = s.memKey := rfl
@[simp] theorem setWg_words (s : State) (k : Nat) (x : Workgroup) : (State.words (setWg s k x)) = s.words := rfl
@[simp] theorem setWg_eccFound (s : State) (k : Nat) (x : Workgroup) : (State.eccFound (setWg s k x)) = s.eccFound := rfl
@[simp] theorem setWg_llc (s : State) (k : Nat) (x : Workgroup) : (State.llc (setWg s k x)) = s.llc := rfl
@[simp] theorem setWg_l2 (s : State) (k : Nat) (x : Workgroup) : (State.l2 (setWg s k x)) = s.l2 := rfl
@[simp] theorem setWg_l1 (s : State) (k : Nat) (x : Workgroup) : (State.l1 (setWg s k x)) = s.l1 := rfl
@[simp] theorem setWg_icache (s : State) (k : Nat) (x : Workgroup) : (State.icache (setWg s k x)) = s.icache := rfl
@[simp] theorem setWg_regions (s : State) (k : Nat) (x : Workgroup) : (State.regions (setWg s k x)) = s.regions := rfl
@[simp] theorem setWg_proxies (s : State) (k : Nat) (x : Workgroup) : (State.proxies (setWg s k x)) = s.proxies := rfl
@[simp] theorem setWg_rels (s : State) (k : Nat) (x : Workgroup) : (State.rels (setWg s k x)) = s.rels := rfl
@[simp] theorem setWg_tokens (s : State) (k : Nat) (x : Workgroup) : (State.tokens (setWg s k x)) = s.tokens := rfl
@[simp] theorem setWg_watches (s : State) (k : Nat) (x : Workgroup) : (State.watches (setWg s k x)) = s.watches := rfl
@[simp] theorem setWg_drains (s : State) (k : Nat) (x : Workgroup) : (State.drains (setWg s k x)) = s.drains := rfl
@[simp] theorem setWg_net (s : State) (k : Nat) (x : Workgroup) : (State.net (setWg s k x)) = s.net := rfl
@[simp] theorem setWg_rehome (s : State) (k : Nat) (x : Workgroup) : (State.rehome (setWg s k x)) = s.rehome := rfl
@[simp] theorem setWg_tlb (s : State) (k : Nat) (x : Workgroup) : (State.tlb (setWg s k x)) = s.tlb := rfl
@[simp] theorem setWg_walks (s : State) (k : Nat) (x : Workgroup) : (State.walks (setWg s k x)) = s.walks := rfl
@[simp] theorem setWg_perms (s : State) (k : Nat) (x : Workgroup) : (State.perms (setWg s k x)) = s.perms := rfl
@[simp] theorem setWg_grants (s : State) (k : Nat) (x : Workgroup) : (State.grants (setWg s k x)) = s.grants := rfl
@[simp] theorem setWg_grantWaits (s : State) (k : Nat) (x : Workgroup) : (State.grantWaits (setWg s k x)) = s.grantWaits := rfl
@[simp] theorem setWg_atinvs (s : State) (k : Nat) (x : Workgroup) : (State.atinvs (setWg s k x)) = s.atinvs := rfl
@[simp] theorem setWg_arot (s : State) (k : Nat) (x : Workgroup) : (State.arot (setWg s k x)) = s.arot := rfl
@[simp] theorem setWg_waves (s : State) (k : Nat) (x : Workgroup) : (State.waves (setWg s k x)) = s.waves := rfl
@[simp] theorem setWg_cores (s : State) (k : Nat) (x : Workgroup) : (State.cores (setWg s k x)) = s.cores := rfl
@[simp] theorem setWg_queues (s : State) (k : Nat) (x : Workgroup) : (State.queues (setWg s k x)) = s.queues := rfl
@[simp] theorem setWg_resvs (s : State) (k : Nat) (x : Workgroup) : (State.resvs (setWg s k x)) = s.resvs := rfl
@[simp] theorem setWg_pending (s : State) (k : Nat) (x : Workgroup) : (State.pending (setWg s k x)) = s.pending := rfl
@[simp] theorem setWg_tasks (s : State) (k : Nat) (x : Workgroup) : (State.tasks (setWg s k x)) = s.tasks := rfl
@[simp] theorem setWg_conts (s : State) (k : Nat) (x : Workgroup) : (State.conts (setWg s k x)) = s.conts := rfl
@[simp] theorem setWg_varsels (s : State) (k : Nat) (x : Workgroup) : (State.varsels (setWg s k x)) = s.varsels := rfl
@[simp] theorem setWg_preempts (s : State) (k : Nat) (x : Workgroup) : (State.preempts (setWg s k x)) = s.preempts := rfl
@[simp] theorem setWg_gbars (s : State) (k : Nat) (x : Workgroup) : (State.gbars (setWg s k x)) = s.gbars := rfl
@[simp] theorem setWg_flt (s : State) (k : Nat) (x : Workgroup) : (State.flt (setWg s k x)) = s.flt := rfl

@[simp] theorem setTask_agenda (s : State) (k : Nat) (x : Task) : (State.agenda (setTask s k x)) = s.agenda := rfl
@[simp] theorem setTask_cur (s : State) (k : Nat) (x : Task) : (State.cur (setTask s k x)) = s.cur := rfl
@[simp] theorem setTask_free (s : State) (k : Nat) (x : Task) : (State.free (setTask s k x)) = s.free := rfl
@[simp] theorem setTask_nextWave (s : State) (k : Nat) (x : Task) : (State.nextWave (setTask s k x)) = s.nextWave := rfl
@[simp] theorem setTask_nextWg (s : State) (k : Nat) (x : Task) : (State.nextWg (setTask s k x)) = s.nextWg := rfl
@[simp] theorem setTask_nextTask (s : State) (k : Nat) (x : Task) : (State.nextTask (setTask s k x)) = s.nextTask := rfl
@[simp] theorem setTask_nextReq (s : State) (k : Nat) (x : Task) : (State.nextReq (setTask s k x)) = s.nextReq := rfl
@[simp] theorem setTask_time (s : State) (k : Nat) (x : Task) : (State.time (setTask s k x)) = s.time := rfl
@[simp] theorem setTask_mods (s : State) (k : Nat) (x : Task) : (State.mods (setTask s k x)) = s.mods := rfl
@[simp] theorem setTask_nodes (s : State) (k : Nat) (x : Task) : (State.nodes (setTask s k x)) = s.nodes := rfl
@[simp] theorem setTask_wdies (s : State) (k : Nat) (x : Task) : (State.wdies (setTask s k x)) = s.wdies := rfl
@[simp] theorem setTask_secure (s : State) (k : Nat) (x : Task) : (State.secure (setTask s k x)) = s.secure := rfl
@[simp] theorem setTask_funcs (s : State) (k : Nat) (x : Task) : (State.funcs (setTask s k x)) = s.funcs := rfl
@[simp] theorem setTask_winErr (s : State) (k : Nat) (x : Task) : (State.winErr (setTask s k x)) = s.winErr := rfl
@[simp] theorem setTask_ctxs (s : State) (k : Nat) (x : Task) : (State.ctxs (setTask s k x)) = s.ctxs := rfl
@[simp] theorem setTask_keys (s : State) (k : Nat) (x : Task) : (State.keys (setTask s k x)) = s.keys := rfl
@[simp] theorem setTask_msix (s : State) (k : Nat) (x : Task) : (State.msix (setTask s k x)) = s.msix := rfl
@[simp] theorem setTask_hostData (s : State) (k : Nat) (x : Task) : (State.hostData (setTask s k x)) = s.hostData := rfl
@[simp] theorem setTask_crs (s : State) (k : Nat) (x : Task) : (State.crs (setTask s k x)) = s.crs := rfl
@[simp] theorem setTask_mem (s : State) (k : Nat) (x : Task) : (State.mem (setTask s k x)) = s.mem := rfl
@[simp] theorem setTask_memKey (s : State) (k : Nat) (x : Task) : (State.memKey (setTask s k x)) = s.memKey := rfl
@[simp] theorem setTask_words (s : State) (k : Nat) (x : Task) : (State.words (setTask s k x)) = s.words := rfl
@[simp] theorem setTask_eccFound (s : State) (k : Nat) (x : Task) : (State.eccFound (setTask s k x)) = s.eccFound := rfl
@[simp] theorem setTask_llc (s : State) (k : Nat) (x : Task) : (State.llc (setTask s k x)) = s.llc := rfl
@[simp] theorem setTask_l2 (s : State) (k : Nat) (x : Task) : (State.l2 (setTask s k x)) = s.l2 := rfl
@[simp] theorem setTask_l1 (s : State) (k : Nat) (x : Task) : (State.l1 (setTask s k x)) = s.l1 := rfl
@[simp] theorem setTask_icache (s : State) (k : Nat) (x : Task) : (State.icache (setTask s k x)) = s.icache := rfl
@[simp] theorem setTask_regions (s : State) (k : Nat) (x : Task) : (State.regions (setTask s k x)) = s.regions := rfl
@[simp] theorem setTask_proxies (s : State) (k : Nat) (x : Task) : (State.proxies (setTask s k x)) = s.proxies := rfl
@[simp] theorem setTask_rels (s : State) (k : Nat) (x : Task) : (State.rels (setTask s k x)) = s.rels := rfl
@[simp] theorem setTask_tokens (s : State) (k : Nat) (x : Task) : (State.tokens (setTask s k x)) = s.tokens := rfl
@[simp] theorem setTask_watches (s : State) (k : Nat) (x : Task) : (State.watches (setTask s k x)) = s.watches := rfl
@[simp] theorem setTask_drains (s : State) (k : Nat) (x : Task) : (State.drains (setTask s k x)) = s.drains := rfl
@[simp] theorem setTask_net (s : State) (k : Nat) (x : Task) : (State.net (setTask s k x)) = s.net := rfl
@[simp] theorem setTask_rehome (s : State) (k : Nat) (x : Task) : (State.rehome (setTask s k x)) = s.rehome := rfl
@[simp] theorem setTask_tlb (s : State) (k : Nat) (x : Task) : (State.tlb (setTask s k x)) = s.tlb := rfl
@[simp] theorem setTask_walks (s : State) (k : Nat) (x : Task) : (State.walks (setTask s k x)) = s.walks := rfl
@[simp] theorem setTask_perms (s : State) (k : Nat) (x : Task) : (State.perms (setTask s k x)) = s.perms := rfl
@[simp] theorem setTask_grants (s : State) (k : Nat) (x : Task) : (State.grants (setTask s k x)) = s.grants := rfl
@[simp] theorem setTask_grantWaits (s : State) (k : Nat) (x : Task) : (State.grantWaits (setTask s k x)) = s.grantWaits := rfl
@[simp] theorem setTask_atinvs (s : State) (k : Nat) (x : Task) : (State.atinvs (setTask s k x)) = s.atinvs := rfl
@[simp] theorem setTask_arot (s : State) (k : Nat) (x : Task) : (State.arot (setTask s k x)) = s.arot := rfl
@[simp] theorem setTask_waves (s : State) (k : Nat) (x : Task) : (State.waves (setTask s k x)) = s.waves := rfl
@[simp] theorem setTask_wgs (s : State) (k : Nat) (x : Task) : (State.wgs (setTask s k x)) = s.wgs := rfl
@[simp] theorem setTask_cores (s : State) (k : Nat) (x : Task) : (State.cores (setTask s k x)) = s.cores := rfl
@[simp] theorem setTask_queues (s : State) (k : Nat) (x : Task) : (State.queues (setTask s k x)) = s.queues := rfl
@[simp] theorem setTask_resvs (s : State) (k : Nat) (x : Task) : (State.resvs (setTask s k x)) = s.resvs := rfl
@[simp] theorem setTask_pending (s : State) (k : Nat) (x : Task) : (State.pending (setTask s k x)) = s.pending := rfl
@[simp] theorem setTask_conts (s : State) (k : Nat) (x : Task) : (State.conts (setTask s k x)) = s.conts := rfl
@[simp] theorem setTask_varsels (s : State) (k : Nat) (x : Task) : (State.varsels (setTask s k x)) = s.varsels := rfl
@[simp] theorem setTask_preempts (s : State) (k : Nat) (x : Task) : (State.preempts (setTask s k x)) = s.preempts := rfl
@[simp] theorem setTask_gbars (s : State) (k : Nat) (x : Task) : (State.gbars (setTask s k x)) = s.gbars := rfl
@[simp] theorem setTask_flt (s : State) (k : Nat) (x : Task) : (State.flt (setTask s k x)) = s.flt := rfl

@[simp] theorem modMods_agenda (s : State) (f : ModSt → ModSt) : (State.agenda (modMods s f)) = s.agenda := rfl
@[simp] theorem modMods_cur (s : State) (f : ModSt → ModSt) : (State.cur (modMods s f)) = s.cur := rfl
@[simp] theorem modMods_free (s : State) (f : ModSt → ModSt) : (State.free (modMods s f)) = s.free := rfl
@[simp] theorem modMods_nextWave (s : State) (f : ModSt → ModSt) : (State.nextWave (modMods s f)) = s.nextWave := rfl
@[simp] theorem modMods_nextWg (s : State) (f : ModSt → ModSt) : (State.nextWg (modMods s f)) = s.nextWg := rfl
@[simp] theorem modMods_nextTask (s : State) (f : ModSt → ModSt) : (State.nextTask (modMods s f)) = s.nextTask := rfl
@[simp] theorem modMods_nextReq (s : State) (f : ModSt → ModSt) : (State.nextReq (modMods s f)) = s.nextReq := rfl
@[simp] theorem modMods_time (s : State) (f : ModSt → ModSt) : (State.time (modMods s f)) = s.time := rfl
@[simp] theorem modMods_nodes (s : State) (f : ModSt → ModSt) : (State.nodes (modMods s f)) = s.nodes := rfl
@[simp] theorem modMods_wdies (s : State) (f : ModSt → ModSt) : (State.wdies (modMods s f)) = s.wdies := rfl
@[simp] theorem modMods_secure (s : State) (f : ModSt → ModSt) : (State.secure (modMods s f)) = s.secure := rfl
@[simp] theorem modMods_funcs (s : State) (f : ModSt → ModSt) : (State.funcs (modMods s f)) = s.funcs := rfl
@[simp] theorem modMods_winErr (s : State) (f : ModSt → ModSt) : (State.winErr (modMods s f)) = s.winErr := rfl
@[simp] theorem modMods_ctxs (s : State) (f : ModSt → ModSt) : (State.ctxs (modMods s f)) = s.ctxs := rfl
@[simp] theorem modMods_keys (s : State) (f : ModSt → ModSt) : (State.keys (modMods s f)) = s.keys := rfl
@[simp] theorem modMods_msix (s : State) (f : ModSt → ModSt) : (State.msix (modMods s f)) = s.msix := rfl
@[simp] theorem modMods_hostData (s : State) (f : ModSt → ModSt) : (State.hostData (modMods s f)) = s.hostData := rfl
@[simp] theorem modMods_crs (s : State) (f : ModSt → ModSt) : (State.crs (modMods s f)) = s.crs := rfl
@[simp] theorem modMods_mem (s : State) (f : ModSt → ModSt) : (State.mem (modMods s f)) = s.mem := rfl
@[simp] theorem modMods_memKey (s : State) (f : ModSt → ModSt) : (State.memKey (modMods s f)) = s.memKey := rfl
@[simp] theorem modMods_words (s : State) (f : ModSt → ModSt) : (State.words (modMods s f)) = s.words := rfl
@[simp] theorem modMods_eccFound (s : State) (f : ModSt → ModSt) : (State.eccFound (modMods s f)) = s.eccFound := rfl
@[simp] theorem modMods_llc (s : State) (f : ModSt → ModSt) : (State.llc (modMods s f)) = s.llc := rfl
@[simp] theorem modMods_l2 (s : State) (f : ModSt → ModSt) : (State.l2 (modMods s f)) = s.l2 := rfl
@[simp] theorem modMods_l1 (s : State) (f : ModSt → ModSt) : (State.l1 (modMods s f)) = s.l1 := rfl
@[simp] theorem modMods_icache (s : State) (f : ModSt → ModSt) : (State.icache (modMods s f)) = s.icache := rfl
@[simp] theorem modMods_regions (s : State) (f : ModSt → ModSt) : (State.regions (modMods s f)) = s.regions := rfl
@[simp] theorem modMods_proxies (s : State) (f : ModSt → ModSt) : (State.proxies (modMods s f)) = s.proxies := rfl
@[simp] theorem modMods_rels (s : State) (f : ModSt → ModSt) : (State.rels (modMods s f)) = s.rels := rfl
@[simp] theorem modMods_tokens (s : State) (f : ModSt → ModSt) : (State.tokens (modMods s f)) = s.tokens := rfl
@[simp] theorem modMods_watches (s : State) (f : ModSt → ModSt) : (State.watches (modMods s f)) = s.watches := rfl
@[simp] theorem modMods_drains (s : State) (f : ModSt → ModSt) : (State.drains (modMods s f)) = s.drains := rfl
@[simp] theorem modMods_net (s : State) (f : ModSt → ModSt) : (State.net (modMods s f)) = s.net := rfl
@[simp] theorem modMods_rehome (s : State) (f : ModSt → ModSt) : (State.rehome (modMods s f)) = s.rehome := rfl
@[simp] theorem modMods_tlb (s : State) (f : ModSt → ModSt) : (State.tlb (modMods s f)) = s.tlb := rfl
@[simp] theorem modMods_walks (s : State) (f : ModSt → ModSt) : (State.walks (modMods s f)) = s.walks := rfl
@[simp] theorem modMods_perms (s : State) (f : ModSt → ModSt) : (State.perms (modMods s f)) = s.perms := rfl
@[simp] theorem modMods_grants (s : State) (f : ModSt → ModSt) : (State.grants (modMods s f)) = s.grants := rfl
@[simp] theorem modMods_grantWaits (s : State) (f : ModSt → ModSt) : (State.grantWaits (modMods s f)) = s.grantWaits := rfl
@[simp] theorem modMods_atinvs (s : State) (f : ModSt → ModSt) : (State.atinvs (modMods s f)) = s.atinvs := rfl
@[simp] theorem modMods_arot (s : State) (f : ModSt → ModSt) : (State.arot (modMods s f)) = s.arot := rfl
@[simp] theorem modMods_waves (s : State) (f : ModSt → ModSt) : (State.waves (modMods s f)) = s.waves := rfl
@[simp] theorem modMods_wgs (s : State) (f : ModSt → ModSt) : (State.wgs (modMods s f)) = s.wgs := rfl
@[simp] theorem modMods_cores (s : State) (f : ModSt → ModSt) : (State.cores (modMods s f)) = s.cores := rfl
@[simp] theorem modMods_queues (s : State) (f : ModSt → ModSt) : (State.queues (modMods s f)) = s.queues := rfl
@[simp] theorem modMods_resvs (s : State) (f : ModSt → ModSt) : (State.resvs (modMods s f)) = s.resvs := rfl
@[simp] theorem modMods_pending (s : State) (f : ModSt → ModSt) : (State.pending (modMods s f)) = s.pending := rfl
@[simp] theorem modMods_tasks (s : State) (f : ModSt → ModSt) : (State.tasks (modMods s f)) = s.tasks := rfl
@[simp] theorem modMods_conts (s : State) (f : ModSt → ModSt) : (State.conts (modMods s f)) = s.conts := rfl
@[simp] theorem modMods_varsels (s : State) (f : ModSt → ModSt) : (State.varsels (modMods s f)) = s.varsels := rfl
@[simp] theorem modMods_preempts (s : State) (f : ModSt → ModSt) : (State.preempts (modMods s f)) = s.preempts := rfl
@[simp] theorem modMods_gbars (s : State) (f : ModSt → ModSt) : (State.gbars (modMods s f)) = s.gbars := rfl
@[simp] theorem modMods_flt (s : State) (f : ModSt → ModSt) : (State.flt (modMods s f)) = s.flt := rfl

/-! ## What an entry is after an update -/

@[simp] theorem getNode_setNode (s : State) (k : Nat) (x : NodeSt) : getNode (setNode s k x) k = x := by simp [getNode, setNode]
theorem getNode_setNode_ne (s : State) {k j : Nat} (x : NodeSt) (h : k ≠ j) : getNode (setNode s k x) j = getNode s j := by
  simp [getNode, setNode, Tab.get_set, h]
@[simp] theorem getCtx_setCtx (s : State) (k : Nat) (x : Ctx) : getCtx (setCtx s k x) k = x := by simp [getCtx, setCtx]
theorem getCtx_setCtx_ne (s : State) {k j : Nat} (x : Ctx) (h : k ≠ j) : getCtx (setCtx s k x) j = getCtx s j := by
  simp [getCtx, setCtx, Tab.get_set, h]
@[simp] theorem getCore_setCore (s : State) (k : Nat) (x : Core) : getCore (setCore s k x) k = x := by simp [getCore, setCore]
theorem getCore_setCore_ne (s : State) {k j : Nat} (x : Core) (h : k ≠ j) : getCore (setCore s k x) j = getCore s j := by
  simp [getCore, setCore, Tab.get_set, h]
@[simp] theorem getNode_modNode (s : State) (k : Nat) (f : NodeSt → NodeSt) : getNode (modNode s k f) k = f (getNode s k) := by
  simp [getNode, modNode, setNode]
theorem getNode_modNode_ne (s : State) {k j : Nat} (f : NodeSt → NodeSt) (h : k ≠ j) : getNode (modNode s k f) j = getNode s j := by
  simp [getNode, modNode, setNode, Tab.get_set, h]
@[simp] theorem getCtx_modCtx (s : State) (k : Nat) (f : Ctx → Ctx) : getCtx (modCtx s k f) k = f (getCtx s k) := by
  simp [getCtx, modCtx, setCtx]
theorem getCtx_modCtx_ne (s : State) {k j : Nat} (f : Ctx → Ctx) (h : k ≠ j) : getCtx (modCtx s k f) j = getCtx s j := by
  simp [getCtx, modCtx, setCtx, Tab.get_set, h]
@[simp] theorem getCore_modCore (s : State) (k : Nat) (f : Core → Core) : getCore (modCore s k f) k = f (getCore s k) := by
  simp [getCore, modCore, setCore]
theorem getCore_modCore_ne (s : State) {k j : Nat} (f : Core → Core) (h : k ≠ j) : getCore (modCore s k f) j = getCore s j := by
  simp [getCore, modCore, setCore, Tab.get_set, h]
@[simp] theorem getKey_modKey (s : State) (k : Nat) (f : KeySlot → KeySlot) : getKey (modKey s k f) k = f (getKey s k) := by
  simp [getKey, modKey]
theorem getKey_modKey_ne (s : State) {k j : Nat} (f : KeySlot → KeySlot) (h : k ≠ j) : getKey (modKey s k f) j = getKey s j := by
  simp [getKey, modKey, Tab.get_set, h]
@[simp] theorem getFunc_modFunc (s : State) (k : Nat) (f : Func → Func) : getFunc (modFunc s k f) k = f (getFunc s k) := by
  simp [getFunc, modFunc]
theorem getFunc_modFunc_ne (s : State) {k j : Nat} (f : Func → Func) (h : k ≠ j) : getFunc (modFunc s k f) j = getFunc s j := by
  simp [getFunc, modFunc, Tab.get_set, h]
@[simp] theorem getWdie_modWdie (s : State) (k : Nat) (f : WDie → WDie) : getWdie (modWdie s k f) k = f (getWdie s k) := by
  simp [getWdie, modWdie]
theorem getWdie_modWdie_ne (s : State) {k j : Nat} (f : WDie → WDie) (h : k ≠ j) : getWdie (modWdie s k f) j = getWdie s j := by
  simp [getWdie, modWdie, Tab.get_set, h]
@[simp] theorem getQidx_modQidx (s : State) (k : Nat) (f : QIdx → QIdx) : getQidx (modQidx s k f) k = f (getQidx s k) := by
  simp [getQidx, modQidx]
theorem getQidx_modQidx_ne (s : State) {k j : Nat} (f : QIdx → QIdx) (h : k ≠ j) : getQidx (modQidx s k f) j = getQidx s j := by
  simp [getQidx, modQidx, Tab.get_set, h]
@[simp] theorem getWave_setWave (s : State) (k : Nat) (x : Wave) : getWave (setWave s k x) k = x := by
  simp [getWave, setWave]
theorem getWave_setWave_ne (s : State) {k j : Nat} (x : Wave) (h : k ≠ j) : getWave (setWave s k x) j = getWave s j := by
  simp [getWave, setWave, Tab.find_put, h]
@[simp] theorem getWave_modWave (s : State) (k : Nat) (f : Wave → Wave) : getWave (modWave s k f) k = f (getWave s k) := by
  simp [modWave]
theorem getWave_modWave_ne (s : State) {k j : Nat} (f : Wave → Wave) (h : k ≠ j) :
    getWave (modWave s k f) j = getWave s j := by simp [modWave, getWave_setWave_ne, h]
@[simp] theorem getWg_setWg (s : State) (k : Nat) (x : Workgroup) : getWg (setWg s k x) k = some x := by
  simp [getWg, setWg]
theorem getWg_setWg_ne (s : State) {k j : Nat} (x : Workgroup) (h : k ≠ j) : getWg (setWg s k x) j = getWg s j := by
  simp [getWg, setWg, Tab.find_put, h]
@[simp] theorem getTask_setTask (s : State) (k : Nat) (x : Task) : getTask (setTask s k x) k = some x := by
  simp [getTask, setTask]
theorem getTask_setTask_ne (s : State) {k j : Nat} (x : Task) (h : k ≠ j) :
    getTask (setTask s k x) j = getTask s j := by simp [getTask, setTask, Tab.find_put, h]

/-! ## Entries of the other tables -/

@[simp] theorem getNode_setCtx_other (s : State) (k : Nat) (x : Ctx) (j : Nat) : getNode (setCtx s k x) j = getNode s j := rfl
@[simp] theorem getNode_modCtx_other (s : State) (k : Nat) (f : Ctx → Ctx) (j : Nat) : getNode (modCtx s k f) j = getNode s j := rfl
@[simp] theorem getNode_modKey_other (s : State) (k : Nat) (f : KeySlot → KeySlot) (j : Nat) : getNode (modKey s k f) j = getNode s j := rfl
@[simp] theorem getNode_modFunc_other (s : State) (k : Nat) (f : Func → Func) (j : Nat) : getNode (modFunc s k f) j = getNode s j := rfl
@[simp] theorem getNode_modWdie_other (s : State) (k : Nat) (f : WDie → WDie) (j : Nat) : getNode (modWdie s k f) j = getNode s j := rfl
@[simp] theorem getNode_modQidx_other (s : State) (k : Nat) (f : QIdx → QIdx) (j : Nat) : getNode (modQidx s k f) j = getNode s j := rfl
@[simp] theorem getNode_setCore_other (s : State) (k : Nat) (x : Core) (j : Nat) : getNode (setCore s k x) j = getNode s j := rfl
@[simp] theorem getNode_modCore_other (s : State) (k : Nat) (f : Core → Core) (j : Nat) : getNode (modCore s k f) j = getNode s j := rfl
@[simp] theorem getNode_setWave_other (s : State) (k : Nat) (x : Wave) (j : Nat) : getNode (setWave s k x) j = getNode s j := rfl
@[simp] theorem getNode_modWave_other (s : State) (k : Nat) (f : Wave → Wave) (j : Nat) : getNode (modWave s k f) j = getNode s j := rfl
@[simp] theorem getNode_setWg_other (s : State) (k : Nat) (x : Workgroup) (j : Nat) : getNode (setWg s k x) j = getNode s j := rfl
@[simp] theorem getNode_setTask_other (s : State) (k : Nat) (x : Task) (j : Nat) : getNode (setTask s k x) j = getNode s j := rfl
@[simp] theorem getNode_modMods_other (s : State) (f : ModSt → ModSt) (j : Nat) : getNode (modMods s f) j = getNode s j := rfl
@[simp] theorem getCtx_setNode_other (s : State) (k : Nat) (x : NodeSt) (j : Nat) : getCtx (setNode s k x) j = getCtx s j := rfl
@[simp] theorem getCtx_modNode_other (s : State) (k : Nat) (f : NodeSt → NodeSt) (j : Nat) : getCtx (modNode s k f) j = getCtx s j := rfl
@[simp] theorem getCtx_modKey_other (s : State) (k : Nat) (f : KeySlot → KeySlot) (j : Nat) : getCtx (modKey s k f) j = getCtx s j := rfl
@[simp] theorem getCtx_modFunc_other (s : State) (k : Nat) (f : Func → Func) (j : Nat) : getCtx (modFunc s k f) j = getCtx s j := rfl
@[simp] theorem getCtx_modWdie_other (s : State) (k : Nat) (f : WDie → WDie) (j : Nat) : getCtx (modWdie s k f) j = getCtx s j := rfl
@[simp] theorem getCtx_modQidx_other (s : State) (k : Nat) (f : QIdx → QIdx) (j : Nat) : getCtx (modQidx s k f) j = getCtx s j := rfl
@[simp] theorem getCtx_setCore_other (s : State) (k : Nat) (x : Core) (j : Nat) : getCtx (setCore s k x) j = getCtx s j := rfl
@[simp] theorem getCtx_modCore_other (s : State) (k : Nat) (f : Core → Core) (j : Nat) : getCtx (modCore s k f) j = getCtx s j := rfl
@[simp] theorem getCtx_setWave_other (s : State) (k : Nat) (x : Wave) (j : Nat) : getCtx (setWave s k x) j = getCtx s j := rfl
@[simp] theorem getCtx_modWave_other (s : State) (k : Nat) (f : Wave → Wave) (j : Nat) : getCtx (modWave s k f) j = getCtx s j := rfl
@[simp] theorem getCtx_setWg_other (s : State) (k : Nat) (x : Workgroup) (j : Nat) : getCtx (setWg s k x) j = getCtx s j := rfl
@[simp] theorem getCtx_setTask_other (s : State) (k : Nat) (x : Task) (j : Nat) : getCtx (setTask s k x) j = getCtx s j := rfl
@[simp] theorem getCtx_modMods_other (s : State) (f : ModSt → ModSt) (j : Nat) : getCtx (modMods s f) j = getCtx s j := rfl
@[simp] theorem getCore_setNode_other (s : State) (k : Nat) (x : NodeSt) (j : Nat) : getCore (setNode s k x) j = getCore s j := rfl
@[simp] theorem getCore_modNode_other (s : State) (k : Nat) (f : NodeSt → NodeSt) (j : Nat) : getCore (modNode s k f) j = getCore s j := rfl
@[simp] theorem getCore_setCtx_other (s : State) (k : Nat) (x : Ctx) (j : Nat) : getCore (setCtx s k x) j = getCore s j := rfl
@[simp] theorem getCore_modCtx_other (s : State) (k : Nat) (f : Ctx → Ctx) (j : Nat) : getCore (modCtx s k f) j = getCore s j := rfl
@[simp] theorem getCore_modKey_other (s : State) (k : Nat) (f : KeySlot → KeySlot) (j : Nat) : getCore (modKey s k f) j = getCore s j := rfl
@[simp] theorem getCore_modFunc_other (s : State) (k : Nat) (f : Func → Func) (j : Nat) : getCore (modFunc s k f) j = getCore s j := rfl
@[simp] theorem getCore_modWdie_other (s : State) (k : Nat) (f : WDie → WDie) (j : Nat) : getCore (modWdie s k f) j = getCore s j := rfl
@[simp] theorem getCore_modQidx_other (s : State) (k : Nat) (f : QIdx → QIdx) (j : Nat) : getCore (modQidx s k f) j = getCore s j := rfl
@[simp] theorem getCore_setWave_other (s : State) (k : Nat) (x : Wave) (j : Nat) : getCore (setWave s k x) j = getCore s j := rfl
@[simp] theorem getCore_modWave_other (s : State) (k : Nat) (f : Wave → Wave) (j : Nat) : getCore (modWave s k f) j = getCore s j := rfl
@[simp] theorem getCore_setWg_other (s : State) (k : Nat) (x : Workgroup) (j : Nat) : getCore (setWg s k x) j = getCore s j := rfl
@[simp] theorem getCore_setTask_other (s : State) (k : Nat) (x : Task) (j : Nat) : getCore (setTask s k x) j = getCore s j := rfl
@[simp] theorem getCore_modMods_other (s : State) (f : ModSt → ModSt) (j : Nat) : getCore (modMods s f) j = getCore s j := rfl
@[simp] theorem getKey_setNode_other (s : State) (k : Nat) (x : NodeSt) (j : Nat) : getKey (setNode s k x) j = getKey s j := rfl
@[simp] theorem getKey_modNode_other (s : State) (k : Nat) (f : NodeSt → NodeSt) (j : Nat) : getKey (modNode s k f) j = getKey s j := rfl
@[simp] theorem getKey_setCtx_other (s : State) (k : Nat) (x : Ctx) (j : Nat) : getKey (setCtx s k x) j = getKey s j := rfl
@[simp] theorem getKey_modCtx_other (s : State) (k : Nat) (f : Ctx → Ctx) (j : Nat) : getKey (modCtx s k f) j = getKey s j := rfl
@[simp] theorem getKey_modFunc_other (s : State) (k : Nat) (f : Func → Func) (j : Nat) : getKey (modFunc s k f) j = getKey s j := rfl
@[simp] theorem getKey_modWdie_other (s : State) (k : Nat) (f : WDie → WDie) (j : Nat) : getKey (modWdie s k f) j = getKey s j := rfl
@[simp] theorem getKey_modQidx_other (s : State) (k : Nat) (f : QIdx → QIdx) (j : Nat) : getKey (modQidx s k f) j = getKey s j := rfl
@[simp] theorem getKey_setCore_other (s : State) (k : Nat) (x : Core) (j : Nat) : getKey (setCore s k x) j = getKey s j := rfl
@[simp] theorem getKey_modCore_other (s : State) (k : Nat) (f : Core → Core) (j : Nat) : getKey (modCore s k f) j = getKey s j := rfl
@[simp] theorem getKey_setWave_other (s : State) (k : Nat) (x : Wave) (j : Nat) : getKey (setWave s k x) j = getKey s j := rfl
@[simp] theorem getKey_modWave_other (s : State) (k : Nat) (f : Wave → Wave) (j : Nat) : getKey (modWave s k f) j = getKey s j := rfl
@[simp] theorem getKey_setWg_other (s : State) (k : Nat) (x : Workgroup) (j : Nat) : getKey (setWg s k x) j = getKey s j := rfl
@[simp] theorem getKey_setTask_other (s : State) (k : Nat) (x : Task) (j : Nat) : getKey (setTask s k x) j = getKey s j := rfl
@[simp] theorem getKey_modMods_other (s : State) (f : ModSt → ModSt) (j : Nat) : getKey (modMods s f) j = getKey s j := rfl
@[simp] theorem getFunc_setNode_other (s : State) (k : Nat) (x : NodeSt) (j : Nat) : getFunc (setNode s k x) j = getFunc s j := rfl
@[simp] theorem getFunc_modNode_other (s : State) (k : Nat) (f : NodeSt → NodeSt) (j : Nat) : getFunc (modNode s k f) j = getFunc s j := rfl
@[simp] theorem getFunc_setCtx_other (s : State) (k : Nat) (x : Ctx) (j : Nat) : getFunc (setCtx s k x) j = getFunc s j := rfl
@[simp] theorem getFunc_modCtx_other (s : State) (k : Nat) (f : Ctx → Ctx) (j : Nat) : getFunc (modCtx s k f) j = getFunc s j := rfl
@[simp] theorem getFunc_modKey_other (s : State) (k : Nat) (f : KeySlot → KeySlot) (j : Nat) : getFunc (modKey s k f) j = getFunc s j := rfl
@[simp] theorem getFunc_modWdie_other (s : State) (k : Nat) (f : WDie → WDie) (j : Nat) : getFunc (modWdie s k f) j = getFunc s j := rfl
@[simp] theorem getFunc_modQidx_other (s : State) (k : Nat) (f : QIdx → QIdx) (j : Nat) : getFunc (modQidx s k f) j = getFunc s j := rfl
@[simp] theorem getFunc_setCore_other (s : State) (k : Nat) (x : Core) (j : Nat) : getFunc (setCore s k x) j = getFunc s j := rfl
@[simp] theorem getFunc_modCore_other (s : State) (k : Nat) (f : Core → Core) (j : Nat) : getFunc (modCore s k f) j = getFunc s j := rfl
@[simp] theorem getFunc_setWave_other (s : State) (k : Nat) (x : Wave) (j : Nat) : getFunc (setWave s k x) j = getFunc s j := rfl
@[simp] theorem getFunc_modWave_other (s : State) (k : Nat) (f : Wave → Wave) (j : Nat) : getFunc (modWave s k f) j = getFunc s j := rfl
@[simp] theorem getFunc_setWg_other (s : State) (k : Nat) (x : Workgroup) (j : Nat) : getFunc (setWg s k x) j = getFunc s j := rfl
@[simp] theorem getFunc_setTask_other (s : State) (k : Nat) (x : Task) (j : Nat) : getFunc (setTask s k x) j = getFunc s j := rfl
@[simp] theorem getFunc_modMods_other (s : State) (f : ModSt → ModSt) (j : Nat) : getFunc (modMods s f) j = getFunc s j := rfl
@[simp] theorem getWdie_setNode_other (s : State) (k : Nat) (x : NodeSt) (j : Nat) : getWdie (setNode s k x) j = getWdie s j := rfl
@[simp] theorem getWdie_modNode_other (s : State) (k : Nat) (f : NodeSt → NodeSt) (j : Nat) : getWdie (modNode s k f) j = getWdie s j := rfl
@[simp] theorem getWdie_setCtx_other (s : State) (k : Nat) (x : Ctx) (j : Nat) : getWdie (setCtx s k x) j = getWdie s j := rfl
@[simp] theorem getWdie_modCtx_other (s : State) (k : Nat) (f : Ctx → Ctx) (j : Nat) : getWdie (modCtx s k f) j = getWdie s j := rfl
@[simp] theorem getWdie_modKey_other (s : State) (k : Nat) (f : KeySlot → KeySlot) (j : Nat) : getWdie (modKey s k f) j = getWdie s j := rfl
@[simp] theorem getWdie_modFunc_other (s : State) (k : Nat) (f : Func → Func) (j : Nat) : getWdie (modFunc s k f) j = getWdie s j := rfl
@[simp] theorem getWdie_modQidx_other (s : State) (k : Nat) (f : QIdx → QIdx) (j : Nat) : getWdie (modQidx s k f) j = getWdie s j := rfl
@[simp] theorem getWdie_setCore_other (s : State) (k : Nat) (x : Core) (j : Nat) : getWdie (setCore s k x) j = getWdie s j := rfl
@[simp] theorem getWdie_modCore_other (s : State) (k : Nat) (f : Core → Core) (j : Nat) : getWdie (modCore s k f) j = getWdie s j := rfl
@[simp] theorem getWdie_setWave_other (s : State) (k : Nat) (x : Wave) (j : Nat) : getWdie (setWave s k x) j = getWdie s j := rfl
@[simp] theorem getWdie_modWave_other (s : State) (k : Nat) (f : Wave → Wave) (j : Nat) : getWdie (modWave s k f) j = getWdie s j := rfl
@[simp] theorem getWdie_setWg_other (s : State) (k : Nat) (x : Workgroup) (j : Nat) : getWdie (setWg s k x) j = getWdie s j := rfl
@[simp] theorem getWdie_setTask_other (s : State) (k : Nat) (x : Task) (j : Nat) : getWdie (setTask s k x) j = getWdie s j := rfl
@[simp] theorem getWdie_modMods_other (s : State) (f : ModSt → ModSt) (j : Nat) : getWdie (modMods s f) j = getWdie s j := rfl
@[simp] theorem getQidx_setNode_other (s : State) (k : Nat) (x : NodeSt) (j : Nat) : getQidx (setNode s k x) j = getQidx s j := rfl
@[simp] theorem getQidx_modNode_other (s : State) (k : Nat) (f : NodeSt → NodeSt) (j : Nat) : getQidx (modNode s k f) j = getQidx s j := rfl
@[simp] theorem getQidx_setCtx_other (s : State) (k : Nat) (x : Ctx) (j : Nat) : getQidx (setCtx s k x) j = getQidx s j := rfl
@[simp] theorem getQidx_modCtx_other (s : State) (k : Nat) (f : Ctx → Ctx) (j : Nat) : getQidx (modCtx s k f) j = getQidx s j := rfl
@[simp] theorem getQidx_modKey_other (s : State) (k : Nat) (f : KeySlot → KeySlot) (j : Nat) : getQidx (modKey s k f) j = getQidx s j := rfl
@[simp] theorem getQidx_modFunc_other (s : State) (k : Nat) (f : Func → Func) (j : Nat) : getQidx (modFunc s k f) j = getQidx s j := rfl
@[simp] theorem getQidx_modWdie_other (s : State) (k : Nat) (f : WDie → WDie) (j : Nat) : getQidx (modWdie s k f) j = getQidx s j := rfl
@[simp] theorem getQidx_setCore_other (s : State) (k : Nat) (x : Core) (j : Nat) : getQidx (setCore s k x) j = getQidx s j := rfl
@[simp] theorem getQidx_modCore_other (s : State) (k : Nat) (f : Core → Core) (j : Nat) : getQidx (modCore s k f) j = getQidx s j := rfl
@[simp] theorem getQidx_setWave_other (s : State) (k : Nat) (x : Wave) (j : Nat) : getQidx (setWave s k x) j = getQidx s j := rfl
@[simp] theorem getQidx_modWave_other (s : State) (k : Nat) (f : Wave → Wave) (j : Nat) : getQidx (modWave s k f) j = getQidx s j := rfl
@[simp] theorem getQidx_setWg_other (s : State) (k : Nat) (x : Workgroup) (j : Nat) : getQidx (setWg s k x) j = getQidx s j := rfl
@[simp] theorem getQidx_setTask_other (s : State) (k : Nat) (x : Task) (j : Nat) : getQidx (setTask s k x) j = getQidx s j := rfl
@[simp] theorem getQidx_modMods_other (s : State) (f : ModSt → ModSt) (j : Nat) : getQidx (modMods s f) j = getQidx s j := rfl
@[simp] theorem getWave_setNode_other (s : State) (k : Nat) (x : NodeSt) (j : Nat) : getWave (setNode s k x) j = getWave s j := rfl
@[simp] theorem getWave_modNode_other (s : State) (k : Nat) (f : NodeSt → NodeSt) (j : Nat) : getWave (modNode s k f) j = getWave s j := rfl
@[simp] theorem getWave_setCtx_other (s : State) (k : Nat) (x : Ctx) (j : Nat) : getWave (setCtx s k x) j = getWave s j := rfl
@[simp] theorem getWave_modCtx_other (s : State) (k : Nat) (f : Ctx → Ctx) (j : Nat) : getWave (modCtx s k f) j = getWave s j := rfl
@[simp] theorem getWave_modKey_other (s : State) (k : Nat) (f : KeySlot → KeySlot) (j : Nat) : getWave (modKey s k f) j = getWave s j := rfl
@[simp] theorem getWave_modFunc_other (s : State) (k : Nat) (f : Func → Func) (j : Nat) : getWave (modFunc s k f) j = getWave s j := rfl
@[simp] theorem getWave_modWdie_other (s : State) (k : Nat) (f : WDie → WDie) (j : Nat) : getWave (modWdie s k f) j = getWave s j := rfl
@[simp] theorem getWave_modQidx_other (s : State) (k : Nat) (f : QIdx → QIdx) (j : Nat) : getWave (modQidx s k f) j = getWave s j := rfl
@[simp] theorem getWave_setCore_other (s : State) (k : Nat) (x : Core) (j : Nat) : getWave (setCore s k x) j = getWave s j := rfl
@[simp] theorem getWave_modCore_other (s : State) (k : Nat) (f : Core → Core) (j : Nat) : getWave (modCore s k f) j = getWave s j := rfl
@[simp] theorem getWave_setWg_other (s : State) (k : Nat) (x : Workgroup) (j : Nat) : getWave (setWg s k x) j = getWave s j := rfl
@[simp] theorem getWave_setTask_other (s : State) (k : Nat) (x : Task) (j : Nat) : getWave (setTask s k x) j = getWave s j := rfl
@[simp] theorem getWave_modMods_other (s : State) (f : ModSt → ModSt) (j : Nat) : getWave (modMods s f) j = getWave s j := rfl
@[simp] theorem getWg_setNode_other (s : State) (k : Nat) (x : NodeSt) (j : Nat) : getWg (setNode s k x) j = getWg s j := rfl
@[simp] theorem getWg_modNode_other (s : State) (k : Nat) (f : NodeSt → NodeSt) (j : Nat) : getWg (modNode s k f) j = getWg s j := rfl
@[simp] theorem getWg_setCtx_other (s : State) (k : Nat) (x : Ctx) (j : Nat) : getWg (setCtx s k x) j = getWg s j := rfl
@[simp] theorem getWg_modCtx_other (s : State) (k : Nat) (f : Ctx → Ctx) (j : Nat) : getWg (modCtx s k f) j = getWg s j := rfl
@[simp] theorem getWg_modKey_other (s : State) (k : Nat) (f : KeySlot → KeySlot) (j : Nat) : getWg (modKey s k f) j = getWg s j := rfl
@[simp] theorem getWg_modFunc_other (s : State) (k : Nat) (f : Func → Func) (j : Nat) : getWg (modFunc s k f) j = getWg s j := rfl
@[simp] theorem getWg_modWdie_other (s : State) (k : Nat) (f : WDie → WDie) (j : Nat) : getWg (modWdie s k f) j = getWg s j := rfl
@[simp] theorem getWg_modQidx_other (s : State) (k : Nat) (f : QIdx → QIdx) (j : Nat) : getWg (modQidx s k f) j = getWg s j := rfl
@[simp] theorem getWg_setCore_other (s : State) (k : Nat) (x : Core) (j : Nat) : getWg (setCore s k x) j = getWg s j := rfl
@[simp] theorem getWg_modCore_other (s : State) (k : Nat) (f : Core → Core) (j : Nat) : getWg (modCore s k f) j = getWg s j := rfl
@[simp] theorem getWg_setWave_other (s : State) (k : Nat) (x : Wave) (j : Nat) : getWg (setWave s k x) j = getWg s j := rfl
@[simp] theorem getWg_modWave_other (s : State) (k : Nat) (f : Wave → Wave) (j : Nat) : getWg (modWave s k f) j = getWg s j := rfl
@[simp] theorem getWg_setTask_other (s : State) (k : Nat) (x : Task) (j : Nat) : getWg (setTask s k x) j = getWg s j := rfl
@[simp] theorem getWg_modMods_other (s : State) (f : ModSt → ModSt) (j : Nat) : getWg (modMods s f) j = getWg s j := rfl
@[simp] theorem getTask_setNode_other (s : State) (k : Nat) (x : NodeSt) (j : Nat) : getTask (setNode s k x) j = getTask s j := rfl
@[simp] theorem getTask_modNode_other (s : State) (k : Nat) (f : NodeSt → NodeSt) (j : Nat) : getTask (modNode s k f) j = getTask s j := rfl
@[simp] theorem getTask_setCtx_other (s : State) (k : Nat) (x : Ctx) (j : Nat) : getTask (setCtx s k x) j = getTask s j := rfl
@[simp] theorem getTask_modCtx_other (s : State) (k : Nat) (f : Ctx → Ctx) (j : Nat) : getTask (modCtx s k f) j = getTask s j := rfl
@[simp] theorem getTask_modKey_other (s : State) (k : Nat) (f : KeySlot → KeySlot) (j : Nat) : getTask (modKey s k f) j = getTask s j := rfl
@[simp] theorem getTask_modFunc_other (s : State) (k : Nat) (f : Func → Func) (j : Nat) : getTask (modFunc s k f) j = getTask s j := rfl
@[simp] theorem getTask_modWdie_other (s : State) (k : Nat) (f : WDie → WDie) (j : Nat) : getTask (modWdie s k f) j = getTask s j := rfl
@[simp] theorem getTask_modQidx_other (s : State) (k : Nat) (f : QIdx → QIdx) (j : Nat) : getTask (modQidx s k f) j = getTask s j := rfl
@[simp] theorem getTask_setCore_other (s : State) (k : Nat) (x : Core) (j : Nat) : getTask (setCore s k x) j = getTask s j := rfl
@[simp] theorem getTask_modCore_other (s : State) (k : Nat) (f : Core → Core) (j : Nat) : getTask (modCore s k f) j = getTask s j := rfl
@[simp] theorem getTask_setWave_other (s : State) (k : Nat) (x : Wave) (j : Nat) : getTask (setWave s k x) j = getTask s j := rfl
@[simp] theorem getTask_modWave_other (s : State) (k : Nat) (f : Wave → Wave) (j : Nat) : getTask (modWave s k f) j = getTask s j := rfl
@[simp] theorem getTask_setWg_other (s : State) (k : Nat) (x : Workgroup) (j : Nat) : getTask (setWg s k x) j = getTask s j := rfl
@[simp] theorem getTask_modMods_other (s : State) (f : ModSt → ModSt) (j : Nat) : getTask (modMods s f) j = getTask s j := rfl
@[simp] theorem modWg_agenda (s : State) (k : Nat) (f : Workgroup → Workgroup) : State.agenda (modWg s k f) = s.agenda := by
  unfold modWg; split <;> rfl
@[simp] theorem modWg_cur (s : State) (k : Nat) (f : Workgroup → Workgroup) : State.cur (modWg s k f) = s.cur := by
  unfold modWg; split <;> rfl
@[simp] theorem modWg_free (s : State) (k : Nat) (f : Workgroup → Workgroup) : State.free (modWg s k f) = s.free := by
  unfold modWg; split <;> rfl
@[simp] theorem modWg_nextWave (s : State) (k : Nat) (f : Workgroup → Workgroup) : State.nextWave (modWg s k f) = s.nextWave := by
  unfold modWg; split <;> rfl
@[simp] theorem modWg_nextWg (s : State) (k : Nat) (f : Workgroup → Workgroup) : State.nextWg (modWg s k f) = s.nextWg := by
  unfold modWg; split <;> rfl
@[simp] theorem modWg_nextTask (s : State) (k : Nat) (f : Workgroup → Workgroup) : State.nextTask (modWg s k f) = s.nextTask := by
  unfold modWg; split <;> rfl
@[simp] theorem modWg_nextReq (s : State) (k : Nat) (f : Workgroup → Workgroup) : State.nextReq (modWg s k f) = s.nextReq := by
  unfold modWg; split <;> rfl
@[simp] theorem modWg_time (s : State) (k : Nat) (f : Workgroup → Workgroup) : State.time (modWg s k f) = s.time := by
  unfold modWg; split <;> rfl
@[simp] theorem modWg_mods (s : State) (k : Nat) (f : Workgroup → Workgroup) : State.mods (modWg s k f) = s.mods := by
  unfold modWg; split <;> rfl
@[simp] theorem modWg_nodes (s : State) (k : Nat) (f : Workgroup → Workgroup) : State.nodes (modWg s k f) = s.nodes := by
  unfold modWg; split <;> rfl
@[simp] theorem modWg_wdies (s : State) (k : Nat) (f : Workgroup → Workgroup) : State.wdies (modWg s k f) = s.wdies := by
  unfold modWg; split <;> rfl
@[simp] theorem modWg_secure (s : State) (k : Nat) (f : Workgroup → Workgroup) : State.secure (modWg s k f) = s.secure := by
  unfold modWg; split <;> rfl
@[simp] theorem modWg_funcs (s : State) (k : Nat) (f : Workgroup → Workgroup) : State.funcs (modWg s k f) = s.funcs := by
  unfold modWg; split <;> rfl
@[simp] theorem modWg_winErr (s : State) (k : Nat) (f : Workgroup → Workgroup) : State.winErr (modWg s k f) = s.winErr := by
  unfold modWg; split <;> rfl
@[simp] theorem modWg_ctxs (s : State) (k : Nat) (f : Workgroup → Workgroup) : State.ctxs (modWg s k f) = s.ctxs := by
  unfold modWg; split <;> rfl
@[simp] theorem modWg_keys (s : State) (k : Nat) (f : Workgroup → Workgroup) : State.keys (modWg s k f) = s.keys := by
  unfold modWg; split <;> rfl
@[simp] theorem modWg_msix (s : State) (k : Nat) (f : Workgroup → Workgroup) : State.msix (modWg s k f) = s.msix := by
  unfold modWg; split <;> rfl
@[simp] theorem modWg_hostData (s : State) (k : Nat) (f : Workgroup → Workgroup) : State.hostData (modWg s k f) = s.hostData := by
  unfold modWg; split <;> rfl
@[simp] theorem modWg_crs (s : State) (k : Nat) (f : Workgroup → Workgroup) : State.crs (modWg s k f) = s.crs := by
  unfold modWg; split <;> rfl
@[simp] theorem modWg_mem (s : State) (k : Nat) (f : Workgroup → Workgroup) : State.mem (modWg s k f) = s.mem := by
  unfold modWg; split <;> rfl
@[simp] theorem modWg_memKey (s : State) (k : Nat) (f : Workgroup → Workgroup) : State.memKey (modWg s k f) = s.memKey := by
  unfold modWg; split <;> rfl
@[simp] theorem modWg_words (s : State) (k : Nat) (f : Workgroup → Workgroup) : State.words (modWg s k f) = s.words := by
  unfold modWg; split <;> rfl
@[simp] theorem modWg_eccFound (s : State) (k : Nat) (f : Workgroup → Workgroup) : State.eccFound (modWg s k f) = s.eccFound := by
  unfold modWg; split <;> rfl
@[simp] theorem modWg_llc (s : State) (k : Nat) (f : Workgroup → Workgroup) : State.llc (modWg s k f) = s.llc := by
  unfold modWg; split <;> rfl
@[simp] theorem modWg_l2 (s : State) (k : Nat) (f : Workgroup → Workgroup) : State.l2 (modWg s k f) = s.l2 := by
  unfold modWg; split <;> rfl
@[simp] theorem modWg_l1 (s : State) (k : Nat) (f : Workgroup → Workgroup) : State.l1 (modWg s k f) = s.l1 := by
  unfold modWg; split <;> rfl
@[simp] theorem modWg_icache (s : State) (k : Nat) (f : Workgroup → Workgroup) : State.icache (modWg s k f) = s.icache := by
  unfold modWg; split <;> rfl
@[simp] theorem modWg_regions (s : State) (k : Nat) (f : Workgroup → Workgroup) : State.regions (modWg s k f) = s.regions := by
  unfold modWg; split <;> rfl
@[simp] theorem modWg_proxies (s : State) (k : Nat) (f : Workgroup → Workgroup) : State.proxies (modWg s k f) = s.proxies := by
  unfold modWg; split <;> rfl
@[simp] theorem modWg_rels (s : State) (k : Nat) (f : Workgroup → Workgroup) : State.rels (modWg s k f) = s.rels := by
  unfold modWg; split <;> rfl
@[simp] theorem modWg_tokens (s : State) (k : Nat) (f : Workgroup → Workgroup) : State.tokens (modWg s k f) = s.tokens := by
  unfold modWg; split <;> rfl
@[simp] theorem modWg_watches (s : State) (k : Nat) (f : Workgroup → Workgroup) : State.watches (modWg s k f) = s.watches := by
  unfold modWg; split <;> rfl
@[simp] theorem modWg_drains (s : State) (k : Nat) (f : Workgroup → Workgroup) : State.drains (modWg s k f) = s.drains := by
  unfold modWg; split <;> rfl
@[simp] theorem modWg_net (s : State) (k : Nat) (f : Workgroup → Workgroup) : State.net (modWg s k f) = s.net := by
  unfold modWg; split <;> rfl
@[simp] theorem modWg_rehome (s : State) (k : Nat) (f : Workgroup → Workgroup) : State.rehome (modWg s k f) = s.rehome := by
  unfold modWg; split <;> rfl
@[simp] theorem modWg_tlb (s : State) (k : Nat) (f : Workgroup → Workgroup) : State.tlb (modWg s k f) = s.tlb := by
  unfold modWg; split <;> rfl
@[simp] theorem modWg_walks (s : State) (k : Nat) (f : Workgroup → Workgroup) : State.walks (modWg s k f) = s.walks := by
  unfold modWg; split <;> rfl
@[simp] theorem modWg_perms (s : State) (k : Nat) (f : Workgroup → Workgroup) : State.perms (modWg s k f) = s.perms := by
  unfold modWg; split <;> rfl
@[simp] theorem modWg_grants (s : State) (k : Nat) (f : Workgroup → Workgroup) : State.grants (modWg s k f) = s.grants := by
  unfold modWg; split <;> rfl
@[simp] theorem modWg_grantWaits (s : State) (k : Nat) (f : Workgroup → Workgroup) : State.grantWaits (modWg s k f) = s.grantWaits := by
  unfold modWg; split <;> rfl
@[simp] theorem modWg_atinvs (s : State) (k : Nat) (f : Workgroup → Workgroup) : State.atinvs (modWg s k f) = s.atinvs := by
  unfold modWg; split <;> rfl
@[simp] theorem modWg_arot (s : State) (k : Nat) (f : Workgroup → Workgroup) : State.arot (modWg s k f) = s.arot := by
  unfold modWg; split <;> rfl
@[simp] theorem modWg_waves (s : State) (k : Nat) (f : Workgroup → Workgroup) : State.waves (modWg s k f) = s.waves := by
  unfold modWg; split <;> rfl
@[simp] theorem modWg_cores (s : State) (k : Nat) (f : Workgroup → Workgroup) : State.cores (modWg s k f) = s.cores := by
  unfold modWg; split <;> rfl
@[simp] theorem modWg_queues (s : State) (k : Nat) (f : Workgroup → Workgroup) : State.queues (modWg s k f) = s.queues := by
  unfold modWg; split <;> rfl
@[simp] theorem modWg_resvs (s : State) (k : Nat) (f : Workgroup → Workgroup) : State.resvs (modWg s k f) = s.resvs := by
  unfold modWg; split <;> rfl
@[simp] theorem modWg_pending (s : State) (k : Nat) (f : Workgroup → Workgroup) : State.pending (modWg s k f) = s.pending := by
  unfold modWg; split <;> rfl
@[simp] theorem modWg_tasks (s : State) (k : Nat) (f : Workgroup → Workgroup) : State.tasks (modWg s k f) = s.tasks := by
  unfold modWg; split <;> rfl
@[simp] theorem modWg_conts (s : State) (k : Nat) (f : Workgroup → Workgroup) : State.conts (modWg s k f) = s.conts := by
  unfold modWg; split <;> rfl
@[simp] theorem modWg_varsels (s : State) (k : Nat) (f : Workgroup → Workgroup) : State.varsels (modWg s k f) = s.varsels := by
  unfold modWg; split <;> rfl
@[simp] theorem modWg_preempts (s : State) (k : Nat) (f : Workgroup → Workgroup) : State.preempts (modWg s k f) = s.preempts := by
  unfold modWg; split <;> rfl
@[simp] theorem modWg_gbars (s : State) (k : Nat) (f : Workgroup → Workgroup) : State.gbars (modWg s k f) = s.gbars := by
  unfold modWg; split <;> rfl
@[simp] theorem modWg_flt (s : State) (k : Nat) (f : Workgroup → Workgroup) : State.flt (modWg s k f) = s.flt := by
  unfold modWg; split <;> rfl
@[simp] theorem getNode_modWg_other (s : State) (k : Nat) (f : Workgroup → Workgroup) (j : Nat) : getNode (modWg s k f) j = getNode s j := by
  unfold modWg; split <;> rfl
@[simp] theorem getCtx_modWg_other (s : State) (k : Nat) (f : Workgroup → Workgroup) (j : Nat) : getCtx (modWg s k f) j = getCtx s j := by
  unfold modWg; split <;> rfl
@[simp] theorem getCore_modWg_other (s : State) (k : Nat) (f : Workgroup → Workgroup) (j : Nat) : getCore (modWg s k f) j = getCore s j := by
  unfold modWg; split <;> rfl
@[simp] theorem getKey_modWg_other (s : State) (k : Nat) (f : Workgroup → Workgroup) (j : Nat) : getKey (modWg s k f) j = getKey s j := by
  unfold modWg; split <;> rfl
@[simp] theorem getFunc_modWg_other (s : State) (k : Nat) (f : Workgroup → Workgroup) (j : Nat) : getFunc (modWg s k f) j = getFunc s j := by
  unfold modWg; split <;> rfl
@[simp] theorem getWdie_modWg_other (s : State) (k : Nat) (f : Workgroup → Workgroup) (j : Nat) : getWdie (modWg s k f) j = getWdie s j := by
  unfold modWg; split <;> rfl
@[simp] theorem getQidx_modWg_other (s : State) (k : Nat) (f : Workgroup → Workgroup) (j : Nat) : getQidx (modWg s k f) j = getQidx s j := by
  unfold modWg; split <;> rfl
@[simp] theorem getWave_modWg_other (s : State) (k : Nat) (f : Workgroup → Workgroup) (j : Nat) : getWave (modWg s k f) j = getWave s j := by
  unfold modWg; split <;> rfl
@[simp] theorem getTask_modWg_other (s : State) (k : Nat) (f : Workgroup → Workgroup) (j : Nat) : getTask (modWg s k f) j = getTask s j := by
  unfold modWg; split <;> rfl
@[simp] theorem modTask_agenda (s : State) (k : Nat) (f : Task → Task) : State.agenda (modTask s k f) = s.agenda := by
  unfold modTask; split <;> rfl
@[simp] theorem modTask_cur (s : State) (k : Nat) (f : Task → Task) : State.cur (modTask s k f) = s.cur := by
  unfold modTask; split <;> rfl
@[simp] theorem modTask_free (s : State) (k : Nat) (f : Task → Task) : State.free (modTask s k f) = s.free := by
  unfold modTask; split <;> rfl
@[simp] theorem modTask_nextWave (s : State) (k : Nat) (f : Task → Task) : State.nextWave (modTask s k f) = s.nextWave := by
  unfold modTask; split <;> rfl
@[simp] theorem modTask_nextWg (s : State) (k : Nat) (f : Task → Task) : State.nextWg (modTask s k f) = s.nextWg := by
  unfold modTask; split <;> rfl
@[simp] theorem modTask_nextTask (s : State) (k : Nat) (f : Task → Task) : State.nextTask (modTask s k f) = s.nextTask := by
  unfold modTask; split <;> rfl
@[simp] theorem modTask_nextReq (s : State) (k : Nat) (f : Task → Task) : State.nextReq (modTask s k f) = s.nextReq := by
  unfold modTask; split <;> rfl
@[simp] theorem modTask_time (s : State) (k : Nat) (f : Task → Task) : State.time (modTask s k f) = s.time := by
  unfold modTask; split <;> rfl
@[simp] theorem modTask_mods (s : State) (k : Nat) (f : Task → Task) : State.mods (modTask s k f) = s.mods := by
  unfold modTask; split <;> rfl
@[simp] theorem modTask_nodes (s : State) (k : Nat) (f : Task → Task) : State.nodes (modTask s k f) = s.nodes := by
  unfold modTask; split <;> rfl
@[simp] theorem modTask_wdies (s : State) (k : Nat) (f : Task → Task) : State.wdies (modTask s k f) = s.wdies := by
  unfold modTask; split <;> rfl
@[simp] theorem modTask_secure (s : State) (k : Nat) (f : Task → Task) : State.secure (modTask s k f) = s.secure := by
  unfold modTask; split <;> rfl
@[simp] theorem modTask_funcs (s : State) (k : Nat) (f : Task → Task) : State.funcs (modTask s k f) = s.funcs := by
  unfold modTask; split <;> rfl
@[simp] theorem modTask_winErr (s : State) (k : Nat) (f : Task → Task) : State.winErr (modTask s k f) = s.winErr := by
  unfold modTask; split <;> rfl
@[simp] theorem modTask_ctxs (s : State) (k : Nat) (f : Task → Task) : State.ctxs (modTask s k f) = s.ctxs := by
  unfold modTask; split <;> rfl
@[simp] theorem modTask_keys (s : State) (k : Nat) (f : Task → Task) : State.keys (modTask s k f) = s.keys := by
  unfold modTask; split <;> rfl
@[simp] theorem modTask_msix (s : State) (k : Nat) (f : Task → Task) : State.msix (modTask s k f) = s.msix := by
  unfold modTask; split <;> rfl
@[simp] theorem modTask_hostData (s : State) (k : Nat) (f : Task → Task) : State.hostData (modTask s k f) = s.hostData := by
  unfold modTask; split <;> rfl
@[simp] theorem modTask_crs (s : State) (k : Nat) (f : Task → Task) : State.crs (modTask s k f) = s.crs := by
  unfold modTask; split <;> rfl
@[simp] theorem modTask_mem (s : State) (k : Nat) (f : Task → Task) : State.mem (modTask s k f) = s.mem := by
  unfold modTask; split <;> rfl
@[simp] theorem modTask_memKey (s : State) (k : Nat) (f : Task → Task) : State.memKey (modTask s k f) = s.memKey := by
  unfold modTask; split <;> rfl
@[simp] theorem modTask_words (s : State) (k : Nat) (f : Task → Task) : State.words (modTask s k f) = s.words := by
  unfold modTask; split <;> rfl
@[simp] theorem modTask_eccFound (s : State) (k : Nat) (f : Task → Task) : State.eccFound (modTask s k f) = s.eccFound := by
  unfold modTask; split <;> rfl
@[simp] theorem modTask_llc (s : State) (k : Nat) (f : Task → Task) : State.llc (modTask s k f) = s.llc := by
  unfold modTask; split <;> rfl
@[simp] theorem modTask_l2 (s : State) (k : Nat) (f : Task → Task) : State.l2 (modTask s k f) = s.l2 := by
  unfold modTask; split <;> rfl
@[simp] theorem modTask_l1 (s : State) (k : Nat) (f : Task → Task) : State.l1 (modTask s k f) = s.l1 := by
  unfold modTask; split <;> rfl
@[simp] theorem modTask_icache (s : State) (k : Nat) (f : Task → Task) : State.icache (modTask s k f) = s.icache := by
  unfold modTask; split <;> rfl
@[simp] theorem modTask_regions (s : State) (k : Nat) (f : Task → Task) : State.regions (modTask s k f) = s.regions := by
  unfold modTask; split <;> rfl
@[simp] theorem modTask_proxies (s : State) (k : Nat) (f : Task → Task) : State.proxies (modTask s k f) = s.proxies := by
  unfold modTask; split <;> rfl
@[simp] theorem modTask_rels (s : State) (k : Nat) (f : Task → Task) : State.rels (modTask s k f) = s.rels := by
  unfold modTask; split <;> rfl
@[simp] theorem modTask_tokens (s : State) (k : Nat) (f : Task → Task) : State.tokens (modTask s k f) = s.tokens := by
  unfold modTask; split <;> rfl
@[simp] theorem modTask_watches (s : State) (k : Nat) (f : Task → Task) : State.watches (modTask s k f) = s.watches := by
  unfold modTask; split <;> rfl
@[simp] theorem modTask_drains (s : State) (k : Nat) (f : Task → Task) : State.drains (modTask s k f) = s.drains := by
  unfold modTask; split <;> rfl
@[simp] theorem modTask_net (s : State) (k : Nat) (f : Task → Task) : State.net (modTask s k f) = s.net := by
  unfold modTask; split <;> rfl
@[simp] theorem modTask_rehome (s : State) (k : Nat) (f : Task → Task) : State.rehome (modTask s k f) = s.rehome := by
  unfold modTask; split <;> rfl
@[simp] theorem modTask_tlb (s : State) (k : Nat) (f : Task → Task) : State.tlb (modTask s k f) = s.tlb := by
  unfold modTask; split <;> rfl
@[simp] theorem modTask_walks (s : State) (k : Nat) (f : Task → Task) : State.walks (modTask s k f) = s.walks := by
  unfold modTask; split <;> rfl
@[simp] theorem modTask_perms (s : State) (k : Nat) (f : Task → Task) : State.perms (modTask s k f) = s.perms := by
  unfold modTask; split <;> rfl
@[simp] theorem modTask_grants (s : State) (k : Nat) (f : Task → Task) : State.grants (modTask s k f) = s.grants := by
  unfold modTask; split <;> rfl
@[simp] theorem modTask_grantWaits (s : State) (k : Nat) (f : Task → Task) : State.grantWaits (modTask s k f) = s.grantWaits := by
  unfold modTask; split <;> rfl
@[simp] theorem modTask_atinvs (s : State) (k : Nat) (f : Task → Task) : State.atinvs (modTask s k f) = s.atinvs := by
  unfold modTask; split <;> rfl
@[simp] theorem modTask_arot (s : State) (k : Nat) (f : Task → Task) : State.arot (modTask s k f) = s.arot := by
  unfold modTask; split <;> rfl
@[simp] theorem modTask_waves (s : State) (k : Nat) (f : Task → Task) : State.waves (modTask s k f) = s.waves := by
  unfold modTask; split <;> rfl
@[simp] theorem modTask_wgs (s : State) (k : Nat) (f : Task → Task) : State.wgs (modTask s k f) = s.wgs := by
  unfold modTask; split <;> rfl
@[simp] theorem modTask_cores (s : State) (k : Nat) (f : Task → Task) : State.cores (modTask s k f) = s.cores := by
  unfold modTask; split <;> rfl
@[simp] theorem modTask_queues (s : State) (k : Nat) (f : Task → Task) : State.queues (modTask s k f) = s.queues := by
  unfold modTask; split <;> rfl
@[simp] theorem modTask_resvs (s : State) (k : Nat) (f : Task → Task) : State.resvs (modTask s k f) = s.resvs := by
  unfold modTask; split <;> rfl
@[simp] theorem modTask_pending (s : State) (k : Nat) (f : Task → Task) : State.pending (modTask s k f) = s.pending := by
  unfold modTask; split <;> rfl
@[simp] theorem modTask_conts (s : State) (k : Nat) (f : Task → Task) : State.conts (modTask s k f) = s.conts := by
  unfold modTask; split <;> rfl
@[simp] theorem modTask_varsels (s : State) (k : Nat) (f : Task → Task) : State.varsels (modTask s k f) = s.varsels := by
  unfold modTask; split <;> rfl
@[simp] theorem modTask_preempts (s : State) (k : Nat) (f : Task → Task) : State.preempts (modTask s k f) = s.preempts := by
  unfold modTask; split <;> rfl
@[simp] theorem modTask_gbars (s : State) (k : Nat) (f : Task → Task) : State.gbars (modTask s k f) = s.gbars := by
  unfold modTask; split <;> rfl
@[simp] theorem modTask_flt (s : State) (k : Nat) (f : Task → Task) : State.flt (modTask s k f) = s.flt := by
  unfold modTask; split <;> rfl
@[simp] theorem getNode_modTask_other (s : State) (k : Nat) (f : Task → Task) (j : Nat) : getNode (modTask s k f) j = getNode s j := by
  unfold modTask; split <;> rfl
@[simp] theorem getCtx_modTask_other (s : State) (k : Nat) (f : Task → Task) (j : Nat) : getCtx (modTask s k f) j = getCtx s j := by
  unfold modTask; split <;> rfl
@[simp] theorem getCore_modTask_other (s : State) (k : Nat) (f : Task → Task) (j : Nat) : getCore (modTask s k f) j = getCore s j := by
  unfold modTask; split <;> rfl
@[simp] theorem getKey_modTask_other (s : State) (k : Nat) (f : Task → Task) (j : Nat) : getKey (modTask s k f) j = getKey s j := by
  unfold modTask; split <;> rfl
@[simp] theorem getFunc_modTask_other (s : State) (k : Nat) (f : Task → Task) (j : Nat) : getFunc (modTask s k f) j = getFunc s j := by
  unfold modTask; split <;> rfl
@[simp] theorem getWdie_modTask_other (s : State) (k : Nat) (f : Task → Task) (j : Nat) : getWdie (modTask s k f) j = getWdie s j := by
  unfold modTask; split <;> rfl
@[simp] theorem getQidx_modTask_other (s : State) (k : Nat) (f : Task → Task) (j : Nat) : getQidx (modTask s k f) j = getQidx s j := by
  unfold modTask; split <;> rfl
@[simp] theorem getWave_modTask_other (s : State) (k : Nat) (f : Task → Task) (j : Nat) : getWave (modTask s k f) j = getWave s j := by
  unfold modTask; split <;> rfl
@[simp] theorem getWg_modTask_other (s : State) (k : Nat) (f : Task → Task) (j : Nat) : getWg (modTask s k f) j = getWg s j := by
  unfold modTask; split <;> rfl

@[simp] theorem getWg_modWg (s : State) (k : Nat) (f : Workgroup → Workgroup) :
    getWg (modWg s k f) k = (getWg s k).map f := by
  unfold modWg; cases h : getWg s k <;> simp [h]
@[simp] theorem getTask_modTask (s : State) (k : Nat) (f : Task → Task) :
    getTask (modTask s k f) k = (getTask s k).map f := by
  unfold modTask; cases h : getTask s k <;> simp [h]

end Sys2Proof.Machine
end

