-- ==== Sys2Proof/Laws/Alu.lean ====
section
/-! SUPPORT. What the frame of a lane instruction does: registers and predicates written and kept. -/

namespace Sys2Proof.Machine

/-! ## Registers -/

theorem readReg_writeReg (w : Wave) (n k : Nat) (r : Reg) (h : w.handler.isSome → ∃ x, r = .u x) :
    readReg (writeReg w n r) k = if n = k then r else readReg w k := by
  unfold readReg writeReg
  cases hw : w.handler with
  | none => simp only [Tab.get_set]
  | some b =>
    obtain ⟨x, rfl⟩ := h (by simp [hw])
    by_cases hn : 248 ≤ n
    · simp only [hn, if_true, Tab.get_set]
      by_cases e : n = k
      · subst e; simp [hn, regLane]
      · simp only [e, if_false]
    · simp only [hn, if_false, Tab.get_set]
      by_cases e : n = k
      · subst e; simp [hn]
      · simp only [e, if_false]

theorem WroteRegs.refl (w : Wave) (r : Nat) : WroteRegs w w r 0 :=
  ⟨fun _ _ => rfl, fun _ _ _ => rfl, rfl, fun h e => ⟨h.regs, e⟩, id⟩

theorem WroteRegs.write {w v : Wave} {r n : Nat} (h : WroteRegs w v r n) (x : Reg)
    (u : w.handler.isSome → ∃ y, x = .u y) : WroteRegs w (writeReg v (r + n) x) r (n + 1) := by
  have hs : v.handler.isSome = w.handler.isSome := by
    cases hw : w.handler with
    | none => simp [h.user hw]
    | some b => obtain ⟨_, e⟩ := h.bank b hw; simp [e]
  refine ⟨fun k hk => ?_, fun i k hk => ?_, ?_, fun b e => ?_, fun e => ?_⟩
  · rw [readReg_writeReg _ _ _ _ (by rw [hs]; exact u), if_neg (by omega)]
    exact h.others k (by omega)
  · rw [← h.interrupted i k hk]
    unfold writeReg
    cases hv : v.handler with
    | none => rw [hv] at hs; simp [← hs] at i
    | some b =>
      by_cases hn : 248 ≤ r + n
      · simp only [hn, if_true]
      · simp only [hn, if_false, Tab.get_set]; rw [if_neg (by omega)]
  · have f := h.fields
    unfold writeReg
    split
    · split <;> (rw [f])
    · rw [f]
  · obtain ⟨c, e'⟩ := h.bank b e
    unfold writeReg
    simp only [e']
    split <;> exact ⟨_, rfl⟩
  · have := h.user e
    unfold writeReg; simp [this]

theorem WroteRegs.badRegs {w v : Wave} {r n : Nat} (h : WroteRegs w v r n) (l : List Nat) :
    WroteRegs w { v with badRegs := l } r n :=
  ⟨h.others, h.interrupted, by have := h.fields; rw [this], h.bank, h.user⟩

/-- The registers of a fold of writes. -/
theorem writeRegs_fold (w : Wave) (r n : Nat) (g : Nat → Reg → Reg)
    (u : w.handler.isSome → ∀ i y, ∃ z, g i y = .u z) :
    WroteRegs w ((List.range n).foldl (fun t i => writeReg t (r + i) (g i (readReg t (r + i)))) w) r n ∧
    ∀ i, i < n → readReg ((List.range n).foldl (fun t i => writeReg t (r + i) (g i (readReg t (r + i)))) w) (r + i) =
      g i (readReg w (r + i)) := by
  induction n with
  | zero => exact ⟨WroteRegs.refl w r, by omega⟩
  | succ n ih =>
    simp only [List.range_succ, List.foldl_append, List.foldl_cons, List.foldl_nil]
    obtain ⟨hw, hr⟩ := ih
    generalize (List.range n).foldl (fun t i => writeReg t (r + i) (g i (readReg t (r + i)))) w = v at hw hr ⊢
    have hs : v.handler.isSome = w.handler.isSome := by
      cases e : w.handler with
      | none => simp [hw.user e]
      | some b => obtain ⟨_, e'⟩ := hw.bank b e; simp [e']
    refine ⟨hw.write _ (fun i => u i _ _), fun i hi => ?_⟩
    rw [readReg_writeReg _ _ _ _ (by rw [hs]; exact fun i => u i _ _)]
    by_cases e : n = i
    · subst e; rw [if_pos rfl, hw.others (r + n) (by omega)]
    · rw [if_neg (by omega), hr i (by omega)]

/-- A shape that a result may take from the values `f` (R191, R192). -/
structure ShapeOk (w : Wave) (sh : Shape) (e : Mask) (n : Nat) (f : Nat → Nat) : Prop where
  lane : w.handler.isSome → sh = .u
  one : oneLane w = true → ∀ l, e.getLsbD l → l = 0
  full : oneLane w = false → sh ≠ .g → e ≠ 0 → e = BitVec.allOnes 32
  uni : sh = .u → ∀ l, e.getLsbD l → f l = f 0
  aff : sh = .a → ∀ i, i < n → ∀ l, l < 32 → BitVec.ofNat 32 (f l / 2 ^ (32 * i)) =
    BitVec.ofNat 32 (f 0 / 2 ^ (32 * i)) +
      (BitVec.ofNat 32 (f 1 / 2 ^ (32 * i)) - BitVec.ofNat 32 (f 0 / 2 ^ (32 * i))) * BitVec.ofNat 32 l

theorem lanes32_get (f : Nat → Word) {l : Nat} (h : l < 32) : (lanes32.map f).getD l 0 = f l := by
  unfold lanes32
  simp [List.getD, h]

theorem lane_lt {e : Mask} {l : Nat} (h : e.getLsbD l = true) : l < 32 := by
  rcases Nat.lt_or_ge l 32 with c | c
  · exact c
  · rw [BitVec.getLsbD_of_ge _ _ c] at h; cases h

theorem writeRegs_spec (w : Wave) (r n : Nat) (sh : Shape) (e : Mask) (f : Nat → Nat) (ok : ShapeOk w sh e n f)
    (ne : e = 0 → sh = .g) :
    WroteRegs w (writeRegs w r n sh e f) r n ∧ ∀ i, i < n → ∀ l, l < 32 →
      (e.getLsbD l → regLane (readReg (writeRegs w r n sh e f) (r + i)) l = BitVec.ofNat 32 (f l / 2 ^ (32 * i))) ∧
      (oneLane w = false → e.getLsbD l = false →
        regLane (readReg (writeRegs w r n sh e f) (r + i)) l = regLane (readReg w (r + i)) l) := by
  obtain ⟨hw, hr⟩ := writeRegs_fold w r n (fun i y => shapedReg sh y e (fun l => f l / 2 ^ (32 * i)))
    (fun i _ _ => by rw [ok.lane i]; exact ⟨_, rfl⟩)
  unfold writeRegs
  dsimp only
  generalize (List.range n).foldl (fun (t : Wave) i => writeReg t (r + i)
    (shapedReg sh (readReg t (r + i)) e (fun l => f l / 2 ^ (32 * i)))) w = v at hw hr ⊢
  have key : ∀ b : List Nat, ∀ i, i < n → ∀ l, l < 32 →
      (e.getLsbD l → regLane (readReg { v with badRegs := b } (r + i)) l = BitVec.ofNat 32 (f l / 2 ^ (32 * i))) ∧
      (oneLane w = false → e.getLsbD l = false →
        regLane (readReg { v with badRegs := b } (r + i)) l = regLane (readReg w (r + i)) l) := by
    intro b i hi l hl
    have hb : readReg { v with badRegs := b } (r + i) = readReg v (r + i) := rfl
    rw [hb, hr i hi]
    cases sh with
    | u =>
      refine ⟨fun el => ?_, fun o el => ?_⟩
      · simp only [shapedReg, regLane]; rw [ok.uni rfl l el]
      · rw [ok.full o (by decide) (fun c => by cases ne c), BitVec.getLsbD_allOnes] at el; simp [hl] at el
    | a =>
      refine ⟨fun el => ?_, fun o el => ?_⟩
      · simp only [shapedReg]
        rw [ok.aff rfl i hi l hl]
        split
        · rename_i z; simp only [regLane]; rw [z]; simp
        · simp only [regLane]
      · rw [ok.full o (by decide) (fun c => by cases ne c), BitVec.getLsbD_allOnes] at el; simp [hl] at el
    | g =>
      simp only [shapedReg, regLane, lanes32_get _ hl]
      exact ⟨fun el => by simp [el], fun _ el => by simp [el]⟩
  split
  · exact ⟨hw.badRegs _, key _⟩
  · exact ⟨hw, fun i hi l hl => key v.badRegs i hi l hl⟩

/-- A register destination written in a shape that its values allow. -/
theorem dstHas_writeDst (w : Wave) (d : Opnd) (n : Nat) (sh : Shape) (e : Mask) (f : Nat → Nat)
    (ok : ShapeOk w sh e n f) : DstHas w (writeDst w d n sh e f) d n e f := by
  unfold DstHas writeDst
  by_cases he : e = 0 ∧ sh ≠ .g
  · obtain ⟨rfl, hg⟩ := he
    rw [if_pos ⟨rfl, hg⟩]
    cases d with
    | v r =>
      exact ⟨⟨fun _ _ => rfl, fun _ _ _ => rfl, rfl, fun h e => ⟨h.regs, e⟩, id⟩,
        fun i _ l _ => ⟨by simp, fun _ _ => rfl⟩⟩
    | _ => rfl
  rw [if_neg he]
  cases d with
  | v r => exact writeRegs_spec w r.toNat n sh e f ok (fun z => Decidable.not_not.mp (fun c => he ⟨z, c⟩))
  | _ => rfl

/-! ## Predicates -/

theorem predHas_writePredDst (w : Wave) (d : Opnd) (e : Mask) (f : Nat → Bool) (g : Mask)
    (hg : ∀ l, l < 32 → e.getLsbD l → g.getLsbD l = f l) : PredHas w (writePredDst w d e g) d e f := by
  unfold PredHas writePredDst
  cases d with
  | p q =>
    simp only []
    refine ⟨⟨fun k hk => ?_, fun i k hk => ?_, ?_, fun b e => ?_, fun e => ?_⟩, fun hq l hl => ?_⟩
    · unfold writePred readPred
      by_cases k31 : k = 31
      · simp [k31]
      rw [if_neg k31, if_neg k31]
      cases hw : w.handler with
      | none => simp only [Tab.get_set]; rw [if_neg (Ne.symm hk)]
      | some b =>
        by_cases h28 : 28 ≤ q.toNat
        · simp only [h28, if_true, Tab.get_set]; rw [if_neg (Ne.symm hk)]
        · simp only [h28, if_false, Tab.get_set]; rw [if_neg (Ne.symm hk)]
    · unfold writePred
      cases hw : w.handler with
      | none => simp [hw] at i
      | some b =>
        by_cases h28 : 28 ≤ q.toNat
        · simp only [h28, if_true]
        · simp only [h28, if_false, Tab.get_set]; rw [if_neg (by omega)]
    · unfold writePred; split
      · split <;> rfl
      · rfl
    · unfold writePred; simp only [e]; split <;> exact ⟨_, rfl⟩
    · unfold writePred; simp [e]
    · have hq' : q.toNat ≠ 31 := fun c => hq (BitVec.eq_of_toNat_eq (by simpa using c))
      have : readPred (writePred w q.toNat (readPred w q.toNat &&& ~~~e ||| g &&& e)) q.toNat =
          (readPred w q.toNat &&& ~~~e ||| g &&& e) := by
        generalize readPred w q.toNat &&& ~~~e ||| g &&& e = m
        unfold writePred readPred
        rw [if_neg hq']
        cases hw : w.handler with
        | none => simp only [Tab.get_set_same]
        | some b =>
          by_cases h28 : 28 ≤ q.toNat
          · simp only [h28, if_true, Tab.get_set_same]
          · simp only [h28, if_false, Tab.get_set_same]
      rw [this]
      simp only [BitVec.getLsbD_or, BitVec.getLsbD_and, BitVec.getLsbD_not, hl]
      cases he : e.getLsbD l with
      | false => simp
      | true => simp [hg l hl he]
  | _ => rfl

theorem maskOf_get (p : Nat → Bool) {l : Nat} (h : l < 32) : (maskOf p).getLsbD l = p l := by
  have key : ∀ n, (∀ l, ((List.range n).foldl (fun m l => if p l then m ||| laneBit l else m) (0 : Mask)).getLsbD l =
      (decide (l < n) && decide (l < 32) && p l)) := by
    intro n
    induction n with
    | zero => intro l; simp
    | succ n ih =>
      intro l
      simp only [List.range_succ, List.foldl_append, List.foldl_cons, List.foldl_nil]
      have hb : (laneBit n).getLsbD l = (decide (l = n) && decide (l < 32)) := by
        simp only [laneBit, BitVec.getLsbD_shiftLeft, BitVec.getLsbD_one]
        rcases Nat.lt_trichotomy l n with c | c | c
        · simp [c, Nat.ne_of_lt c]
        · subst c; simp
        · have : l - n ≠ 0 := by omega
          simp [this, Nat.ne_of_gt c]
      have hs : decide (l < n + 1) = (decide (l < n) || decide (l = n)) := by
        by_cases a : l < n <;> by_cases b : l = n <;> simp [a, b] <;> omega
      by_cases hp : p n
      · rw [if_pos hp, BitVec.getLsbD_or, ih, hb, hs]
        by_cases e : l = n
        · subst e; simp [hp]
        · simp [e]
      · rw [if_neg hp, ih, hs]
        by_cases e : l = n
        · subst e; simp [hp]
        · simp [e]
  have := key 32 l
  simpa [maskOf, lanes32, h] using this

/-! ## Sources -/

theorem regLane_uniform {r : Reg} (h : regUniform r = true) (l : Nat) : regLane r l = regLane r 0 := by
  cases r <;> simp_all [regUniform, regLane]

/-- A uniform source has one value in every lane. -/
theorem opnd_uniform (x : Rd) (t : Ty) (hi : BitVec 16) (o : Opnd) (n l : Nat) (hl : l < 32) (hn : tyWords t ≤ n)
    (one : oneLane x.w = false) (u : opndUniform x n o = true) : opnd x t hi o l = opnd x t hi o 0 := by
  cases o with
  | v r =>
    simp only [opndUniform, one, Bool.false_and, Bool.false_or, List.all_eq_true, List.mem_range] at u
    have w0 : 0 < n → regWord x r.toNat 0 l = regWord x r.toNat 0 0 := fun h => by
      unfold regWord; simp only [one]; rw [regLane_uniform (u 0 h)]; simp
    simp only [opnd]
    by_cases h64 : tyBits t = 64
    · simp only [h64, if_true]
      simp only [tyWords, h64, if_true] at hn
      have w1 : regWord x r.toNat 1 l = regWord x r.toNat 1 0 := by
        unfold regWord; simp only [one]; rw [regLane_uniform (u 1 (by omega))]; simp
      rw [w0 (by omega), w1]
    · simp only [h64, if_false]
      simp only [tyWords, h64, if_false] at hn
      rw [w0 (by omega)]
  | p q =>
    simp only [opndUniform, beq_iff_eq] at u
    subst u
    have e : readPred x.w (BitVec.toNat (31 : BitVec 5)) = BitVec.allOnes 32 := rfl
    simp only [opnd, e, BitVec.getLsbD_allOnes, hl, decide_true]
    rfl
  | sreg r =>
    simp only [opndUniform, sregAffine, one] at u
    cases r <;> first | rfl | simp at u
  | _ => rfl

theorem predBit_uniform (x : Rd) (o : Opnd) (l : Nat) (hl : l < 32) (h : predGeneral o = false) :
    predBit x o l = predBit x o 0 := by
  cases o with
  | p q =>
    simp only [predGeneral, bne_eq_false_iff_eq] at h
    subst h
    have e : readPred x.w (BitVec.toNat (31 : BitVec 5)) = BitVec.allOnes 32 := rfl
    simp only [predBit, predMask, e, BitVec.getLsbD_allOnes, hl, decide_true]
    rfl
  | _ => simp [predBit, predMask]

theorem predMask_const (x : Rd) (o : Opnd) (h : predGeneral o = false) : predMask x o = 0 ∨ predMask x o = BitVec.allOnes 32 := by
  cases o with
  | p q =>
    simp only [predGeneral, bne_eq_false_iff_eq] at h
    subst h
    right; simp [predMask, readPred]
  | _ => left; rfl

/-! ## The frame -/

theorem gate_ready {i : Instr} {s : State} {w : Wave} {p : Path} (h : Ready s i w p) (k : Nat → Wave → Path → Out) :
    gate i s k = k s.cur w p := by
  unfold gate
  simp [h.wave, h.path, h.rename, h.queue]

/-- The values of a result are such that the shape that R192 gives it can hold them. -/
structure RuleOk (h : Head) (n : Nat) (rule : ShapeRule) (a : AluSrc) (f : Rd → Nat → Nat) : Prop where
  uni : ∀ x l, l < 32 → oneLane x.w = false → a.preds.any predGeneral = false →
    (∀ y ∈ a.srcs, opndUniform x y.n y.o = true) → rule ≠ .general → f x l = f x 0
  aff : ∀ x, resultShape x h.g rule a.preds a.srcs = .a → ∀ i, i < n → ∀ l, l < 32 →
    BitVec.ofNat 32 (f x l / 2 ^ (32 * i)) = BitVec.ofNat 32 (f x 0 / 2 ^ (32 * i)) +
      (BitVec.ofNat 32 (f x 1 / 2 ^ (32 * i)) - BitVec.ofNat 32 (f x 0 / 2 ^ (32 * i))) * BitVec.ofNat 32 l

theorem resultShape_full {x : Rd} {g : Guard} {rule : ShapeRule} {ps : List Opnd} {ss : List Src}
    (one : oneLane x.w = false) (ne : workMask x g ≠ 0) (h : resultShape x g rule ps ss ≠ .g) :
    x.p.mask = BitVec.allOnes 32 ∧ unguarded g = true ∧ overCuts x.w x.p g = false ∧
      ps.any predGeneral = false ∧ rule ≠ .general := by
  have never : ¬ (guardNever g && entryMask x.w x.p g == 0) = true := by
    simp only [workMask, one] at ne
    simp only [Bool.and_eq_true, beq_iff_eq, not_and]
    exact fun _ => ne
  unfold resultShape at h
  rw [one, if_neg (by decide), if_neg never] at h
  by_cases c : x.p.mask ≠ BitVec.allOnes 32 ∨ !unguarded g ∨ overCuts x.w x.p g
  · rw [if_pos c] at h; exact absurd rfl h
  rw [if_neg c] at h
  by_cases d : ps.any predGeneral
  · rw [if_pos d] at h; exact absurd rfl h
  rw [if_neg d] at h
  by_cases e : rule = .general
  · rw [if_pos e] at h; exact absurd rfl h
  simp only [not_or] at c
  exact ⟨Decidable.not_not.mp c.1, by simpa using c.2.1, by simpa using c.2.2, by simpa using d, e⟩

theorem resultShape_u {x : Rd} {g : Guard} {rule : ShapeRule} {ps : List Opnd} {ss : List Src}
    (one : oneLane x.w = false) (ne : workMask x g ≠ 0) (h : resultShape x g rule ps ss = .u) : ∀ y ∈ ss, opndUniform x y.n y.o = true := by
  have f := resultShape_full one ne (by rw [h]; decide)
  have never : ¬ (guardNever g && entryMask x.w x.p g == 0) = true := by
    simp only [workMask, one] at ne
    simp only [Bool.and_eq_true, beq_iff_eq, not_and]
    exact fun _ => ne
  unfold resultShape at h
  rw [one, if_neg (by decide), if_neg never, if_neg (by rw [f.1, f.2.1, f.2.2.1]; decide), if_neg (by rw [f.2.2.2.1]; decide),
    if_neg f.2.2.2.2] at h
  by_cases c : ss.all (fun a => opndUniform x a.n a.o) = true
  · simpa using c
  · rw [if_neg c] at h
    exfalso
    revert h
    dsimp only
    repeat' split
    all_goals (intro h; cases h)

theorem full_entry {x : Rd} {g : Guard} (one : oneLane x.w = false) (m : x.p.mask = BitVec.allOnes 32)
    (u : unguarded g = true) (o : overCuts x.w x.p g = false) : workMask x g = BitVec.allOnes 32 := by
  simp only [unguarded, Bool.and_eq_true, Bool.not_eq_true', beq_iff_eq] at u
  have gm : guardMask x.w g = BitVec.allOnes 32 := by simp [guardMask, readPred, u.1, u.2]
  unfold workMask
  simp only [one]
  unfold entryMask
  unfold overCuts at o
  cases c : x.p.cut with
  | none => simp [m, gm]
  | some k => simp only [c, m, gm, bne_eq_false_iff_eq] at o; simp [o]

theorem shapeOk_result (x : Rd) (h : Head) (n : Nat) (rule : ShapeRule) (a : AluSrc) (f : Rd → Nat → Nat)
    (ok : RuleOk h n rule a f) :
    ShapeOk x.w (resultShape x h.g rule a.preds a.srcs) (workMask x h.g) n (f x) where
  lane i := by unfold resultShape; simp [oneLane, i]
  one o l e := by
    simp only [workMask, o, if_true, BitVec.getLsbD_and, Bool.and_eq_true] at e
    simpa using e.2
  full o g ne := by
    have := resultShape_full o ne g
    exact full_entry o this.1 this.2.1 this.2.2.1
  uni u l e := by
    by_cases o : oneLane x.w = true
    · have : l = 0 := by
        simp only [workMask, o, if_true, BitVec.getLsbD_and, Bool.and_eq_true] at e
        simpa using e.2
      rw [this]
    · have o : oneLane x.w = false := by simpa using o
      have ne : workMask x h.g ≠ 0 := fun z => by rw [z] at e; simp at e
      have c := resultShape_full o ne (by rw [u]; decide)
      exact ok.uni x l (lane_lt e) o c.2.2.2.1 (resultShape_u o ne u) c.2.2.2.2
  aff e := ok.aff x e

theorem resultShape_not_a {x : Rd} {g : Guard} {rule : ShapeRule} {ps : List Opnd} {ss : List Src}
    (h : rule = .plain ∨ rule = .general) : resultShape x g rule ps ss ≠ .a := by
  unfold resultShape
  rcases h with rfl | rfl <;> dsimp only <;> repeat' split
  all_goals simp_all

/-- A lane instruction without exceptions answers with the values of its rule. -/
theorem laneResult_pure {i : Instr} {h : Head} {n : Nat} {rule : ShapeRule} {a : AluSrc} {f : Rd → Nat → Nat}
    (hx : ∀ s, exec i s = aluPure i h (.reg n rule) a f s) (ok : RuleOk h n rule a f) : LaneResult i h n f := by
  intro s w p r
  rw [hx]
  refine ⟨_, by unfold aluPure; rw [gate_ready r], ?_⟩
  exact dstHas_writeDst _ _ _ _ _ _ (shapeOk_result ⟨s, w, p⟩ h n rule a f ok)

theorem predResult_pure {i : Instr} {h : Head} {a : AluSrc} {f : Rd → Nat → Bool}
    (hx : ∀ s, exec i s = aluPure i h .pred a (fun x l => b2n (f x l)) s) : PredResult i h f := by
  intro s w p r
  rw [hx]
  refine ⟨_, by unfold aluPure; rw [gate_ready r], ?_⟩
  refine predHas_writePredDst _ _ _ _ _ (fun l hl e => ?_)
  rw [maskOf_get _ hl, e]
  simp only []
  cases f ⟨s, w, p⟩ l <;> simp [b2n]

/-- A lane instruction with exceptions answers with the values of its rule, or traps. -/
theorem floatResult_exc {i : Instr} {h : Head} {n : Nat} {rule : ShapeRule} {a : AluSrc} {f : Rd → Nat → Nat × Exc}
    (hx : ∀ s, exec i s = aluExc i h (.reg n rule) a f s) (ok : RuleOk h n rule a (fun x l => (f x l).1)) :
    FloatResult i h n f := by
  intro s w p r
  refine ⟨fun t => ?_, fun c m t => ?_⟩
  · rw [hx]
    refine ⟨_, by unfold aluExc; rw [gate_ready r]; simp only [show excTrap _ _ _ = none from t]; rfl, ?_⟩
    exact dstHas_writeDst _ _ _ _ _ _ (shapeOk_result ⟨s, w, p⟩ h n rule a (fun x l => (f x l).1) ok)
  · rw [hx]; unfold aluExc; rw [gate_ready r]; simp only [t]

end Sys2Proof.Machine
end

