-- ==== Sys2Proof/Laws/Code.lean ====
section
/-! SUPPORT. Laws of the codes and of the fields of a word: what the encoder puts into a field, the decoder reads
there. -/

namespace Sys2Proof.Machine

theorem extract_hi {a b : Nat} (x : BitVec a) (y : BitVec b) (k l : Nat) (h : b ≤ k) :
    (x ++ y).extractLsb' k l = x.extractLsb' (k - b) l := by
  ext i hi
  simp only [BitVec.getElem_extractLsb', BitVec.getLsbD_append]
  rw [if_neg (by omega)]
  congr 1; omega

theorem extract_lo {a b : Nat} (x : BitVec a) (y : BitVec b) (k l : Nat) (h : k + l ≤ b) :
    (x ++ y).extractLsb' k l = y.extractLsb' k l := by
  ext i hi
  simp only [BitVec.getElem_extractLsb', BitVec.getLsbD_append]
  rw [if_pos (by omega)]

theorem extract_all {a : Nat} (x : BitVec a) : x.extractLsb' 0 a = x := by
  ext i hi; simp

@[simp] theorem opndOf_opndCode (o : Opnd) : opndOf (opndCode o) = some o := by
  cases o with
  | v n => revert n; decide
  | p n => revert n; decide
  | sreg r => cases r <;> rfl
  | konst k => revert k; decide
  | imm => rfl
  | null => rfl
  | fed => rfl

@[simp] theorem tyOf_tyCode (t : Ty) : tyOf (tyCode t) = some t := by cases t <;> rfl
@[simp] theorem rndOf_rndCode (t : Rnd) : rndOf (rndCode t) = some t := by cases t <;> rfl
@[simp] theorem sizeOf_sizeCode (t : Size) : sizeOf (sizeCode t) = some t := by cases t <;> rfl
@[simp] theorem ordOf_ordCode (t : Ord) : ordOf (ordCode t) = some t := by cases t <;> rfl
@[simp] theorem spaceOf_spaceCode (t : Space) : spaceOf (spaceCode t) = some t := by cases t <;> rfl
@[simp] theorem keepOf_keepCode (t : Keep) : keepOf (keepCode t) = t := by cases t <;> rfl

@[simp] theorem headOf_rawHead (h : Head) (opc : BitVec 10) (sub : BitVec 6) (m : BitVec 26) :
    headOf (rawHead h opc sub m) = some h := by
  have e : ((0#2 ++ h.hnt : BitVec 8)).extractLsb' 0 6 = h.hnt := by
    exact (extract_lo (0#2) h.hnt 0 6 (by omega)).trans (extract_all _)
  have g : guardOf (rawHead h opc sub m) = h.g := by
    rcases h with ⟨⟨n, p⟩, _⟩
    cases n <;> rfl
  simp only [headOf, rawHead, opndOf_opndCode] at *
  simp [e, g]

theorem boolCode_beq (b : Bool) : ((boolCode b : BitVec 1) == 1#1) = b := by cases b <;> rfl

theorem arithOf_rawArith (opc : BitVec 10) (sub : BitVec 6) (f : ArithF) : arithOf (rawArith opc sub f) = some f := by
  have ty : modTy (rawArith opc sub f).mod = tyCode f.ty :=
    (extract_lo (_ : BitVec 22) (tyCode f.ty) 0 4 (by omega)).trans (extract_all _)
  have rnd : modRnd (rawArith opc sub f).mod = rndCode f.rnd :=
    (extract_hi (_ : BitVec 22) (tyCode f.ty) 4 3 (by omega)).trans
      ((extract_lo (_ : BitVec 19) (rndCode f.rnd) 0 3 (by omega)).trans (extract_all _))
  have sat : modSat (rawArith opc sub f).mod = boolCode f.sat :=
    (extract_hi (_ : BitVec 22) (tyCode f.ty) 7 1 (by omega)).trans
      ((extract_hi (_ : BitVec 19) (rndCode f.rnd) 3 1 (by omega)).trans
        ((extract_lo (_ : BitVec 18) (boolCode f.sat) 0 1 (by omega)).trans (extract_all _)))
  have ftz : modFtz (rawArith opc sub f).mod = boolCode f.ftz :=
    (extract_hi (_ : BitVec 22) (tyCode f.ty) 8 1 (by omega)).trans
      ((extract_hi (_ : BitVec 19) (rndCode f.rnd) 4 1 (by omega)).trans
        ((extract_hi (_ : BitVec 18) (boolCode f.sat) 1 1 (by omega)).trans
        ((extract_lo (_ : BitVec 17) (boolCode f.ftz) 0 1 (by omega)).trans (extract_all _))))
  have hi : modHi (rawArith opc sub f).mod = f.hi :=
    (extract_hi (_ : BitVec 22) (tyCode f.ty) 10 16 (by omega)).trans
      ((extract_hi (_ : BitVec 19) (rndCode f.rnd) 6 16 (by omega)).trans
        ((extract_hi (_ : BitVec 18) (boolCode f.sat) 3 16 (by omega)).trans
        ((extract_hi (_ : BitVec 17) (boolCode f.ftz) 2 16 (by omega)).trans
        ((extract_hi f.hi (0#1) 1 16 (by omega)).trans (extract_all _)))))
  unfold arithOf
  rw [show headOf (rawArith opc sub f) = some f.h from headOf_rawHead _ _ _ _, ty, rnd, sat, ftz, hi]
  simp [boolCode_beq]

theorem cvtOf_rawCvt (opc : BitVec 10) (sub : BitVec 6) (f : CvtF) : cvtOf (rawCvt opc sub f) = some f := by
  have ty : modTy (rawCvt opc sub f).mod = tyCode f.dty :=
    (extract_lo (_ : BitVec 22) (tyCode f.dty) 0 4 (by omega)).trans (extract_all _)
  have rnd : modRnd (rawCvt opc sub f).mod = rndCode f.rnd :=
    (extract_hi (_ : BitVec 22) (tyCode f.dty) 4 3 (by omega)).trans
      ((extract_lo (_ : BitVec 19) (rndCode f.rnd) 0 3 (by omega)).trans (extract_all _))
  have sat : modSat (rawCvt opc sub f).mod = boolCode f.sat :=
    (extract_hi (_ : BitVec 22) (tyCode f.dty) 7 1 (by omega)).trans
      ((extract_hi (_ : BitVec 19) (rndCode f.rnd) 3 1 (by omega)).trans
        ((extract_lo (_ : BitVec 18) (boolCode f.sat) 0 1 (by omega)).trans (extract_all _)))
  have ftz : modFtz (rawCvt opc sub f).mod = boolCode f.ftz :=
    (extract_hi (_ : BitVec 22) (tyCode f.dty) 8 1 (by omega)).trans
      ((extract_hi (_ : BitVec 19) (rndCode f.rnd) 4 1 (by omega)).trans
        ((extract_hi (_ : BitVec 18) (boolCode f.sat) 1 1 (by omega)).trans
        ((extract_lo (_ : BitVec 17) (boolCode f.ftz) 0 1 (by omega)).trans (extract_all _))))
  have sty : modSty (rawCvt opc sub f).mod = tyCode f.sty :=
    (extract_hi (_ : BitVec 22) (tyCode f.dty) 10 4 (by omega)).trans
      ((extract_hi (_ : BitVec 19) (rndCode f.rnd) 6 4 (by omega)).trans
        ((extract_hi (_ : BitVec 18) (boolCode f.sat) 3 4 (by omega)).trans
        ((extract_hi (_ : BitVec 17) (boolCode f.ftz) 2 4 (by omega)).trans
        ((extract_hi (_ : BitVec 16) (0#1) 1 4 (by omega)).trans
        ((extract_lo (_ : BitVec 12) (tyCode f.sty) 0 4 (by omega)).trans (extract_all _))))))
  have esel : modEsel (rawCvt opc sub f).mod = f.esel :=
    (extract_hi (_ : BitVec 22) (tyCode f.dty) 14 3 (by omega)).trans
      ((extract_hi (_ : BitVec 19) (rndCode f.rnd) 10 3 (by omega)).trans
        ((extract_hi (_ : BitVec 18) (boolCode f.sat) 7 3 (by omega)).trans
        ((extract_hi (_ : BitVec 17) (boolCode f.ftz) 6 3 (by omega)).trans
        ((extract_hi (_ : BitVec 16) (0#1) 5 3 (by omega)).trans
        ((extract_hi (_ : BitVec 12) (tyCode f.sty) 4 3 (by omega)).trans
        ((extract_lo (0#9) f.esel 0 3 (by omega)).trans (extract_all _)))))))
  unfold cvtOf
  rw [show headOf (rawCvt opc sub f) = some f.h from headOf_rawHead _ _ _ _, ty, rnd, sat, ftz, sty, esel]
  simp [boolCode_beq]

theorem ctlOf_rawCtl (opc : BitVec 10) (sub : BitVec 6) (f : CtlF) : ctlOf (rawCtl opc sub f) = some f := by
  unfold ctlOf
  rw [show headOf (rawCtl opc sub f) = some f.h from headOf_rawHead _ _ _ _]
  rfl

theorem genOf_rawGen (opc : BitVec 10) (sub : BitVec 6) (f : GenF) : genOf (rawGen opc sub f) = some f := by
  have fl : modFlags (rawGen opc sub f).mod = f.flags :=
    (extract_lo (_ : BitVec 18) f.flags 0 8 (by omega)).trans (extract_all _)
  have rs : modRset (rawGen opc sub f).mod = f.rset :=
    (extract_hi (_ : BitVec 18) f.flags 10 4 (by omega)).trans
      ((extract_hi (_ : BitVec 16) (0#2) 2 4 (by omega)).trans
        ((extract_lo f.imm12 f.rset 0 4 (by omega)).trans (extract_all _)))
  have im : modImm12 (rawGen opc sub f).mod = f.imm12 :=
    (extract_hi (_ : BitVec 18) f.flags 14 12 (by omega)).trans
      ((extract_hi (_ : BitVec 16) (0#2) 6 12 (by omega)).trans
        ((extract_hi f.imm12 f.rset 4 12 (by omega)).trans (extract_all _)))
  unfold genOf
  rw [show headOf (rawGen opc sub f) = some f.h from headOf_rawHead _ _ _ _, fl, rs, im]
  rfl

theorem memOf_rawMem (opc : BitVec 10) (sub : BitVec 5) (f : MemF) : memOf (rawMem opc sub f) = some f := by
  have sz : modSize (rawMem opc sub f).mod = sizeCode f.size :=
    (extract_lo (_ : BitVec 23) (sizeCode f.size) 0 3 (by omega)).trans (extract_all _)
  have sp : modSpace (rawMem opc sub f).mod = spaceCode f.space :=
    (extract_hi (_ : BitVec 23) (sizeCode f.size) 3 2 (by omega)).trans
      ((extract_lo (_ : BitVec 21) (spaceCode f.space) 0 2 (by omega)).trans (extract_all _))
  have od : modOrd (rawMem opc sub f).mod = ordCode f.ord :=
    (extract_hi (_ : BitVec 23) (sizeCode f.size) 5 3 (by omega)).trans
      ((extract_hi (_ : BitVec 21) (spaceCode f.space) 2 3 (by omega)).trans
        ((extract_lo (_ : BitVec 18) (ordCode f.ord) 0 3 (by omega)).trans (extract_all _)))
  have ca : modCache (rawMem opc sub f).mod = keepCode f.cache :=
    (extract_hi (_ : BitVec 23) (sizeCode f.size) 14 2 (by omega)).trans
      ((extract_hi (_ : BitVec 21) (spaceCode f.space) 11 2 (by omega)).trans
        ((extract_hi (_ : BitVec 18) (ordCode f.ord) 9 2 (by omega)).trans
        ((extract_hi (_ : BitVec 16) ((scopeCode f.scope).extractLsb' 0 2) 6 2 (by omega)).trans
        ((extract_hi (_ : BitVec 12) f.rset 4 2 (by omega)).trans
        ((extract_lo f.off (keepCode f.cache) 0 2 (by omega)).trans (extract_all _))))))
  have rs : modRset (rawMem opc sub f).mod = f.rset :=
    (extract_hi (_ : BitVec 23) (sizeCode f.size) 10 4 (by omega)).trans
      ((extract_hi (_ : BitVec 21) (spaceCode f.space) 7 4 (by omega)).trans
        ((extract_hi (_ : BitVec 18) (ordCode f.ord) 5 4 (by omega)).trans
        ((extract_hi (_ : BitVec 16) ((scopeCode f.scope).extractLsb' 0 2) 2 4 (by omega)).trans
        ((extract_lo (_ : BitVec 12) f.rset 0 4 (by omega)).trans (extract_all _)))))
  have of : modOff (rawMem opc sub f).mod = f.off :=
    (extract_hi (_ : BitVec 23) (sizeCode f.size) 16 10 (by omega)).trans
      ((extract_hi (_ : BitVec 21) (spaceCode f.space) 13 10 (by omega)).trans
        ((extract_hi (_ : BitVec 18) (ordCode f.ord) 11 10 (by omega)).trans
        ((extract_hi (_ : BitVec 16) ((scopeCode f.scope).extractLsb' 0 2) 8 10 (by omega)).trans
        ((extract_hi (_ : BitVec 12) f.rset 6 10 (by omega)).trans
        ((extract_hi f.off (keepCode f.cache) 2 10 (by omega)).trans (extract_all _))))))
  have sl : modScope (rawMem opc sub f).mod = (scopeCode f.scope).extractLsb' 0 2 :=
    (extract_hi (_ : BitVec 23) (sizeCode f.size) 8 2 (by omega)).trans
      ((extract_hi (_ : BitVec 21) (spaceCode f.space) 5 2 (by omega)).trans
        ((extract_hi (_ : BitVec 18) (ordCode f.ord) 3 2 (by omega)).trans
        ((extract_lo (_ : BitVec 16) ((scopeCode f.scope).extractLsb' 0 2) 0 2 (by omega)).trans (extract_all _))))
  have sh : (rawMem opc sub f).sub.extractLsb' 5 1 = (scopeCode f.scope).extractLsb' 2 1 :=
    (extract_hi ((scopeCode f.scope).extractLsb' 2 1) sub 5 1 (by omega)).trans (extract_all _)
  have sc : scopeOf (rawScope (rawMem opc sub f)) = some f.scope := by
    unfold rawScope
    rw [sl, sh]
    cases f.scope <;> rfl
  unfold memOf
  rw [show headOf (rawMem opc sub f) = some f.h from headOf_rawHead _ _ _ _, sz, sp, od, ca, rs, of, sc]
  simp

/-- A word keeps every field. -/
theorem rawOfBits_rawBits (r : Raw) : rawOfBits (rawBits r) = r := by
  rcases r with ⟨opc, sub, dst, sa, sb, sc, pred, neg, hnt, m⟩
  have e0 : (rawBits ⟨opc, sub, dst, sa, sb, sc, pred, neg, hnt, m⟩).extractLsb' 0 10 = opc :=
    (extract_lo (_ : BitVec 86) opc 0 10 (by omega)).trans (extract_all _)
  have h1 : ∀ k l, (rawBits ⟨opc, sub, dst, sa, sb, sc, pred, neg, hnt, m⟩).extractLsb' (10 + k) l =
      ((m ++ hnt ++ neg ++ pred ++ sc ++ sb ++ sa ++ dst ++ sub : BitVec 86)).extractLsb' k l := fun k l => by
    refine (extract_hi (_ : BitVec 86) opc (10 + k) l (by omega)).trans ?_
    rw [show 10 + k - 10 = k by omega]
  have e1 := (h1 0 6).trans ((extract_lo (_ : BitVec 80) sub 0 6 (by omega)).trans (extract_all _))
  have h2 : ∀ k l, (rawBits ⟨opc, sub, dst, sa, sb, sc, pred, neg, hnt, m⟩).extractLsb' (10 + (6 + k)) l =
      ((m ++ hnt ++ neg ++ pred ++ sc ++ sb ++ sa ++ dst : BitVec 80)).extractLsb' k l := fun k l => by
    refine (h1 _ _).trans ((extract_hi (_ : BitVec 80) sub (6 + k) l (by omega)).trans ?_)
    rw [show 6 + k - 6 = k by omega]
  have e2 := (h2 0 10).trans ((extract_lo (_ : BitVec 70) dst 0 10 (by omega)).trans (extract_all _))
  have h3 : ∀ k l, (rawBits ⟨opc, sub, dst, sa, sb, sc, pred, neg, hnt, m⟩).extractLsb' (10 + (6 + (10 + k))) l =
      ((m ++ hnt ++ neg ++ pred ++ sc ++ sb ++ sa : BitVec 70)).extractLsb' k l := fun k l => by
    refine (h2 _ _).trans ((extract_hi (_ : BitVec 70) dst (10 + k) l (by omega)).trans ?_)
    rw [show 10 + k - 10 = k by omega]
  have e3 := (h3 0 10).trans ((extract_lo (_ : BitVec 60) sa 0 10 (by omega)).trans (extract_all _))
  have h4 : ∀ k l, (rawBits ⟨opc, sub, dst, sa, sb, sc, pred, neg, hnt, m⟩).extractLsb' (10 + (6 + (10 + (10 + k)))) l =
      ((m ++ hnt ++ neg ++ pred ++ sc ++ sb : BitVec 60)).extractLsb' k l := fun k l => by
    refine (h3 _ _).trans ((extract_hi (_ : BitVec 60) sa (10 + k) l (by omega)).trans ?_)
    rw [show 10 + k - 10 = k by omega]
  have e4 := (h4 0 10).trans ((extract_lo (_ : BitVec 50) sb 0 10 (by omega)).trans (extract_all _))
  have h5 : ∀ k l, (rawBits ⟨opc, sub, dst, sa, sb, sc, pred, neg, hnt, m⟩).extractLsb' (10 + (6 + (10 + (10 + (10 + k))))) l =
      ((m ++ hnt ++ neg ++ pred ++ sc : BitVec 50)).extractLsb' k l := fun k l => by
    refine (h4 _ _).trans ((extract_hi (_ : BitVec 50) sb (10 + k) l (by omega)).trans ?_)
    rw [show 10 + k - 10 = k by omega]
  have e5 := (h5 0 10).trans ((extract_lo (_ : BitVec 40) sc 0 10 (by omega)).trans (extract_all _))
  have h6 : ∀ k l, (rawBits ⟨opc, sub, dst, sa, sb, sc, pred, neg, hnt, m⟩).extractLsb' (10 + (6 + (10 + (10 + (10 + (10 + k)))))) l =
      ((m ++ hnt ++ neg ++ pred : BitVec 40)).extractLsb' k l := fun k l => by
    refine (h5 _ _).trans ((extract_hi (_ : BitVec 40) sc (10 + k) l (by omega)).trans ?_)
    rw [show 10 + k - 10 = k by omega]
  have e6 := (h6 0 5).trans ((extract_lo (_ : BitVec 35) pred 0 5 (by omega)).trans (extract_all _))
  have e7 := (h6 5 1).trans ((extract_hi (_ : BitVec 35) pred 5 1 (by omega)).trans
    ((extract_lo (_ : BitVec 34) neg 0 1 (by omega)).trans (extract_all _)))
  have e8 := (h6 6 8).trans ((extract_hi (_ : BitVec 35) pred 6 8 (by omega)).trans
    ((extract_hi (_ : BitVec 34) neg 1 8 (by omega)).trans ((extract_lo m hnt 0 8 (by omega)).trans (extract_all _))))
  have e9 := (h6 14 26).trans ((extract_hi (_ : BitVec 35) pred 14 26 (by omega)).trans
    ((extract_hi (_ : BitVec 34) neg 9 26 (by omega)).trans ((extract_hi m hnt 8 26 (by omega)).trans (extract_all _))))
  unfold rawOfBits
  simp only [Raw.mk.injEq]
  exact ⟨e0, e1, e2, e3, e4, e5, e6, e7, e8, e9⟩

theorem join_extract {n : Nat} (x : BitVec n) (k a b : Nat) :
    (x.extractLsb' (k + a) b ++ x.extractLsb' k a) = x.extractLsb' k (b + a) := by
  ext i hi
  simp only [BitVec.getElem_append, BitVec.getElem_extractLsb']
  split
  · rfl
  · congr 1; omega

/-- The fields make the word again. -/
theorem rawBits_rawOfBits (w : BitVec 96) : rawBits (rawOfBits w) = w := by
  have e1 : w.extractLsb' 70 26 ++ w.extractLsb' 62 8 = w.extractLsb' 62 34 := join_extract w 62 8 26
  have e2 : w.extractLsb' 62 34 ++ w.extractLsb' 61 1 = w.extractLsb' 61 35 := join_extract w 61 1 34
  have e3 : w.extractLsb' 61 35 ++ w.extractLsb' 56 5 = w.extractLsb' 56 40 := join_extract w 56 5 35
  have e4 : w.extractLsb' 56 40 ++ w.extractLsb' 46 10 = w.extractLsb' 46 50 := join_extract w 46 10 40
  have e5 : w.extractLsb' 46 50 ++ w.extractLsb' 36 10 = w.extractLsb' 36 60 := join_extract w 36 10 50
  have e6 : w.extractLsb' 36 60 ++ w.extractLsb' 26 10 = w.extractLsb' 26 70 := join_extract w 26 10 60
  have e7 : w.extractLsb' 26 70 ++ w.extractLsb' 16 10 = w.extractLsb' 16 80 := join_extract w 16 10 70
  have e8 : w.extractLsb' 16 80 ++ w.extractLsb' 10 6 = w.extractLsb' 10 86 := join_extract w 10 6 80
  have e9 : w.extractLsb' 10 86 ++ w.extractLsb' 0 10 = w.extractLsb' 0 96 := join_extract w 0 10 86
  unfold rawBits rawOfBits
  simp only []
  rw [e1, e2, e3, e4, e5, e6, e7, e8, e9]
  exact extract_all w

theorem instrOf_pfx (imm : DWord) : instrOf (rawOfBits (imm ++ 0#22 ++ 0x14B#10)) = some (.pfx imm) := by
  have o : (rawOfBits (imm ++ 0#22 ++ 0x14B#10)).opc = 0x14B#10 :=
    (extract_lo (_ : BitVec 86) (0x14B#10) 0 10 (by omega)).trans (extract_all _)
  have i : (imm ++ 0#22 ++ 0x14B#10 : BitVec 96).extractLsb' 32 64 = imm :=
    (extract_hi (_ : BitVec 86) (0x14B#10) 32 64 (by omega)).trans
      ((extract_hi imm (0#22) 22 64 (by omega)).trans (extract_all _))
  unfold instrOf
  rw [o, rawBits_rawOfBits, i]
  rfl

/-! ## The instruction that a layout's fields give -/

theorem instrOf_int (opc : BitVec 10) (sub : BitVec 6) (f : ArithF) (h : opc.toNat < 0x80) :
    instrOf (rawArith opc sub f) = instrInt opc.toNat sub.toNat f := by
  unfold instrOf
  rw [if_pos (show (rawArith opc sub f).opc.toNat < 0x80 from h), arithOf_rawArith]
  simp only [Option.bind_some, rawSub]
  rw [if_neg (show ¬(0x180 ≤ (rawArith opc sub f).opc.toNat ∧ _) from fun x => absurd (show 0x180 ≤ opc.toNat from x.1) (by omega))]
  rfl

theorem instrOf_float (opc : BitVec 10) (sub : BitVec 6) (f : ArithF) (l : 0x80 ≤ opc.toNat) (h : opc.toNat < 0xE0) :
    instrOf (rawArith opc sub f) = instrFloat opc.toNat sub.toNat f := by
  unfold instrOf
  rw [if_neg (show ¬(rawArith opc sub f).opc.toNat < 0x80 from by show ¬ opc.toNat < _; omega),
    if_pos (show (rawArith opc sub f).opc.toNat < 0xE0 from h), arithOf_rawArith]
  simp only [Option.bind_some, rawSub]
  rw [if_neg (show ¬(0x180 ≤ (rawArith opc sub f).opc.toNat ∧ _) from fun x => absurd (show 0x180 ≤ opc.toNat from x.1) (by omega))]
  rfl

theorem instrOf_cvt (opc : BitVec 10) (sub : BitVec 6) (f : CvtF) (l : 0xE0 ≤ opc.toNat) (h : opc.toNat < 0x100) :
    instrOf (rawCvt opc sub f) = instrCvt opc.toNat sub.toNat f := by
  unfold instrOf
  rw [if_neg (show ¬(rawCvt opc sub f).opc.toNat < 0x80 from by show ¬ opc.toNat < _; omega),
    if_neg (show ¬(rawCvt opc sub f).opc.toNat < 0xE0 from by show ¬ opc.toNat < _; omega),
    if_pos (show (rawCvt opc sub f).opc.toNat < 0x100 from h), cvtOf_rawCvt]
  simp only [Option.bind_some, rawSub]
  rw [if_neg (show ¬(0x180 ≤ (rawCvt opc sub f).opc.toNat ∧ _) from fun x => absurd (show 0x180 ≤ opc.toNat from x.1) (by omega))]
  rfl

theorem instrOf_lane (opc : BitVec 10) (sub : BitVec 6) (f : ArithF) (l : 0x100 ≤ opc.toNat) (h : opc.toNat < 0x140) :
    instrOf (rawArith opc sub f) = instrLane opc.toNat sub.toNat f := by
  unfold instrOf
  rw [if_neg (show ¬(rawArith opc sub f).opc.toNat < 0x80 from by show ¬ opc.toNat < _; omega),
    if_neg (show ¬(rawArith opc sub f).opc.toNat < 0xE0 from by show ¬ opc.toNat < _; omega),
    if_neg (show ¬(rawArith opc sub f).opc.toNat < 0x100 from by show ¬ opc.toNat < _; omega),
    if_pos (show (rawArith opc sub f).opc.toNat < 0x140 from h), arithOf_rawArith]
  simp only [Option.bind_some, rawSub]
  rw [if_neg (show ¬(0x180 ≤ (rawArith opc sub f).opc.toNat ∧ _) from fun x => absurd (show 0x180 ≤ opc.toNat from x.1) (by omega))]
  rfl

theorem instrOf_ctl (opc : BitVec 10) (sub : BitVec 6) (f : CtlF) (l : 0x140 ≤ opc.toNat) (h : opc.toNat < 0x180)
    (n : opc.toNat ≠ 0x14B) : instrOf (rawCtl opc sub f) = instrCtl opc.toNat sub.toNat f := by
  unfold instrOf
  rw [if_neg (show ¬(rawCtl opc sub f).opc.toNat < 0x80 from by show ¬ opc.toNat < _; omega),
    if_neg (show ¬(rawCtl opc sub f).opc.toNat < 0xE0 from by show ¬ opc.toNat < _; omega),
    if_neg (show ¬(rawCtl opc sub f).opc.toNat < 0x100 from by show ¬ opc.toNat < _; omega),
    if_neg (show ¬(rawCtl opc sub f).opc.toNat < 0x140 from by show ¬ opc.toNat < _; omega),
    if_neg (show ¬(rawCtl opc sub f).opc.toNat = 0x14B from n),
    if_pos (show (rawCtl opc sub f).opc.toNat < 0x180 from h), ctlOf_rawCtl]
  simp only [Option.bind_some, rawSub]
  rw [if_neg (show ¬(0x180 ≤ (rawCtl opc sub f).opc.toNat ∧ _) from fun x => absurd (show 0x180 ≤ opc.toNat from x.1) (by omega))]
  rfl

theorem mod32_append (x : BitVec 1) (y : BitVec 5) : (x ++ y : BitVec (1 + 5)).toNat % 32 = y.toNat := by
  revert x y; decide

theorem instrOf_mem (opc : BitVec 10) (sub : BitVec 5) (f : MemF) (l : 0x180 ≤ opc.toNat) (h : opc.toNat ≤ 0x20D) :
    instrOf (rawMem opc sub f) = instrMem opc.toNat sub.toNat f := by
  unfold instrOf
  rw [if_neg (show ¬(rawMem opc sub f).opc.toNat < 0x80 from by show ¬ opc.toNat < _; omega),
    if_neg (show ¬(rawMem opc sub f).opc.toNat < 0xE0 from by show ¬ opc.toNat < _; omega),
    if_neg (show ¬(rawMem opc sub f).opc.toNat < 0x100 from by show ¬ opc.toNat < _; omega),
    if_neg (show ¬(rawMem opc sub f).opc.toNat < 0x140 from by show ¬ opc.toNat < _; omega),
    if_neg (show ¬(rawMem opc sub f).opc.toNat = 0x14B from by show ¬ opc.toNat = _; omega),
    if_neg (show ¬(rawMem opc sub f).opc.toNat < 0x180 from by show ¬ opc.toNat < _; omega),
    if_pos (show (rawMem opc sub f).opc.toNat < 0x240 from by show opc.toNat < _; omega), memOf_rawMem]
  simp only [Option.bind_some, rawSub]
  rw [if_pos (show (0x180 ≤ (rawMem opc sub f).opc.toNat ∧ (rawMem opc sub f).opc.toNat ≤ 0x20D) from ⟨l, h⟩)]
  congr 1
  show (((scopeCode f.scope).extractLsb' 2 1 ++ sub : BitVec (1 + 5))).toNat % 32 = sub.toNat
  exact mod32_append _ _

theorem instrOf_gen (opc : BitVec 10) (sub : BitVec 6) (f : GenF) (l : 0x240 ≤ opc.toNat) :
    instrOf (rawGen opc sub f) = instrGen opc.toNat sub.toNat f := by
  unfold instrOf
  rw [if_neg (show ¬(rawGen opc sub f).opc.toNat < 0x80 from by show ¬ opc.toNat < _; omega),
    if_neg (show ¬(rawGen opc sub f).opc.toNat < 0xE0 from by show ¬ opc.toNat < _; omega),
    if_neg (show ¬(rawGen opc sub f).opc.toNat < 0x100 from by show ¬ opc.toNat < _; omega),
    if_neg (show ¬(rawGen opc sub f).opc.toNat < 0x140 from by show ¬ opc.toNat < _; omega),
    if_neg (show ¬(rawGen opc sub f).opc.toNat = 0x14B from by show ¬ opc.toNat = _; omega),
    if_neg (show ¬(rawGen opc sub f).opc.toNat < 0x180 from by show ¬ opc.toNat < _; omega),
    if_neg (show ¬(rawGen opc sub f).opc.toNat < 0x240 from by show ¬ opc.toNat < _; omega), genOf_rawGen]
  simp only [Option.bind_some, rawSub]
  rw [if_neg (show ¬(0x180 ≤ (rawGen opc sub f).opc.toNat ∧ (rawGen opc sub f).opc.toNat ≤ 0x20D) from fun x => absurd (show opc.toNat ≤ 0x20D from x.2) (by omega))]
  rfl

end Sys2Proof.Machine
end

