-- ==== Sys2Proof/Laws/Memory.lean ====
section
/-! SUPPORT. Laws of memory: a byte read after a write, and that every memory operation keeps the canonical form. -/

namespace Sys2Proof.Machine

theorem Memory.read_write (m : List Host.Cell) (a c : Nat) (b : Byte) :
    Memory.read (Memory.write m a b) c = if a = c then b else Memory.read m c := Tab.get_set 0 m a c b

@[simp] theorem Memory.read_write_same (m : List Host.Cell) (a : Nat) (b : Byte) :
    Memory.read (Memory.write m a b) a = b := by simp [Memory.read_write]

theorem Memory.wf_write (m : List Host.Cell) (a : Nat) (b : Byte) (h : Memory.wf m = true) :
    Memory.wf (Memory.write m a b) = true := Tab.wf_set 0 m a b h

/-- A fold of writes keeps the canonical form. -/
theorem Memory.wf_foldl {β : Type} (f : β → Nat) (g : β → Byte) (l : List β) (m : List Host.Cell)
    (h : Memory.wf m = true) : Memory.wf (l.foldl (fun t i => Memory.write t (f i) (g i)) m) = true := by
  induction l generalizing m with
  | nil => exact h
  | cons x t ih => exact ih _ (Memory.wf_write _ _ _ h)

/-- What a fold of writes to distinct addresses leaves, where the byte written is a function of the address. -/
theorem Memory.read_foldl (o : Nat) (g : Nat → Byte) (l : List Nat) (m : List Host.Cell) (c : Nat) :
    Memory.read (l.foldl (fun t i => Memory.write t (o + i) (g (o + i))) m) c =
      if c ∈ l.map (o + ·) then g c else Memory.read m c := by
  induction l generalizing m with
  | nil => simp
  | cons x t ih =>
    simp only [List.foldl_cons, ih, List.map_cons, List.mem_cons]
    by_cases h : c ∈ t.map (o + ·)
    · simp [h]
    · by_cases hx : o + x = c
      · subst hx; simp [h]
      · simp [h, Memory.read_write, hx, Ne.symm hx]

@[simp] theorem memOk_reset : MemOk State.reset := rfl

theorem memOk_paRekey (s : State) (slot a : Nat) (h : MemOk s) : MemOk (paRekey s slot a) := by
  unfold paRekey MemOk at *
  split
  · exact h
  · simp only []
    split
    · exact h
    · exact Memory.wf_foldl _ _ _ _ h

theorem memOk_paWrite (s : State) (slot a : Nat) (b : Byte) (h : MemOk s) : MemOk (paWrite s slot a b) :=
  Memory.wf_write _ _ _ (memOk_paRekey s slot a h)

theorem memOk_paWriteN (s : State) (slot a : Nat) (l : List Byte) (h : MemOk s) : MemOk (paWriteN s slot a l) := by
  induction l generalizing s a with
  | nil => exact h
  | cons b t ih => exact ih _ _ (memOk_paWrite s slot a b h)

theorem memOk_hostWrite (s : State) (a : Nat) (l : List Byte) (h : MemOk s) : MemOk (hostWrite s a l) :=
  memOk_paWriteN _ _ _ _ h

/-- Two states with the same memory are canonical together. -/
theorem memOk_of_mem {s t : State} (e : t.mem = s.mem) (h : MemOk s) : MemOk t := by
  unfold MemOk at *; rw [e]; exact h

end Sys2Proof.Machine
end

