-- ==== Sys2Proof/Laws/PerInstr.lean ====
section
/-! SUPPORT. For each constructor of Instr: the fields that the encoder gives an instruction are read back as that
instruction. An event has no fields. -/

namespace Sys2Proof.Laws.FieldsKept

open Sys2Proof.Machine

/-- What `rawOf` gives, `instrOf` reads back. -/
def Statement (i : Instr) : Prop := ∀ r, rawOf i = some r → instrOf r = some i

theorem event {i : Instr} (h : rawOf i = none) : Statement i := fun r e => by rw [h] at e; cases e

theorem nop (f : ArithF) : Statement (.nop f) := by
  intro r e; cases e; rw [instrOf_int _ _ _ (by decide)]; rfl
theorem mov (f : ArithF) : Statement (.mov f) := by
  intro r e; cases e; rw [instrOf_int _ _ _ (by decide)]; rfl
theorem sel (f : ArithF) : Statement (.sel f) := by
  intro r e; cases e; rw [instrOf_int _ _ _ (by decide)]; rfl
theorem lea (k : BitVec 3) (f : ArithF) : Statement (.lea k f) := by
  intro r e; cases e; rw [instrOf_int _ _ _ (by decide)]
  have h : ∀ x : BitVec 3, BitVec.ofNat 3 (0#3 ++ x : BitVec 6).toNat = x := by decide
  exact congrArg (fun x => some (Instr.lea x f)) (h k)
theorem iadd (f : ArithF) : Statement (.iadd f) := by
  intro r e; cases e; rw [instrOf_int _ _ _ (by decide)]; rfl
theorem isub (f : ArithF) : Statement (.isub f) := by
  intro r e; cases e; rw [instrOf_int _ _ _ (by decide)]; rfl
theorem iadd3 (f : ArithF) : Statement (.iadd3 f) := by
  intro r e; cases e; rw [instrOf_int _ _ _ (by decide)]; rfl
theorem iaddx (f : ArithF) : Statement (.iaddx f) := by
  intro r e; cases e; rw [instrOf_int _ _ _ (by decide)]; rfl
theorem iaddxCo (f : ArithF) : Statement (.iaddxCo f) := by
  intro r e; cases e; rw [instrOf_int _ _ _ (by decide)]; rfl
theorem imul (f : ArithF) : Statement (.imul f) := by
  intro r e; cases e; rw [instrOf_int _ _ _ (by decide)]; rfl
theorem imulh (f : ArithF) : Statement (.imulh f) := by
  intro r e; cases e; rw [instrOf_int _ _ _ (by decide)]; rfl
theorem imad (f : ArithF) : Statement (.imad f) := by
  intro r e; cases e; rw [instrOf_int _ _ _ (by decide)]; rfl
theorem imadw (f : ArithF) : Statement (.imadw f) := by
  intro r e; cases e; rw [instrOf_int _ _ _ (by decide)]; rfl
theorem idiv (f : ArithF) : Statement (.idiv f) := by
  intro r e; cases e; rw [instrOf_int _ _ _ (by decide)]; rfl
theorem irem (f : ArithF) : Statement (.irem f) := by
  intro r e; cases e; rw [instrOf_int _ _ _ (by decide)]; rfl
theorem imin (f : ArithF) : Statement (.imin f) := by
  intro r e; cases e; rw [instrOf_int _ _ _ (by decide)]; rfl
theorem imax (f : ArithF) : Statement (.imax f) := by
  intro r e; cases e; rw [instrOf_int _ _ _ (by decide)]; rfl
theorem iabs (f : ArithF) : Statement (.iabs f) := by
  intro r e; cases e; rw [instrOf_int _ _ _ (by decide)]; rfl
theorem ineg (f : ArithF) : Statement (.ineg f) := by
  intro r e; cases e; rw [instrOf_int _ _ _ (by decide)]; rfl
theorem isad (f : ArithF) : Statement (.isad f) := by
  intro r e; cases e; rw [instrOf_int _ _ _ (by decide)]; rfl
theorem idp4 (as : Bool) (bs : Bool) (f : ArithF) : Statement (.idp4 as bs f) := by
  intro r e; cases e; rw [instrOf_int _ _ _ (by decide)]; cases as <;> cases bs <;> rfl
theorem idp2 (as : Bool) (bs : Bool) (f : ArithF) : Statement (.idp2 as bs f) := by
  intro r e; cases e; rw [instrOf_int _ _ _ (by decide)]; cases as <;> cases bs <;> rfl
theorem icmp (c : ICond) (f : ArithF) : Statement (.icmp c f) := by
  intro r e; cases e; rw [instrOf_int _ _ _ (by decide)]; cases c <;> rfl
theorem iclamp (f : ArithF) : Statement (.iclamp f) := by
  intro r e; cases e; rw [instrOf_int _ _ _ (by decide)]; rfl
theorem and (f : ArithF) : Statement (.and f) := by
  intro r e; cases e; rw [instrOf_int _ _ _ (by decide)]; rfl
theorem or (f : ArithF) : Statement (.or f) := by
  intro r e; cases e; rw [instrOf_int _ _ _ (by decide)]; rfl
theorem xor (f : ArithF) : Statement (.xor f) := by
  intro r e; cases e; rw [instrOf_int _ _ _ (by decide)]; rfl
theorem not (f : ArithF) : Statement (.not f) := by
  intro r e; cases e; rw [instrOf_int _ _ _ (by decide)]; rfl
theorem andn (f : ArithF) : Statement (.andn f) := by
  intro r e; cases e; rw [instrOf_int _ _ _ (by decide)]; rfl
theorem bfn3 (f : ArithF) : Statement (.bfn3 f) := by
  intro r e; cases e; rw [instrOf_int _ _ _ (by decide)]; rfl
theorem shl (f : ArithF) : Statement (.shl f) := by
  intro r e; cases e; rw [instrOf_int _ _ _ (by decide)]; rfl
theorem shr (f : ArithF) : Statement (.shr f) := by
  intro r e; cases e; rw [instrOf_int _ _ _ (by decide)]; rfl
theorem sra (f : ArithF) : Statement (.sra f) := by
  intro r e; cases e; rw [instrOf_int _ _ _ (by decide)]; rfl
theorem rot (right : Bool) (f : ArithF) : Statement (.rot right f) := by
  intro r e; cases e; rw [instrOf_int _ _ _ (by decide)]; cases right <;> rfl
theorem shf (left : Bool) (f : ArithF) : Statement (.shf left f) := by
  intro r e; cases e; rw [instrOf_int _ _ _ (by decide)]; cases left <;> rfl
theorem bfx (f : ArithF) : Statement (.bfx f) := by
  intro r e; cases e; rw [instrOf_int _ _ _ (by decide)]; rfl
theorem bfi (f : ArithF) : Statement (.bfi f) := by
  intro r e; cases e; rw [instrOf_int _ _ _ (by decide)]; rfl
theorem popc (f : ArithF) : Statement (.popc f) := by
  intro r e; cases e; rw [instrOf_int _ _ _ (by decide)]; rfl
theorem clz (f : ArithF) : Statement (.clz f) := by
  intro r e; cases e; rw [instrOf_int _ _ _ (by decide)]; rfl
theorem ctz (f : ArithF) : Statement (.ctz f) := by
  intro r e; cases e; rw [instrOf_int _ _ _ (by decide)]; rfl
theorem brev (f : ArithF) : Statement (.brev f) := by
  intro r e; cases e; rw [instrOf_int _ _ _ (by decide)]; rfl
theorem bperm (f : ArithF) : Statement (.bperm f) := by
  intro r e; cases e; rw [instrOf_int _ _ _ (by decide)]; rfl
theorem pand (op : PandOp) (f : ArithF) : Statement (.pand op f) := by
  intro r e; cases e; rw [instrOf_int _ _ _ (by decide)]; cases op <;> rfl
theorem pmov (f : ArithF) : Statement (.pmov f) := by
  intro r e; cases e; rw [instrOf_int _ _ _ (by decide)]; rfl
theorem pmovMask (f : ArithF) : Statement (.pmovMask f) := by
  intro r e; cases e; rw [instrOf_int _ _ _ (by decide)]; rfl
theorem pmovBit (f : ArithF) : Statement (.pmovBit f) := by
  intro r e; cases e; rw [instrOf_int _ _ _ (by decide)]; rfl
theorem pmovNz (f : ArithF) : Statement (.pmovNz f) := by
  intro r e; cases e; rw [instrOf_int _ _ _ (by decide)]; rfl
theorem fadd (f : ArithF) : Statement (.fadd f) := by
  intro r e; cases e; rw [instrOf_float _ _ _ (by decide) (by decide)]; rfl
theorem fsub (f : ArithF) : Statement (.fsub f) := by
  intro r e; cases e; rw [instrOf_float _ _ _ (by decide) (by decide)]; rfl
theorem fmul (f : ArithF) : Statement (.fmul f) := by
  intro r e; cases e; rw [instrOf_float _ _ _ (by decide) (by decide)]; rfl
theorem ffma (f : ArithF) : Statement (.ffma f) := by
  intro r e; cases e; rw [instrOf_float _ _ _ (by decide) (by decide)]; rfl
theorem fmin (nan : Bool) (f : ArithF) : Statement (.fmin nan f) := by
  intro r e; cases e; rw [instrOf_float _ _ _ (by decide) (by decide)]; cases nan <;> rfl
theorem fmax (nan : Bool) (f : ArithF) : Statement (.fmax nan f) := by
  intro r e; cases e; rw [instrOf_float _ _ _ (by decide) (by decide)]; cases nan <;> rfl
theorem fcmp (c : FCond) (f : ArithF) : Statement (.fcmp c f) := by
  intro r e; cases e; rw [instrOf_float _ _ _ (by decide) (by decide)]; cases c <;> rfl
theorem fclass (f : ArithF) : Statement (.fclass f) := by
  intro r e; cases e; rw [instrOf_float _ _ _ (by decide) (by decide)]; rfl
theorem fscale (f : ArithF) : Statement (.fscale f) := by
  intro r e; cases e; rw [instrOf_float _ _ _ (by decide) (by decide)]; rfl
theorem fexpo (f : ArithF) : Statement (.fexpo f) := by
  intro r e; cases e; rw [instrOf_float _ _ _ (by decide) (by decide)]; rfl
theorem ffract (f : ArithF) : Statement (.ffract f) := by
  intro r e; cases e; rw [instrOf_float _ _ _ (by decide) (by decide)]; rfl
theorem fround (f : ArithF) : Statement (.fround f) := by
  intro r e; cases e; rw [instrOf_float _ _ _ (by decide) (by decide)]; rfl
theorem fdiv (f : ArithF) : Statement (.fdiv f) := by
  intro r e; cases e; rw [instrOf_float _ _ _ (by decide) (by decide)]; rfl
theorem fsqrt (f : ArithF) : Statement (.fsqrt f) := by
  intro r e; cases e; rw [instrOf_float _ _ _ (by decide) (by decide)]; rfl
theorem frcp (f : ArithF) : Statement (.frcp f) := by
  intro r e; cases e; rw [instrOf_float _ _ _ (by decide) (by decide)]; rfl
theorem frsq (f : ArithF) : Statement (.frsq f) := by
  intro r e; cases e; rw [instrOf_float _ _ _ (by decide) (by decide)]; rfl
theorem fex2 (f : ArithF) : Statement (.fex2 f) := by
  intro r e; cases e; rw [instrOf_float _ _ _ (by decide) (by decide)]; rfl
theorem flg2 (f : ArithF) : Statement (.flg2 f) := by
  intro r e; cases e; rw [instrOf_float _ _ _ (by decide) (by decide)]; rfl
theorem fsin (f : ArithF) : Statement (.fsin f) := by
  intro r e; cases e; rw [instrOf_float _ _ _ (by decide) (by decide)]; rfl
theorem fcos (f : ArithF) : Statement (.fcos f) := by
  intro r e; cases e; rw [instrOf_float _ _ _ (by decide) (by decide)]; rfl
theorem ftanh (f : ArithF) : Statement (.ftanh f) := by
  intro r e; cases e; rw [instrOf_float _ _ _ (by decide) (by decide)]; rfl
theorem hadd2 (f : ArithF) : Statement (.hadd2 f) := by
  intro r e; cases e; rw [instrOf_float _ _ _ (by decide) (by decide)]; rfl
theorem hmul2 (f : ArithF) : Statement (.hmul2 f) := by
  intro r e; cases e; rw [instrOf_float _ _ _ (by decide) (by decide)]; rfl
theorem hfma2 (f : ArithF) : Statement (.hfma2 f) := by
  intro r e; cases e; rw [instrOf_float _ _ _ (by decide) (by decide)]; rfl
theorem hmin2 (nan : Bool) (f : ArithF) : Statement (.hmin2 nan f) := by
  intro r e; cases e; rw [instrOf_float _ _ _ (by decide) (by decide)]; cases nan <;> rfl
theorem hmax2 (nan : Bool) (f : ArithF) : Statement (.hmax2 nan f) := by
  intro r e; cases e; rw [instrOf_float _ _ _ (by decide) (by decide)]; cases nan <;> rfl
theorem fdot2 (f : ArithF) : Statement (.fdot2 f) := by
  intro r e; cases e; rw [instrOf_float _ _ _ (by decide) (by decide)]; rfl
theorem fdot4 (mix : Bool) (f : ArithF) : Statement (.fdot4 mix f) := by
  intro r e; cases e; rw [instrOf_float _ _ _ (by decide) (by decide)]; cases mix <;> rfl
theorem cvt (f : CvtF) : Statement (.cvt f) := by
  intro r e; cases e; rw [instrOf_cvt _ _ _ (by decide) (by decide)]; rfl
theorem cvtp (k : BitVec 2) (f : CvtF) : Statement (.cvtp k f) := by
  intro r e; cases e; rw [instrOf_cvt _ _ _ (by decide) (by decide)]
  have h : ∀ x : BitVec 2, BitVec.ofNat 2 (0#4 ++ x : BitVec 6).toNat = x := by decide
  exact congrArg (fun x => some (Instr.cvtp x f)) (h k)
theorem cvtx (f : CvtF) : Statement (.cvtx f) := by
  intro r e; cases e; rw [instrOf_cvt _ _ _ (by decide) (by decide)]; rfl
theorem mxamax (f : CvtF) : Statement (.mxamax f) := by
  intro r e; cases e; rw [instrOf_cvt _ _ _ (by decide) (by decide)]; rfl
theorem mxscale (f : CvtF) : Statement (.mxscale f) := by
  intro r e; cases e; rw [instrOf_cvt _ _ _ (by decide) (by decide)]; rfl
theorem mxq (f : CvtF) : Statement (.mxq f) := by
  intro r e; cases e; rw [instrOf_cvt _ _ _ (by decide) (by decide)]; rfl
theorem mxdq (f : CvtF) : Statement (.mxdq f) := by
  intro r e; cases e; rw [instrOf_cvt _ _ _ (by decide) (by decide)]; rfl
theorem shfl (m : ShflMode) (f : ArithF) : Statement (.shfl m f) := by
  intro r e; cases e; rw [instrOf_lane _ _ _ (by decide) (by decide)]; cases m <;> rfl
theorem vote (op : VoteOp) (f : ArithF) : Statement (.vote op f) := by
  intro r e; cases e; rw [instrOf_lane _ _ _ (by decide) (by decide)]; cases op <;> rfl
theorem voteBits (f : ArithF) : Statement (.voteBits f) := by
  intro r e; cases e; rw [instrOf_lane _ _ _ (by decide) (by decide)]; rfl
theorem matchLanes (f : ArithF) : Statement (.matchLanes f) := by
  intro r e; cases e; rw [instrOf_lane _ _ _ (by decide) (by decide)]; rfl
theorem redux (op : ReduxOp) (f : ArithF) : Statement (.redux op f) := by
  intro r e; cases e; rw [instrOf_lane _ _ _ (by decide) (by decide)]; cases op <;> rfl
theorem scan (op : ScanOp) (f : ArithF) : Statement (.scan op f) := by
  intro r e; cases e; rw [instrOf_lane _ _ _ (by decide) (by decide)]; cases op <;> rfl
theorem elect (f : ArithF) : Statement (.elect f) := by
  intro r e; cases e; rw [instrOf_lane _ _ _ (by decide) (by decide)]; rfl
theorem lget (f : ArithF) : Statement (.lget f) := by
  intro r e; cases e; rw [instrOf_lane _ _ _ (by decide) (by decide)]; rfl
theorem lput (f : ArithF) : Statement (.lput f) := by
  intro r e; cases e; rw [instrOf_lane _ _ _ (by decide) (by decide)]; rfl
theorem lmask (op : LmaskOp) (f : ArithF) : Statement (.lmask op f) := by
  intro r e; cases e; rw [instrOf_lane _ _ _ (by decide) (by decide)]; cases op <;> rfl
theorem bra (f : CtlF) : Statement (.bra f) := by
  intro r e; cases e; rw [instrOf_ctl _ _ _ (by decide) (by decide) (by decide)]; rfl
theorem braAbs (f : CtlF) : Statement (.braAbs f) := by
  intro r e; cases e; rw [instrOf_ctl _ _ _ (by decide) (by decide) (by decide)]; rfl
theorem brx (f : CtlF) : Statement (.brx f) := by
  intro r e; cases e; rw [instrOf_ctl _ _ _ (by decide) (by decide) (by decide)]; rfl
theorem call (f : CtlF) : Statement (.call f) := by
  intro r e; cases e; rw [instrOf_ctl _ _ _ (by decide) (by decide) (by decide)]; rfl
theorem callAbs (f : CtlF) : Statement (.callAbs f) := by
  intro r e; cases e; rw [instrOf_ctl _ _ _ (by decide) (by decide) (by decide)]; rfl
theorem callx (f : CtlF) : Statement (.callx f) := by
  intro r e; cases e; rw [instrOf_ctl _ _ _ (by decide) (by decide) (by decide)]; rfl
theorem ret (f : CtlF) : Statement (.ret f) := by
  intro r e; cases e; rw [instrOf_ctl _ _ _ (by decide) (by decide) (by decide)]; rfl
theorem wsync (f : CtlF) : Statement (.wsync f) := by
  intro r e; cases e; rw [instrOf_ctl _ _ _ (by decide) (by decide) (by decide)]; rfl
theorem yld (f : CtlF) : Statement (.yld f) := by
  intro r e; cases e; rw [instrOf_ctl _ _ _ (by decide) (by decide) (by decide)]; rfl
theorem exit (f : CtlF) : Statement (.exit f) := by
  intro r e; cases e; rw [instrOf_ctl _ _ _ (by decide) (by decide) (by decide)]; rfl
theorem trap (f : CtlF) : Statement (.trap f) := by
  intro r e; cases e; rw [instrOf_ctl _ _ _ (by decide) (by decide) (by decide)]; rfl
theorem brkpt (f : CtlF) : Statement (.brkpt f) := by
  intro r e; cases e; rw [instrOf_ctl _ _ _ (by decide) (by decide) (by decide)]; rfl
theorem pfx (imm : DWord) : Statement (.pfx imm) := by
  intro r e; cases e; exact instrOf_pfx imm
theorem beat (f : CtlF) : Statement (.beat f) := by
  intro r e; cases e; rw [instrOf_ctl _ _ _ (by decide) (by decide) (by decide)]; rfl
theorem ld (sx : Bool) (f : MemF) : Statement (.ld sx f) := by
  intro r e; cases e; rw [instrOf_mem _ _ _ (by decide) (by decide)]; cases sx <;> rfl
theorem st (f : MemF) : Statement (.st f) := by
  intro r e; cases e; rw [instrOf_mem _ _ _ (by decide) (by decide)]; rfl
theorem lds (sx : Bool) (f : MemF) : Statement (.lds sx f) := by
  intro r e; cases e; rw [instrOf_mem _ _ _ (by decide) (by decide)]; cases sx <;> rfl
theorem sts (f : MemF) : Statement (.sts f) := by
  intro r e; cases e; rw [instrOf_mem _ _ _ (by decide) (by decide)]; rfl
theorem ldc (sx : Bool) (f : MemF) : Statement (.ldc sx f) := by
  intro r e; cases e; rw [instrOf_mem _ _ _ (by decide) (by decide)]; cases sx <;> rfl
theorem pref (lvl : PrefLevel) (f : MemF) : Statement (.pref lvl f) := by
  intro r e; cases e; rw [instrOf_mem _ _ _ (by decide) (by decide)]; cases lvl <;> rfl
theorem stm (f : MemF) : Statement (.stm f) := by
  intro r e; cases e; rw [instrOf_mem _ _ _ (by decide) (by decide)]; rfl
theorem sete (f : MemF) : Statement (.sete f) := by
  intro r e; cases e; rw [instrOf_mem _ _ _ (by decide) (by decide)]; rfl
theorem setf (f : MemF) : Statement (.setf f) := by
  intro r e; cases e; rw [instrOf_mem _ _ _ (by decide) (by decide)]; rfl
theorem ldfe (f : MemF) : Statement (.ldfe f) := by
  intro r e; cases e; rw [instrOf_mem _ _ _ (by decide) (by decide)]; rfl
theorem atom (op : AtomOp) (f : MemF) : Statement (.atom op f) := by
  intro r e; cases e; rw [instrOf_mem _ _ _ (by decide) (by decide)]; cases op <;> rfl
theorem acas (f : MemF) : Statement (.acas f) := by
  intro r e; cases e; rw [instrOf_mem _ _ _ (by decide) (by decide)]; rfl
theorem red (op : AtomOp) (f : MemF) : Statement (.red op f) := by
  intro r e; cases e; rw [instrOf_mem _ _ _ (by decide) (by decide)]; cases op <;> rfl
theorem atoms (op : AtomOp) (f : MemF) : Statement (.atoms op f) := by
  intro r e; cases e; rw [instrOf_mem _ _ _ (by decide) (by decide)]; cases op <;> rfl
theorem acass (f : MemF) : Statement (.acass f) := by
  intro r e; cases e; rw [instrOf_mem _ _ _ (by decide) (by decide)]; rfl
theorem reds (op : AtomOp) (f : MemF) : Statement (.reds op f) := by
  intro r e; cases e; rw [instrOf_mem _ _ _ (by decide) (by decide)]; cases op <;> rfl
theorem fence (f : MemF) : Statement (.fence f) := by
  intro r e; cases e; rw [instrOf_mem _ _ _ (by decide) (by decide)]; rfl
theorem sinv (f : MemF) : Statement (.sinv f) := by
  intro r e; cases e; rw [instrOf_mem _ _ _ (by decide) (by decide)]; rfl
theorem drainInsn (f : MemF) : Statement (.drainInsn f) := by
  intro r e; cases e; rw [instrOf_mem _ _ _ (by decide) (by decide)]; rfl
theorem racq (f : MemF) : Statement (.racq f) := by
  intro r e; cases e; rw [instrOf_mem _ _ _ (by decide) (by decide)]; rfl
theorem rrel (f : MemF) : Statement (.rrel f) := by
  intro r e; cases e; rw [instrOf_mem _ _ _ (by decide) (by decide)]; rfl
theorem rtst (f : MemF) : Statement (.rtst f) := by
  intro r e; cases e; rw [instrOf_mem _ _ _ (by decide) (by decide)]; rfl
theorem mon (f : MemF) : Statement (.mon f) := by
  intro r e; cases e; rw [instrOf_mem _ _ _ (by decide) (by decide)]; rfl
theorem mwait (f : MemF) : Statement (.mwait f) := by
  intro r e; cases e; rw [instrOf_mem _ _ _ (by decide) (by decide)]; rfl
theorem bar (f : MemF) : Statement (.bar f) := by
  intro r e; cases e; rw [instrOf_mem _ _ _ (by decide) (by decide)]; rfl
theorem gbar (f : MemF) : Statement (.gbar f) := by
  intro r e; cases e; rw [instrOf_mem _ _ _ (by decide) (by decide)]; rfl
theorem tbinit (f : MemF) : Statement (.tbinit f) := by
  intro r e; cases e; rw [instrOf_mem _ _ _ (by decide) (by decide)]; rfl
theorem tbarr (f : MemF) : Statement (.tbarr f) := by
  intro r e; cases e; rw [instrOf_mem _ _ _ (by decide) (by decide)]; rfl
theorem tbarrRem (f : MemF) : Statement (.tbarrRem f) := by
  intro r e; cases e; rw [instrOf_mem _ _ _ (by decide) (by decide)]; rfl
theorem tbwait (f : MemF) : Statement (.tbwait f) := by
  intro r e; cases e; rw [instrOf_mem _ _ _ (by decide) (by decide)]; rfl
theorem spawn (f : GenF) : Statement (.spawn f) := by
  intro r e; cases e; rw [instrOf_gen _ _ _ (by decide)]; rfl
theorem qrsv (f : GenF) : Statement (.qrsv f) := by
  intro r e; cases e; rw [instrOf_gen _ _ _ (by decide)]; rfl
theorem qpub (f : GenF) : Statement (.qpub f) := by
  intro r e; cases e; rw [instrOf_gen _ _ _ (by decide)]; rfl
theorem qpop (f : GenF) : Statement (.qpop f) := by
  intro r e; cases e; rw [instrOf_gen _ _ _ (by decide)]; rfl
theorem qpopTry (f : GenF) : Statement (.qpopTry f) := by
  intro r e; cases e; rw [instrOf_gen _ _ _ (by decide)]; rfl
theorem qsteal (f : GenF) : Statement (.qsteal f) := by
  intro r e; cases e; rw [instrOf_gen _ _ _ (by decide)]; rfl
theorem qinfo (f : GenF) : Statement (.qinfo f) := by
  intro r e; cases e; rw [instrOf_gen _ _ _ (by decide)]; rfl
theorem qinfoBase (f : GenF) : Statement (.qinfoBase f) := by
  intro r e; cases e; rw [instrOf_gen _ _ _ (by decide)]; rfl
theorem cont (f : GenF) : Statement (.cont f) := by
  intro r e; cases e; rw [instrOf_gen _ _ _ (by decide)]; rfl
theorem mig (f : GenF) : Statement (.mig f) := by
  intro r e; cases e; rw [instrOf_gen _ _ _ (by decide)]; rfl
theorem migTry (f : GenF) : Statement (.migTry f) := by
  intro r e; cases e; rw [instrOf_gen _ _ _ (by decide)]; rfl
theorem dsig (f : GenF) : Statement (.dsig f) := by
  intro r e; cases e; rw [instrOf_gen _ _ _ (by decide)]; rfl
theorem mmx (f : GenF) : Statement (.mmx f) := by
  intro r e; cases e; rw [instrOf_gen _ _ _ (by decide)]; rfl
theorem mmz (f : GenF) : Statement (.mmz f) := by
  intro r e; cases e; rw [instrOf_gen _ _ _ (by decide)]; rfl
theorem mepi (f : GenF) : Statement (.mepi f) := by
  intro r e; cases e; rw [instrOf_gen _ _ _ (by decide)]; rfl
theorem mldA2s (f : GenF) : Statement (.mldA2s f) := by
  intro r e; cases e; rw [instrOf_gen _ _ _ (by decide)]; rfl
theorem mldS2a (f : GenF) : Statement (.mldS2a f) := by
  intro r e; cases e; rw [instrOf_gen _ _ _ (by decide)]; rfl
theorem cpyLd (f : GenF) : Statement (.cpyLd f) := by
  intro r e; cases e; rw [instrOf_gen _ _ _ (by decide)]; rfl
theorem cpySt (f : GenF) : Statement (.cpySt f) := by
  intro r e; cases e; rw [instrOf_gen _ _ _ (by decide)]; rfl
theorem cpym (f : GenF) : Statement (.cpym f) := by
  intro r e; cases e; rw [instrOf_gen _ _ _ (by decide)]; rfl
theorem bcpy (f : GenF) : Statement (.bcpy f) := by
  intro r e; cases e; rw [instrOf_gen _ _ _ (by decide)]; rfl
theorem bcpyReg (f : GenF) : Statement (.bcpyReg f) := by
  intro r e; cases e; rw [instrOf_gen _ _ _ (by decide)]; rfl
theorem wmv (f : GenF) : Statement (.wmv f) := by
  intro r e; cases e; rw [instrOf_gen _ _ _ (by decide)]; rfl
theorem wld (f : GenF) : Statement (.wld f) := by
  intro r e; cases e; rw [instrOf_gen _ _ _ (by decide)]; rfl
theorem ewait (f : GenF) : Statement (.ewait f) := by
  intro r e; cases e; rw [instrOf_gen _ _ _ (by decide)]; rfl
theorem evpop (f : GenF) : Statement (.evpop f) := by
  intro r e; cases e; rw [instrOf_gen _ _ _ (by decide)]; rfl
theorem capr (f : GenF) : Statement (.capr f) := by
  intro r e; cases e; rw [instrOf_gen _ _ _ (by decide)]; rfl
theorem ctlr (f : GenF) : Statement (.ctlr f) := by
  intro r e; cases e; rw [instrOf_gen _ _ _ (by decide)]; rfl
theorem ctlw (f : GenF) : Statement (.ctlw f) := by
  intro r e; cases e; rw [instrOf_gen _ _ _ (by decide)]; rfl
theorem tretRe (f : GenF) : Statement (.tretRe f) := by
  intro r e; cases e; rw [instrOf_gen _ _ _ (by decide)]; rfl
theorem tretSkipf (f : GenF) : Statement (.tretSkipf f) := by
  intro r e; cases e; rw [instrOf_gen _ _ _ (by decide)]; rfl
theorem tretSkip (f : GenF) : Statement (.tretSkip f) := by
  intro r e; cases e; rw [instrOf_gen _ _ _ (by decide)]; rfl
theorem atinv (f : GenF) : Statement (.atinv f) := by
  intro r e; cases e; rw [instrOf_gen _ _ _ (by decide)]; rfl
theorem atinvForce (f : GenF) : Statement (.atinvForce f) := by
  intro r e; cases e; rw [instrOf_gen _ _ _ (by decide)]; rfl
theorem lsave (f : GenF) : Statement (.lsave f) := by
  intro r e; cases e; rw [instrOf_gen _ _ _ (by decide)]; rfl
theorem lrest (f : GenF) : Statement (.lrest f) := by
  intro r e; cases e; rw [instrOf_gen _ _ _ (by decide)]; rfl
theorem whalt (f : GenF) : Statement (.whalt f) := by
  intro r e; cases e; rw [instrOf_gen _ _ _ (by decide)]; rfl
theorem whaltGroup (f : GenF) : Statement (.whaltGroup f) := by
  intro r e; cases e; rw [instrOf_gen _ _ _ (by decide)]; rfl
theorem csleep (f : GenF) : Statement (.csleep f) := by
  intro r e; cases e; rw [instrOf_gen _ _ _ (by decide)]; rfl
theorem keydrop (f : GenF) : Statement (.keydrop f) := by
  intro r e; cases e; rw [instrOf_gen _ _ _ (by decide)]; rfl
theorem deferredTrapTaken (w : Nat) : Statement (.deferredTrapTaken w) := event rfl
theorem groupHaltArrival (w : Nat) (stop : Bool) : Statement (.groupHaltArrival w stop) := event rfl
theorem pathPromotion (w : Nat) : Statement (.pathPromotion w) := event rfl
theorem joinTimeout (w : Nat) (slot : Nat) : Statement (.joinTimeout w slot) := event rfl
theorem emptyLineFilled (core : Nat) (line : Nat) : Statement (.emptyLineFilled core line) := event rfl
theorem mwaitWake (w : Nat) (slot : Nat) (code : Nat) : Statement (.mwaitWake w slot code) := event rfl
theorem qpopWake (w : Nat) (slot : Nat) : Statement (.qpopWake w slot) := event rfl
theorem csleepWake (w : Nat) (slot : Nat) (code : Nat) : Statement (.csleepWake w slot code) := event rfl
theorem gbarArrival (n : Nat) : Statement (.gbarArrival n) := event rfl
theorem gbarDeparture (n : Nat) : Statement (.gbarDeparture n) := event rfl
theorem tbarrRemoteArrival (n : Nat) : Statement (.tbarrRemoteArrival n) := event rfl
theorem tbwaitReturn (w : Nat) (slot : Nat) : Statement (.tbwaitReturn w slot) := event rfl
theorem migArrival (w : Nat) : Statement (.migArrival w) := event rfl
theorem migLandingSlotFree (w : Nat) (slot : Nat) : Statement (.migLandingSlotFree w slot) := event rfl
theorem engineCmdStart (core : Nat) (tag : Nat) : Statement (.engineCmdStart core tag) := event rfl
theorem engineCmdComplete (core : Nat) (tag : Nat) : Statement (.engineCmdComplete core tag) := event rfl
theorem cpymReceiverWrite (n : Nat) : Statement (.cpymReceiverWrite n) := event rfl
theorem wdieOperationServe (wdie : Nat) (slot : Nat) : Statement (.wdieOperationServe wdie slot) := event rfl
theorem rd (n : Nat) : Statement (.rd n) := event rfl
theorem data (n : Nat) : Statement (.data n) := event rfl
theorem regReq (n : Nat) : Statement (.regReq n) := event rfl
theorem regAck (n : Nat) : Statement (.regAck n) := event rfl
theorem wb (n : Nat) : Statement (.wb n) := event rfl
theorem fwd (n : Nat) : Statement (.fwd n) := event rfl
theorem gone (n : Nat) : Statement (.gone n) := event rfl
theorem recallWord (n : Nat) : Statement (.recallWord n) := event rfl
theorem dmark (n : Nat) : Statement (.dmark n) := event rfl
theorem dmarkAck (n : Nat) : Statement (.dmarkAck n) := event rfl
theorem relinq (n : Nat) : Statement (.relinq n) := event rfl
theorem rel (n : Nat) : Statement (.rel n) := event rfl
theorem acq (n : Nat) : Statement (.acq n) := event rfl
theorem acqRsp (n : Nat) : Statement (.acqRsp n) := event rfl
theorem drain (n : Nat) : Statement (.drain n) := event rfl
theorem armed (n : Nat) : Statement (.armed n) := event rfl
theorem tokAcq (n : Nat) : Statement (.tokAcq n) := event rfl
theorem tokRel (n : Nat) : Statement (.tokRel n) := event rfl
theorem tokGrant (n : Nat) : Statement (.tokGrant n) := event rfl
theorem replWr (n : Nat) : Statement (.replWr n) := event rfl
theorem regSet (n : Nat) : Statement (.regSet n) := event rfl
theorem held (n : Nat) : Statement (.held n) := event rfl
theorem heldResend (k : Nat) : Statement (.heldResend k) := event rfl
theorem responseTimeout (k : Nat) : Statement (.responseTimeout k) := event rfl
theorem regionMergeCheck (node : Nat) : Statement (.regionMergeCheck node) := event rfl
theorem wtLineTimeout (node : Nat) (k : Nat) : Statement (.wtLineTimeout node k) := event rfl
theorem flowMessageArrival (a : Arrival) (ack : Bool) : Statement (.flowMessageArrival a ack) := event rfl
theorem flowPathFail (k : Nat) : Statement (.flowPathFail k) := event rfl
theorem hubForward (hub : Nat) (n : Nat) : Statement (.hubForward hub n) := event rfl
theorem go (value : Word) : Statement (.go value) := event rfl
theorem moveMark (n : Nat) : Statement (.moveMark n) := event rfl
theorem markAck (n : Nat) : Statement (.markAck n) := event rfl
theorem handoffEnd (n : Nat) : Statement (.handoffEnd n) := event rfl
theorem commit (n : Nat) : Statement (.commit n) := event rfl
theorem redirect (n : Nat) : Statement (.redirect n) := event rfl
theorem flowReset (n : Nat) : Statement (.flowReset n) := event rfl
theorem debugHold (n : Nat) : Statement (.debugHold n) := event rfl
theorem debugHoldClear (n : Nat) : Statement (.debugHoldClear n) := event rfl
theorem ptimeStamp (node : Nat) (delay : Int) : Statement (.ptimeStamp node delay) := event rfl
theorem ptimeStampMissed (node : Nat) : Statement (.ptimeStampMissed node) := event rfl
theorem ptimeSourceTakeover  : Statement .ptimeSourceTakeover := event rfl
theorem leaseRequest (n : Nat) : Statement (.leaseRequest n) := event rfl
theorem leaseGrant (n : Nat) : Statement (.leaseGrant n) := event rfl
theorem leaseFaultAnswer (n : Nat) : Statement (.leaseFaultAnswer n) := event rfl
theorem leaseWaitGranted (node : Nat) (k : Nat) : Statement (.leaseWaitGranted node k) := event rfl
theorem leaseRenewDue (node : Nat) (k : Nat) : Statement (.leaseRenewDue node k) := event rfl
theorem renew (n : Nat) : Statement (.renew n) := event rfl
theorem renewed (n : Nat) : Statement (.renewed n) := event rfl
theorem leaseLostAnswer (n : Nat) : Statement (.leaseLostAnswer n) := event rfl
theorem leaseHolderExpiry (node : Nat) (k : Nat) : Statement (.leaseHolderExpiry node k) := event rfl
theorem leaseGrantorExpiry (node : Nat) (k : Nat) : Statement (.leaseGrantorExpiry node k) := event rfl
theorem faultRecordPost  : Statement .faultRecordPost := event rfl
theorem resolved (seq : Word) : Statement (.resolved seq) := event rfl
theorem denied (seq : Word) : Statement (.denied seq) := event rfl
theorem enqueueWindowWrite (func : Nat) (off : Nat) (bytes : List Byte) : Statement (.enqueueWindowWrite func off bytes) := event rfl
theorem configRequestRetry (hub : Nat) : Statement (.configRequestRetry hub) := event rfl
theorem ctxCreate (func : Nat) (cmd : Word) : Statement (.ctxCreate func cmd) := event rfl
theorem ctxDestroy (func : Nat) (cmd : Word) : Statement (.ctxDestroy func cmd) := event rfl
theorem keyDestruction (n : Nat) : Statement (.keyDestruction n) := event rfl
theorem attReport (func : Nat) (ok : Bool) : Statement (.attReport func ok) := event rfl
theorem attCert (func : Nat) (ok : Bool) : Statement (.attCert func ok) := event rfl
theorem imgStage (ok : Bool) : Statement (.imgStage ok) := event rfl
theorem imgLifecycle (ok : Bool) : Statement (.imgLifecycle ok) := event rfl
theorem imgRecover (ok : Bool) : Statement (.imgRecover ok) := event rfl
theorem advanceCommit  : Statement .advanceCommit := event rfl
theorem hctlValWrite (func : Nat) (value : DWord) : Statement (.hctlValWrite func value) := event rfl
theorem hctlValRead (func : Nat) : Statement (.hctlValRead func) := event rfl
theorem queueCreate (asid : Nat) (cmd : DWord) : Statement (.queueCreate asid cmd) := event rfl
theorem queueDestroy (asid : Nat) (cmd : DWord) : Statement (.queueDestroy asid cmd) := event rfl
theorem flush (n : Nat) : Statement (.flush n) := event rfl
theorem quarantineEnd (node : Nat) (index : Nat) : Statement (.quarantineEnd node index) := event rfl
theorem tokenCreate (asid : Nat) (cmd : DWord) : Statement (.tokenCreate asid cmd) := event rfl
theorem tokenDestroy (asid : Nat) (cmd : DWord) : Statement (.tokenDestroy asid cmd) := event rfl
theorem ctxLeaseWrite (asid : Nat) (k : Nat) (value : DWord) : Statement (.ctxLeaseWrite asid k value) := event rfl
theorem ctxTtypeWrite (asid : Nat) (value : DWord) : Statement (.ctxTtypeWrite asid value) := event rfl
theorem schedStop (asid : Nat) : Statement (.schedStop asid) := event rfl
theorem schedRun (asid : Nat) : Statement (.schedRun asid) := event rfl
theorem schedReset (asid : Nat) : Statement (.schedReset asid) := event rfl
theorem dbgHalt (asid : Nat) : Statement (.dbgHalt asid) := event rfl
theorem dbgResume (asid : Nat) : Statement (.dbgResume asid) := event rfl
theorem dieHalt (die : Nat) : Statement (.dieHalt die) := event rfl
theorem dieResume (die : Nat) : Statement (.dieResume die) := event rfl
theorem clusterWrite (value : Word) : Statement (.clusterWrite value) := event rfl
theorem clusterMoveComplete  : Statement .clusterMoveComplete := event rfl
theorem isolate (node : Nat) : Statement (.isolate node) := event rfl
theorem next (node : Nat) : Statement (.next node) := event rfl
theorem readmit (node : Nat) : Statement (.readmit node) := event rfl
theorem abort (node : Nat) : Statement (.abort node) := event rfl
theorem svcDrainComplete  : Statement .svcDrainComplete := event rfl
theorem wipeComplete  : Statement .wipeComplete := event rfl
theorem selfTestDone (pass : Bool) : Statement (.selfTestDone pass) := event rfl
theorem dieTaskUnitReady  : Statement .dieTaskUnitReady := event rfl
theorem unplannedDieReset (node : Nat) : Statement (.unplannedDieReset node) := event rfl
theorem freqWrite (die : Nat) (freq : BitVec 6) : Statement (.freqWrite die freq) := event rfl
theorem relockEnd (die : Nat) : Statement (.relockEnd die) := event rfl
theorem pwrCapWrite (cap : BitVec 16) : Statement (.pwrCapWrite cap) := event rfl
theorem powerCapWindow (avg : BitVec 16) : Statement (.powerCapWindow avg) := event rfl
theorem thermalCeilingStep (die : Nat) (celsius : Nat) : Statement (.thermalCeilingStep die celsius) := event rfl
theorem thermalTrip (die : Nat) (celsius : Nat) : Statement (.thermalTrip die celsius) := event rfl
theorem supplyLow (volt : Nat) : Statement (.supplyLow volt) := event rfl
theorem supplyLimitClear  : Statement .supplyLimitClear := event rfl
theorem supplyDip  : Statement .supplyDip := event rfl
theorem supplyFaultLow  : Statement .supplyFaultLow := event rfl
theorem supplyHigh (volt : Nat) : Statement (.supplyHigh volt) := event rfl
theorem supplyFaultHigh  : Statement .supplyFaultHigh := event rfl
theorem supplyOvervoltage  : Statement .supplyOvervoltage := event rfl
theorem supplyRestored  : Statement .supplyRestored := event rfl
theorem moduleReset  : Statement .moduleReset := event rfl
theorem linkTrainingComplete (g : LinkGroup) (failed : List Nat) : Statement (.linkTrainingComplete g failed) := event rfl
theorem moduleWipeComplete (far : Bool) : Statement (.moduleWipeComplete far) := event rfl
theorem modReadySet  : Statement .modReadySet := event rfl
theorem ucieModuleFail (die : Nat) (n : Nat) : Statement (.ucieModuleFail die n) := event rfl
theorem tributaryLinkFail (k : Nat) : Statement (.tributaryLinkFail k) := event rfl
theorem taskDispatch (die : Nat) : Statement (.taskDispatch die) := event rfl
theorem stealCountExchange  : Statement .stealCountExchange := event rfl
theorem steal (thief : Nat) (peer : Nat) : Statement (.steal thief peer) := event rfl
theorem gangLaunch (task : Nat) : Statement (.gangLaunch task) := event rfl
theorem pendingLift (die : Nat) (index : Nat) : Statement (.pendingLift die index) := event rfl
theorem taskEnd (task : Nat) : Statement (.taskEnd task) := event rfl
theorem workgroupPark (wg : Nat) : Statement (.workgroupPark wg) := event rfl
theorem parkedWorkgroupReady (wg : Nat) : Statement (.parkedWorkgroupReady wg) := event rfl
theorem continuationResume (die : Nat) (k : Nat) : Statement (.continuationResume die k) := event rfl
theorem watchdogFirstExpiry (task : Nat) : Statement (.watchdogFirstExpiry task) := event rfl
theorem watchdogSecondExpiry (task : Nat) : Statement (.watchdogSecondExpiry task) := event rfl
theorem preemptSave (k : Nat) : Statement (.preemptSave k) := event rfl
theorem preemptForce (k : Nat) : Statement (.preemptForce k) := event rfl
theorem coreRetentionEntry (core : Nat) : Statement (.coreRetentionEntry core) := event rfl
theorem coreWake (core : Nat) : Statement (.coreWake core) := event rfl
theorem eccCorrectable (die : Nat) : Statement (.eccCorrectable die) := event rfl
theorem eccUncorrectable (node : Nat) (level : Nat) (asid : Nat) (va : Nat) : Statement (.eccUncorrectable node level asid va) := event rfl
theorem patrolScrub (die : Nat) : Statement (.patrolScrub die) := event rfl
theorem wdieRowScrub (wdie : Nat) (bad : List Nat) : Statement (.wdieRowScrub wdie bad) := event rfl
theorem registerWrite (func : Nat) (off : Nat) (value : DWord) : Statement (.registerWrite func off value) := event rfl
theorem registerReadClear (func : Nat) (off : Nat) : Statement (.registerReadClear func off) := event rfl
theorem handoffState (n : Nat) : Statement (.handoffState n) := event rfl
theorem linkLevelRetry (die : Nat) (n : Nat) : Statement (.linkLevelRetry die n) := event rfl
theorem linkRetrain (die : Nat) (n : Nat) (repl : Nat) : Statement (.linkRetrain die n repl) := event rfl
theorem uncorrectableFecCodeword (k : Nat) : Statement (.uncorrectableFecCodeword k) := event rfl

end Sys2Proof.Laws.FieldsKept
end

