-- ==== Sys2Proof/Laws/StoreQueue.lean ====
section
/-! SUPPORT. Laws of the store queue: what an empty one does, and what the drain of its first lane is (R186, R203, R204). -/

namespace Sys2Proof.Machine

@[simp] theorem queueWaits_nil (w : Wave) (i : Instr) (h : w.sq = []) : queueWaits w i = false := by
  simp [queueWaits, h]

@[simp] theorem queueFull_nil (w : Wave) (h : w.sq = []) : queueFull w = false := by
  simp [queueFull, storeQueue, h]

@[simp] theorem sqMarks_nil (w : Wave) (h : w.sq = []) : sqMarks w = false := by
  simp [sqMarks, h]

@[simp] theorem sqLine_nil (w : Wave) (k : Nat) (h : w.sq = []) : sqLine w k = {} := by
  simp [sqLine, h]

@[simp] theorem sqScr_nil (w : Wave) (o : Nat) (h : w.sq = []) : sqScr w o = none := by
  simp [sqScr, h, firstSome]

@[simp] theorem queuedMark_nil (s : State) (w : Wave) (line : Nat) (h : w.sq = []) : queuedMark s w line = none := by
  simp [queuedMark, h, firstSome]

/-- A lane of the youngest entry of the queue that touches a line decides its mark (R376). -/
theorem queuedMark_last (s : State) (w : Wave) (line : Nat) (q : List SqEnt) (full hnd : Bool)
    (lanes : List (Nat × DWord × List Byte)) (h : w.sq = q ++ [{ k := .mark full, hnd := hnd, lanes := lanes }])
    (hl : lanes.any (fun x => (linesOf ((scrAlloc s w).1 + x.2.1.toNat) (natOfBytes x.2.2)).contains line) = true) :
    queuedMark s w line = some full := by
  simp only [queuedMark, h, List.reverse_append, List.reverse_cons, List.reverse_nil, List.nil_append, List.cons_append,
    firstSome, hl, if_true]

/-- Without queued stores a scratchpad read is that of the core's scratchpad. -/
theorem scrReadQueued_nil (s : State) (w : Wave) (o n : Nat) (h : w.sq = []) :
    scrReadQueued s w o n = scrRead s (waveCore w) ((scrAlloc s w).1 + o) n := by
  simp [scrReadQueued, scrRead, h, Nat.add_assoc]

@[simp] theorem drainOne_nil (s : State) (id : Nat) (h : (getWave s id).sq = []) : drainOne s id = s := by
  simp [drainOne, h]

@[simp] theorem drainQueue_nil (s : State) (id : Nat) (h : (getWave s id).sq = []) : drainQueue s id = s := by
  simp [drainQueue, drainLanes, sqLanes, h, sumNat, Nat.repeat]

/-- The first lane of the oldest store leaves the queue, and is performed at its own address. -/
theorem drainOne_cons (s : State) (id : Nat) (e : SqEnt) (r : List SqEnt) (x : Nat × DWord × List Byte)
    (l : List (Nat × DWord × List Byte)) (h : (getWave s id).sq = e :: r) (hl : e.lanes = x :: l) :
    drainOne s id =
      drainLane (modWave s id (fun w => { w with sq := if l.isEmpty then r else { e with lanes := l } :: r })) id e x := by
  simp only [drainOne, h, hl]

end Sys2Proof.Machine
end

