-- ==== Sys2Proof/Tests/Slice0.lean ====
section
/-! SUPPORT. Tests: decodings and small results worked out by hand from the spec, ill-formed terms that are refused, and
for every statement with hypotheses a state and operands that meet them together. -/

namespace Sys2Proof.Tests

set_option Elab.async false

open Sys2Proof Sys2Proof.Machine

/-! ## Small terms and states -/

def hd (d a b c : Opnd) : Head := { g := { neg := false, pred := 31 }, hnt := 0, dst := d, sa := a, sb := b, sc := c }
def arF (ty : Ty) (h : Head) : ArithF := { h := h, hi := 0, ftz := false, sat := false, rnd := .rne, ty := ty }
def cvF (dty sty : Ty) (h : Head) : CvtF :=
  { h := h, esel := 0, sty := sty, ftz := false, sat := false, rnd := .rne, dty := dty }
def ctF (h : Head) (imm : BitVec 26) : CtlF := { h := h, imm := imm }
def meF (size : Size) (space : Space) (ord : Ord) (scope : Scope) (h : Head) : MemF :=
  { h := h, off := 0, cache := .dflt, rset := 0, scope := scope, ord := ord, space := space, size := size }
def geF (h : Head) : GenF := { h := h, imm12 := 0, rset := 0, flags := 0 }
def none_ : Head := hd .null .null .null .null

/-- Registers 4, 8, 12 from 4, 8, 12. -/
def d4 : Head := hd (.v 4) (.v 8) (.v 12) (.v 16)

def path0 : Path := { pc := 0x1000, mask := 0xFFFFFFFF }
/-- A wave of context 1 on core 0 of die 0, all its threads on one path. -/
def wave0 : Wave := { asid := 1, node := 0, unit := 0, slot0 := some path0 }
def stOf (w : Wave) : State := { waves := [(128, w)], cur := 128 }

def readyIn (s : State) (l : List Instr) : Bool :=
  (curPath (getWave s s.cur)).isSome && l.all (fun i => decide (renameBad (getWave s s.cur) i = none ∧
    queueWaits (getWave s s.cur) i = false))

theorem ready_of (s : State) (l : List Instr) (h : readyIn s l = true) :
    ∀ i ∈ l, ∃ p, Ready s i (getWave s s.cur) p := by
  intro i hi
  simp only [readyIn, Bool.and_eq_true, List.all_eq_true, decide_eq_true_eq] at h
  obtain ⟨p, hp⟩ := Option.isSome_iff_exists.mp h.1
  exact ⟨p, rfl, hp, (h.2 i hi).1, (h.2 i hi).2⟩

theorem rd (s : State) (i : Instr) (p : Path)
    (h : curPath (getWave s s.cur) = some p ∧ renameBad (getWave s s.cur) i = none ∧ queueWaits (getWave s s.cur) i = false) :
    Ready s i (getWave s s.cur) p :=
  ⟨rfl, h.1, h.2.1, h.2.2⟩

/-! ## Decoding: words written out from the encodings of chapters 11 to 14, one or more for each family -/

def decodes (w0 w1 w2 : BitVec 32) (i : Instr) : Bool :=
  match decodeAny (wordOf w0 w1 w2) with
  | .ok j => decide (j = i)
  | .error _ => false

def refuses (w0 w1 w2 : BitVec 32) (b : Bad) : Bool :=
  match decodeAny (wordOf w0 w1 w2) with
  | .ok _ => false
  | .error c => decide (c = b)

/-- R337's example: ?p0 iadd.s32.sat v4, v5, 1000. -/
theorem test_decode_iadd : decodes 0x14040004 0x00E03400 0x03E82080 (.iadd
    { arF .s32 { hd (.v 4) (.v 5) .imm .null with g := { neg := false, pred := 0 } } with hi := 1000, sat := true }) =
    true := by decide +kernel

/-- and.b32 v1, v2, v3: OPC 0x020, TYPE 0x0 (R310, R334). -/
theorem test_decode_and : decodes 0x08010020 0x1FE00030 0 (.and (arF .b32 (hd (.v 1) (.v 2) (.v 3) .null))) =
    true := by decide +kernel

/-- R316's example: ?!p3 ffma.f32.rtz v4, v5, -v6, 0.25 | yield. -/
theorem test_decode_ffma : decodes 0x14040083 0x23C78060 0x00040581 (.ffma
    { arF .f32 { hd (.v 4) (.v 5) (.v 6) (.konst 30) with g := { neg := true, pred := 3 }, hnt := 4 } with
      hi := 4, rnd := .rtz }) = true := by decide +kernel

/-- Chapter 15's example: fsqrt.f32 v16, v15. -/
theorem test_decode_fsqrt : decodes 0x3C10008E 0x1FE03800 0x00000180 (.fsqrt (arF .f32 (hd (.v 16) (.v 15) .null .null))) =
    true := by decide +kernel

/-- Chapter 15's example: mxq.mxi8.f32.rne v11, v8, v10. -/
theorem test_decode_mxq : decodes 0x200B00E5 0x1FE000A0 0x00060380 (.mxq (cvF .mxi8 .f32 (hd (.v 11) (.v 8) (.v 10) .null))) =
    true := by decide +kernel

/-- shfl.swap.b32 v6, v5, v7: OPC 0x100, SUB 3 (R353). -/
theorem test_decode_shfl : decodes 0x14060D00 0x1FE00070 0 (.shfl .swap (arF .b32 (hd (.v 6) (.v 5) (.v 7) .null))) =
    true := by decide +kernel

/-- R365's example: ?p1 bra +15. -/
theorem test_decode_bra : decodes 0x03800140 0x01E0380E 0x000003C0
    (.bra (ctF { none_ with g := { neg := false, pred := 1 } } 15)) = true := by decide +kernel

/-- R316's example: ld.b32.acq.die v8, [v10:v11 + 16], rset2. -/
theorem test_decode_ld : decodes 0x28080180 0x1FE03800 0x01029080 (.ld false
    { meF .b32 .glb .acq .die (hd (.v 8) (.v 10) .null .null) with off := 4, rset := 2 }) = true := by decide +kernel

/-- Chapter 15's example: ?!p2 atoms.add.b32 _, [v17], v16. -/
theorem test_decode_atoms : decodes 0x478001C3 0x22E00100 0x00000280 (.atoms .add
    (meF .b32 .scr .plain .wg { hd .null (.v 17) (.v 16) .null with g := { neg := true, pred := 2 } })) =
    true := by decide +kernel

/-- Chapter 16's examples: gbar.pkg 0, 4 and rrel [v26:v27], v10. -/
theorem test_decode_gbar : decodes 0x0380020A 0x1FE0304C 0x0000E000
    (.gbar (meF .b8 .glb .ar .pkg (hd .null (.konst 0) (.konst 4) .null))) = true := by decide +kernel
theorem test_decode_rrel : decodes 0x6B800205 0x1FE000A0 0x0000D800
    (.rrel (meF .b8 .glb .rel .pkg (hd .null (.v 26) (.v 10) .null))) = true := by decide +kernel

/-- The examples of chapters 13, 14 and 16: spawn v20, v3, [v12:v13]; ?p5 mmx v20, [v4]; bcpy.reg v32, [v26:v27],
[v24:v25], v50:v51; tret.skipf. -/
theorem test_decode_spawn : decodes 0x0C140240 0x1FE000C0 0 (.spawn (geF (hd (.v 20) (.v 3) (.v 12) .null))) =
    true := by decide +kernel
theorem test_decode_mmx : decodes 0x10140280 0x05E03800 0
    (.mmx (geF { hd (.v 20) (.v 4) .null .null with g := { neg := false, pred := 5 } })) = true := by decide +kernel
theorem test_decode_bcpy_reg : decodes 0x68200686 0x1F0C8180 0 (.bcpyReg (geF (hd (.v 32) (.v 26) (.v 24) (.v 50)))) =
    true := by decide +kernel
theorem test_decode_tret : decodes 0x038006C3 0x1FE0380E 0 (.tretSkipf (geF none_)) = true := by decide +kernel

/-- R307: OPC 0x14B, the 64-bit immediate above. -/
theorem test_decode_pfx : decodes 0x0000014B 0x89ABCDEF 0x01234567 (.pfx 0x0123456789ABCDEF) = true := by decide +kernel

/-- R315: an unused OPC; a SUB of no form; a reserved MOD bit; a reserved operand code; p31 as a destination. -/
theorem test_decode_refused : refuses 0x038003FF 0x1FE0380E 0 (.ins 0) = true ∧
    refuses 0x08010420 0x1FE00030 0 (.ins 0) = true ∧ refuses 0x08010020 0x1FE00030 0x00008000 (.ins 1) = true ∧
    refuses 0x08010020 0x1FE03C10 0 (.opd 1) = true ∧ refuses 0x091F0032 0x1FE01034 0 (.opd 2) = true := by
  decide +kernel

/-! ## Terms that are no instructions: each fails the check that its name tells (R315) -/

theorem test_ill_formed_guard : wellFormed (.bar (meF .b8 .glb .ar .wg
    { hd .null (.konst 0) .null .null with g := { neg := false, pred := 0 } })) = false := by decide +kernel
theorem test_ill_formed_unused_operand : wellFormed (.exit (ctF (hd (.v 4) .null .null .null) 0)) = false := by
  decide +kernel
theorem test_ill_formed_type : wellFormed (.iadd (arF .f32 d4)) = false := by decide +kernel
theorem test_ill_formed_sat_rnd_ftz : wellFormed (.and { arF .b32 d4 with sat := true }) = false ∧
    wellFormed (.isub { arF .s32 (hd (.v 4) (.v 8) (.v 12) .null) with rnd := .rtz }) = false ∧
    wellFormed (.imin { arF .s32 (hd (.v 4) (.v 8) (.v 12) .null) with ftz := true }) = false := by decide +kernel
theorem test_ill_formed_high_bits : wellFormed (.iadd { arF .s32 (hd (.v 4) (.v 8) (.v 12) .null) with hi := 1 }) = false ∧
    wellFormed (.fadd { arF .f32 (hd (.v 4) (.v 8) (.v 12) .null) with hi := 16 }) = false ∧
    wellFormed (.fdot4 false { arF .e4m3 (hd (.v 4) (.v 8) .imm .null) with hi := 256 }) = false ∧
    wellFormed (.bfn3 { arF .b32 d4 with hi := 256 }) = false := by decide +kernel
theorem test_ill_formed_element : wellFormed (.cvt { cvF .f32 .f16x2 (hd (.v 4) (.v 8) .null .null) with esel := 2 }) = false ∧
    wellFormed (.cvtx { cvF .f16x2 .e4m3 (hd (.v 4) (.v 8) .null .null) with esel := 1 }) = false ∧
    wellFormed (.mxscale { cvF .e4m3 .f32 (hd (.v 4) (.v 8) .null .null) with esel := 1 }) = false ∧
    wellFormed (.cvtp 1 (cvF .f16x2 .f32 d4)) = false := by decide +kernel
theorem test_ill_formed_control : wellFormed (.yld (ctF none_ 1)) = false ∧ wellFormed (.trap (ctF none_ 256)) = false ∧
    wellFormed (.wsync (ctF (hd .null (.v 4) .null .null) 1)) = false := by decide +kernel
theorem test_ill_formed_memory : wellFormed (.ld true (meF .b32 .glb .plain .wg (hd (.v 4) (.v 8) .null .null))) = false ∧
    wellFormed (.ld false (meF .b32 .scr .plain .wg (hd (.v 4) (.v 8) .null .null))) = false ∧
    wellFormed (.ld false (meF .b32 .glb .plain .die (hd (.v 4) (.v 8) .null .null))) = false ∧
    wellFormed (.ld false { meF .b32 .glb .plain .wg (hd (.v 4) (.v 8) .null .null) with rset := 1 }) = false ∧
    wellFormed (.lds false { meF .b32 .scr .plain .wg (hd (.v 4) (.v 8) .null .null) with cache := .keep }) = false ∧
    wellFormed (.fence { meF .b8 .glb .acq .die none_ with off := 1 }) = false := by decide +kernel
theorem test_ill_formed_ordering : wellFormed (.st (meF .b32 .glb .acq .die (hd .null (.v 8) (.v 12) .null))) = false ∧
    wellFormed (.racq (meF .b8 .glb .acq .die (hd .null (.v 8) .null .null))) = false := by decide +kernel
theorem test_ill_formed_general : wellFormed (.qinfo { geF (hd (.v 4) (.v 8) .null .null) with imm12 := 1 }) = false ∧
    wellFormed (.qinfo { geF (hd (.v 4) (.v 8) .null .null) with flags := 1 }) = false ∧
    wellFormed (.qinfo { geF (hd (.v 4) (.v 8) .null .null) with rset := 1 }) = false := by decide +kernel
theorem test_ill_formed_operand : wellFormed (.iadd (arF .s64 (hd (.v 5) (.v 8) (.v 12) .null))) = false ∧
    wellFormed (.iadd (arF .s32 (hd (.p 1) (.v 8) (.v 12) .null))) = false ∧
    wellFormed (.iadd (arF .s32 (hd (.sreg .rseed) (.v 8) (.v 12) .null))) = false ∧
    wellFormed (.icmp .eq (arF .s32 (hd (.p 31) (.v 8) (.v 12) .null))) = false ∧
    wellFormed (.cvt (cvF .s32 .f32 (hd (.v 4) .imm .null .null))) = false ∧
    wellFormed (.iadd (arF .s32 (hd (.v 4) (.v 8) (.konst 24) .null))) = false := by decide +kernel
/-- An event has no word, and a term that passes every check is an instruction. -/
theorem test_well_formed : wellFormed (.iadd (arF .s32 (hd (.v 4) (.v 8) (.v 12) .null))) = true ∧
    isEvent (.supplyDip) = true ∧ encode .supplyDip = none := by decide +kernel

/-! ## Results of lane instructions -/

/-- What register r holds in lane l after instruction i. -/
def regAfter (s : State) (i : Instr) (r l : Nat) : Word := regLane (readReg (getWave (outState (exec i s) s) s.cur) r) l
def predAfter (s : State) (i : Instr) (p : Nat) : Mask := readPred (getWave (outState (exec i s) s) s.cur) p
/-- A state whose wave has a in v8, b in v12 and c in v16, in every lane. -/
def regs3 (a b c : Word) : State := stOf { wave0 with regs := [(8, .u a), (12, .u b), (16, .u c)] }
def ar2 (ty : Ty) : ArithF := arF ty (hd (.v 4) (.v 8) (.v 12) .null)
def ar1 (ty : Ty) : ArithF := arF ty (hd (.v 4) (.v 8) .null .null)
def ar3 (ty : Ty) : ArithF := arF ty d4
def arP (ty : Ty) : ArithF := arF ty (hd (.p 1) (.v 8) (.v 12) .null)

/-- R337's example: 0x7FFFFF00 + 1000 saturates; without .sat it wraps. -/
theorem test_iadd : regAfter (regs3 0x7FFFFF00 1000 0) (.iadd { ar2 .s32 with sat := true }) 4 0 = 0x7FFFFFFF ∧
    regAfter (regs3 0x7FFFFF00 1000 0) (.iadd (ar2 .s32)) 4 31 = 0x800002E8 := by decide +kernel
/-- R332: a zero divisor; the most negative number by -1. -/
theorem test_idiv : regAfter (regs3 7 0 0) (.idiv (ar2 .s32)) 4 0 = 0xFFFFFFFF ∧
    regAfter (regs3 7 0 0) (.irem (ar2 .s32)) 4 0 = 7 ∧
    regAfter (regs3 0x80000000 0xFFFFFFFF 0) (.idiv (ar2 .s32)) 4 0 = 0x80000000 ∧
    regAfter (regs3 0xFFFFFFF9 2 0) (.irem (ar2 .s32)) 4 0 = 0xFFFFFFFF := by decide +kernel
/-- R331: the absolute value of the most negative number, without and with .sat. -/
theorem test_iabs : regAfter (regs3 0x80000000 0 0) (.iabs (ar1 .s32)) 4 0 = 0x80000000 ∧
    regAfter (regs3 0x80000000 0 0) (.iabs { ar1 .s32 with sat := true }) 4 0 = 0x7FFFFFFF := by decide +kernel
/-- R330: floor(a * b / 2^32) of -1 * 1; 2^31 + 2^31 carries out. -/
theorem test_imulh : regAfter (regs3 0xFFFFFFFF 1 0) (.imulh (ar2 .s32)) 4 0 = 0xFFFFFFFF ∧
    regAfter (regs3 0xFFFFFFFF 1 0) (.imulh (ar2 .n32)) 4 0 = 0 := by decide +kernel
theorem test_iaddx_co : predAfter (regs3 0x80000000 0x80000000 0) (.iaddxCo (arF .b32 (hd (.p 1) (.v 8) (.v 12) .null))) 1 =
    0xFFFFFFFF := by decide +kernel
/-- R330: four signed byte products: c + 1*1 + (-1)*2 + 2*3 + 0*4, from 0x00_02_FF_01 and 0x04_03_02_01. -/
theorem test_idp4 : regAfter (regs3 0x0002FF01 0x04030201 10) (.idp4 true true (ar3 .b32)) 4 0 = 15 := by decide +kernel
/-- R335: counts of the width and more. -/
theorem test_shifts : regAfter (regs3 0x80000001 32 0) (.shl (ar2 .b32)) 4 0 = 0 ∧
    regAfter (regs3 0x80000001 40 0) (.sra (ar2 .b32)) 4 0 = 0xFFFFFFFF ∧
    regAfter (regs3 0x80000001 33 0) (.rot false (ar2 .b32)) 4 0 = 0x00000003 ∧
    regAfter (regs3 0x11112222 0x33334444 16) (.shf false (ar3 .b32)) 4 0 = 0x44441111 := by decide +kernel
/-- R336: three-way parity and the multiplexer; a field of 8 bits at 4, signed; a field inserted at 28 is cut at 32. -/
theorem test_bfn3 : regAfter (regs3 0xF0F0F0F0 0xCCCCCCCC 0xAAAAAAAA) (.bfn3 { ar3 .b32 with hi := 0x96 }) 4 0 =
    0x96969696 ∧ regAfter (regs3 0x12345678 0x9ABCDEF0 0xFFFF0000) (.bfn3 { ar3 .b32 with hi := 0xAC }) 4 0 =
    0x1234DEF0 := by decide +kernel
theorem test_bfx_bfi : regAfter (regs3 0x00000F80 0x0804 0) (.bfx (ar2 .s32)) 4 0 = 0xFFFFFFF8 ∧
    regAfter (regs3 0 0xFF 0x081C) (.bfi (ar3 .b32)) 4 0 = 0xF0000000 := by decide +kernel
/-- R334: zero has 32 leading zeros; bit 0 goes to bit 31. -/
theorem test_clz_brev : regAfter (regs3 0 0 0) (.clz (ar1 .b32)) 4 0 = 32 ∧
    regAfter (regs3 1 0 0) (.brev (ar1 .b32)) 4 0 = 0x80000000 := by decide +kernel
/-- R330: -1 < 1 signed, not unsigned. -/
theorem test_icmp : predAfter (regs3 0xFFFFFFFF 1 0) (.icmp .lt (arF .s32 (hd (.p 1) (.v 8) (.v 12) (.p 31)))) 1 =
    0xFFFFFFFF ∧ predAfter (regs3 0xFFFFFFFF 1 0) (.icmp .lt (arF .n32 (hd (.p 1) (.v 8) (.v 12) (.p 31)))) 1 = 0 := by
  decide +kernel
/-- R337: bit l of the register in lane l. -/
theorem test_pmov_bit : predAfter (regs3 0x80000005 0 0) (.pmovBit (arF .b32 (hd (.p 1) (.v 8) .null .null))) 1 =
    0x80000005 := by decide +kernel

/-- Binary32 values worked out by hand: 1 + 2; 3 * 0.5; sqrt 2; 1 / 3 up and down; 2^-1. -/
theorem test_float : regAfter (regs3 0x3F800000 0x40000000 0) (.fadd (ar2 .f32)) 4 0 = 0x40400000 ∧
    regAfter (regs3 0x40400000 0x3F000000 0) (.fmul (ar2 .f32)) 4 0 = 0x3FC00000 ∧
    regAfter (regs3 0x40000000 0 0) (.fsqrt (ar1 .f32)) 4 0 = 0x3FB504F3 ∧
    regAfter (regs3 0x40400000 0 0) (.frcp { ar1 .f32 with rnd := .rup }) 4 0 = 0x3EAAAAAB ∧
    regAfter (regs3 0x40400000 0 0) (.frcp { ar1 .f32 with rnd := .rdn }) 4 0 = 0x3EAAAAAA ∧
    regAfter (regs3 0xBF800000 0 0) (.fex2 (ar1 .f32)) 4 0 = 0x3F000000 := by decide +kernel
/-- R339: 1 / 0 is infinite; R341: a NaN beside a number. -/
theorem test_fdiv_zero : regAfter (regs3 0x3F800000 0 0) (.fdiv (ar2 .f32)) 4 0 = 0x7F800000 ∧
    regAfter (regs3 0x7FC00000 0x40000000 0) (.fmin false (ar2 .f32)) 4 0 = 0x40000000 ∧
    regAfter (regs3 0x80000000 0 0) (.fmax false (ar2 .f32)) 4 0 = 0 := by decide +kernel
/-- R342: unordered operands are not equal; -0 equals +0. -/
theorem test_fcmp : predAfter (regs3 0x7FC00000 0 0) (.fcmp .ne (arF .f32 (hd (.p 1) (.v 8) (.v 12) (.p 31)))) 1 =
    0xFFFFFFFF ∧ predAfter (regs3 0x80000000 0 0) (.fcmp .eq (arF .f32 (hd (.p 1) (.v 8) (.v 12) (.p 31)))) 1 =
    0xFFFFFFFF := by decide +kernel
/-- R352's example: amax 15.9375 gives the scale code 0x82; 0.3125 quantizes to 0x02 and back to 0.25. -/
theorem test_microscale :
    regAfter (regs3 0x417F0000 0 0) (.mxscale (cvF .mxi8 .f32 (hd (.v 4) (.v 8) .null .null))) 4 0 = 0x82 ∧
    regAfter (regs3 0x3EA00000 0x82 0) (.mxq (cvF .mxi8 .f32 (hd (.v 4) (.v 8) (.v 12) .null))) 4 0 = 0x02 ∧
    regAfter (regs3 0x02 0x82 0) (.mxdq (cvF .f32 .mxi8 (hd (.v 4) (.v 8) (.v 12) .null))) 4 0 = 0x3E800000 := by
  decide +kernel
/-- R347, R292: 2.5 to an integer rounds to even; a NaN gives 0; 3 * 10^9 is out of the signed range. -/
theorem test_cvt : regAfter (regs3 0x40200000 0 0) (.cvt (cvF .s32 .f32 (hd (.v 4) (.v 8) .null .null))) 4 0 = 2 ∧
    regAfter (regs3 0x7FC00000 0 0) (.cvt (cvF .s32 .f32 (hd (.v 4) (.v 8) .null .null))) 4 0 = 0 ∧
    regAfter (regs3 0x4F32D05E 0 0) (.cvt (cvF .s32 .f32 (hd (.v 4) (.v 8) .null .null))) 4 0 = 0x7FFFFFFF ∧
    regAfter (regs3 0xFFFFFFFF 0 0) (.cvt (cvF .f32 .s32 (hd (.v 4) (.v 8) .null .null))) 4 0 = 0xBF800000 := by
  decide +kernel

/-- The table of R359's example: one path of lanes 0 to 7; v4 of the table stands in v8. -/
def laneTable : State :=
  stOf { wave0 with slot0 := some { path0 with mask := 0xFF },
                    regs := [(8, .g ([0x2A, 0x2A, 0x2A, 0, 0x2A, 0x2A, 0x2A, 1] ++ List.replicate 24 0))] }
theorem test_match : (List.range 8).map (regAfter laneTable (.matchLanes (ar1 .b32)) 4) =
    [0x77, 0x77, 0x77, 0x08, 0x77, 0x77, 0x77, 0x80] ∧ regAfter laneTable (.matchLanes (ar1 .b32)) 4 8 = 0 := by
  decide +kernel
/-- R355, R356, R358: lane l XOR 1; the lanes below; sums of the lanes up to l and of all of E. -/
theorem test_lanes : regAfter laneTable (.shfl .swap (arF .b32 (hd (.v 4) (.v 8) (.konst 1) .null))) 4 2 = 0 ∧
    regAfter laneTable (.lmask .lo (arF .b32 (hd (.v 4) .null .null .null))) 4 5 = 0x1F ∧
    regAfter laneTable (.scan .add (ar1 .n32)) 4 2 = 0x7E ∧
    regAfter laneTable (.redux .max (ar1 .n32)) 4 0 = 0x2A ∧
    predAfter laneTable (.elect (arF .b32 (hd (.p 1) .null .null .null))) 1 = 1 := by decide +kernel
/-- R260, R359: lane 7 read into every lane; lane 3 written alone. -/
theorem test_lget_lput : regAfter laneTable (.lget (arF .b32 (hd (.v 4) (.v 8) (.konst 7) .null))) 4 0 = 1 ∧
    regAfter laneTable (.lput (arF .b32 (hd (.v 8) (.konst 9) (.konst 3) .null))) 8 3 = 9 ∧
    regAfter laneTable (.lput (arF .b32 (hd (.v 8) (.konst 9) (.konst 3) .null))) 8 2 = 0x2A := by decide +kernel

/-! ## The lane instructions may execute: a state and operands for each -/

def s32x3 : State := regs3 1 2 3
def cv1 (d s : Ty) : CvtF := cvF d s (hd (.v 4) (.v 8) .null .null)
def arQ : ArithF := arF .s32 (hd (.p 1) (.v 8) (.v 12) (.p 31))

theorem witness_IntegerResults : wellFormed (.mov (ar1 .b32)) = true ∧ (∀ r, (ar1 .b32).h.dst ≠ .sreg r) ∧
    ∀ i ∈ [Instr.mov (ar1 .b32), .sel (arF .s32 (hd (.v 4) (.v 8) (.v 12) (.p 31))), .lea 3 (ar2 .s32), .iadd (ar2 .s32),
      .isub (ar2 .s32), .iadd3 (ar3 .s32), .iaddx (ar2 .b32), .imul (ar2 .s32), .imulh (ar2 .s32), .imad (ar3 .s32),
      .imadw (ar3 .s32), .imin (ar2 .s32), .imax (ar2 .s32), .iabs (ar1 .s32), .ineg (ar1 .s32), .isad (ar3 .s32),
      .idp4 true false (ar3 .b32), .idp2 true false (ar3 .b32), .iclamp (ar3 .s32), .idiv (ar2 .s32), .irem (ar2 .s32)],
      ∃ p, Ready s32x3 i (getWave s32x3 128) p :=
  ⟨by decide +kernel, (fun r h => by cases h), ready_of s32x3 _ (by decide +kernel)⟩

theorem witness_BitResults : ∀ i ∈ [Instr.and (ar2 .b32), .or (ar2 .b32), .xor (ar2 .b32), .not (ar1 .b32),
    .andn (ar2 .b32), .bfn3 (ar3 .b32), .shl (ar2 .b32), .shr (ar2 .b32), .sra (ar2 .b32), .rot false (ar2 .b32),
    .rot true (ar2 .b32), .shf false (ar3 .b32), .shf true (ar3 .b32), .bfx (ar2 .s32), .bfi (ar3 .b32), .popc (ar1 .b32),
    .clz (ar1 .b32), .ctz (ar1 .b32), .brev (ar1 .b32), .bperm (ar3 .b32), .pmovMask (arF .b32 (hd (.v 4) (.p 1) .null .null))],
    ∃ p, Ready s32x3 i (getWave s32x3 128) p := ready_of s32x3 _ (by decide +kernel)

theorem witness_PredicateResults : ∀ i ∈ [Instr.iaddxCo arQ, .icmp .lt arQ, .pand .and (arF .b32 (hd (.p 1) (.p 2) (.p 3) .null)),
    .pmov (arF .b32 (hd (.p 1) (.p 2) .null .null)), .pmovBit arQ, .pmovNz arQ,
    .vote .same (arF .b32 (hd (.p 1) (.p 2) .null .null)), .elect (arF .b32 (hd (.p 1) .null .null .null))],
    ∃ p, Ready s32x3 i (getWave s32x3 128) p := ready_of s32x3 _ (by decide +kernel)

theorem witness_CrossLaneResults : ∀ i ∈ [Instr.shfl .rot (ar2 .b32), .voteBits (arF .b32 (hd (.v 4) (.p 2) .null .null)),
    .matchLanes (ar1 .b32), .scan .addx (ar1 .s32), .lmask .self (arF .b32 (hd (.v 4) .null .null .null)),
    .redux .add (ar1 .f32)], ∃ p, Ready s32x3 i (getWave s32x3 128) p := ready_of s32x3 _ (by decide +kernel)

theorem witness_FloatArithmetic : ∀ i ∈ [Instr.fadd (ar2 .f32), .hadd2 (ar2 .f16x2), .fsub (ar2 .f32), .fmul (ar2 .f16),
    .hmul2 (ar2 .bf16x2), .ffma (ar3 .f32), .hfma2 (ar3 .f16x2), .fscale (ar2 .f32), .fdiv (ar2 .f32), .fdot2 (ar3 .f16x2),
    .fdot4 true (ar3 .e4m3)], ∃ p, Ready s32x3 i (getWave s32x3 128) p := ready_of s32x3 _ (by decide +kernel)

/-- Both clauses of the results that may raise an exception: no enable is set, and an enabled divide by zero. -/
theorem witness_FloatResult : NoFpTrap (getWave s32x3 128) 0xFFFFFFFF (fun _ => { dz := true }) ∧
    excTrap (readFpctl { wave0 with fpctl := 0x1F00 }) (fun _ => { dz := true }) 0xFFFFFFFF ≠ none := by
  unfold NoFpTrap
  decide +kernel

theorem witness_FloatFunctions : (∀ i ∈ [Instr.fsqrt (ar1 .f32), .frcp (ar1 .f32), .frsq (ar1 .f32), .fex2 (ar1 .f32),
    .flg2 (ar1 .f32), .fsin (ar1 .f32), .fcos (ar1 .f32), .ftanh (ar1 .f32), .fround (ar1 .f32), .fmin false (ar2 .f32),
    .fmax true (ar2 .f32), .hmin2 false (ar2 .f16x2), .hmax2 true (ar2 .f16x2), .fclass (ar1 .f32), .fexpo (ar1 .f32),
    .ffract (ar1 .f32), .ffract { ar1 .f32 with ftz := true }, .fcmp .lt { arQ with ty := .f32 }],
    ∃ p, Ready s32x3 i (getWave s32x3 128) p) ∧ NoFpTrap (getWave s32x3 128) 0xFFFFFFFF (fun _ => excIv true) := by
  refine ⟨ready_of s32x3 _ (by decide +kernel), ?_⟩
  unfold NoFpTrap
  decide +kernel

theorem witness_ConversionResults : ∀ i ∈ [Instr.cvt (cv1 .s32 .f32), .cvtp 0 (cvF .f16x2 .f32 d4), .cvtx (cv1 .f16x2 .e4m3),
    .mxamax (cv1 .f32 .f32), .mxscale (cv1 .e4m3 .f32), .mxq (cvF .mxi8 .f32 (hd (.v 4) (.v 8) (.v 12) .null)),
    .mxdq (cvF .f32 .mxi8 (hd (.v 4) (.v 8) (.v 12) .null))], ∃ p, Ready s32x3 i (getWave s32x3 128) p :=
  ready_of s32x3 _ (by decide +kernel)

/-! ## Retirement, control and traps -/

def taskOne : Task :=
  { id := 7, asid := 1, die := 0, handle := 0, seq := 0, rec_ := [], entry := [2, 0, 0, 0], sender := 0, visAt := 0,
    expired := true }
/-- A wave of a persistent task. -/
def beatState : State := { stOf { wave0 with taskId := some 7 } with tasks := [(7, taskOne)] }

theorem witness_Retirement : Ready s32x3 (.nop (arF .b32 none_)) (getWave s32x3 128) path0 ∧
    Ready s32x3 (.yld (ctF none_ 0)) (getWave s32x3 128) path0 ∧
    (Ready s32x3 (.beat (ctF { none_ with g := { neg := true, pred := 31 } } 0)) (getWave s32x3 128) path0 ∧
      workMask ⟨s32x3, getWave s32x3 128, path0⟩ { neg := true, pred := 31 } = 0) ∧
    (Ready beatState (.beat (ctF none_ 0)) (getWave beatState 128) path0 ∧
      workMask ⟨beatState, getWave beatState 128, path0⟩ none_.g ≠ 0 ∧ (getWave beatState 128).taskId = some 7 ∧
      getTask beatState 7 = some taskOne ∧ persistent taskOne = true) := by
  refine ⟨rd _ _ _ ?_, rd _ _ _ ?_, ⟨rd _ _ _ ?_, ?_⟩, rd _ _ _ ?_, ?_⟩ <;> decide +kernel

/-- R206: the wave's two paths, and a third that is queued. -/
theorem test_nop : (getWave (outState (exec (.nop (arF .b32 none_)) s32x3) s32x3) 128).slot0 =
    some { path0 with pc := 0x100C } := by decide +kernel

/-- A wave with a branch target in v8:v9. -/
def jumpState (t : Word) : State := stOf { wave0 with regs := [(8, .u t), (9, .u 0)] }
def ctS : CtlF := ctF (hd .null (.v 8) .null .null) 1
def ctC : CtlF := ctF (hd (.v 4) (.v 8) .null .null) 1
/-- A path off the multiples of 4, so that a relative target is off them too. -/
def oddPath : Path := { path0 with pc := 0x1002 }
def oddState : State := stOf { wave0 with slot0 := some oddPath }

theorem witness_BranchResults :
    (Ready s32x3 (.bra (ctF none_ 15)) (getWave s32x3 128) path0 ∧ ∀ l, l < 32 →
      (branchGoal true (ctF none_ 15) s32x3 (getWave s32x3 128) path0 l).toNat % 4 = 0) ∧
    ((∀ i ∈ [Instr.braAbs ctS, .brx ctS, .ret ctS, .callAbs ctC, .callx ctC],
      ∃ p, Ready (jumpState 0x2000) i (getWave (jumpState 0x2000) 128) p) ∧
      ∀ l, l < 32 → (branchGoal false ctS (jumpState 0x2000) (getWave (jumpState 0x2000) 128) path0 l).toNat % 4 = 0) ∧
    ((∀ i ∈ [Instr.bra (ctF none_ 15), .call (ctF (hd (.v 4) .null .null .null) 15)],
      ∃ p, Ready oddState i (getWave oddState 128) p) ∧ ∀ l, l < 32 → ((0xFFFFFFFF : Mask).getLsbD l = true ↔
        (workMask ⟨oddState, getWave oddState 128, oddPath⟩ none_.g).getLsbD l = true ∧
        (branchGoal true (ctF none_ 15) oddState (getWave oddState 128) oddPath l).toNat % 4 ≠ 0)) ∧
    ((∀ i ∈ [Instr.braAbs ctS, .brx ctS, .ret ctS, .callAbs ctC, .callx ctC],
      ∃ p, Ready (jumpState 0x2002) i (getWave (jumpState 0x2002) 128) p) ∧ ∀ l, l < 32 →
      ((0xFFFFFFFF : Mask).getLsbD l = true ↔
        (workMask ⟨jumpState 0x2002, getWave (jumpState 0x2002) 128, path0⟩ none_.g).getLsbD l = true ∧
        (branchGoal false ctS (jumpState 0x2002) (getWave (jumpState 0x2002) 128) path0 l).toNat % 4 ≠ 0)) ∧
    Ready s32x3 (.call (ctF (hd (.v 4) .null .null .null) 15)) (getWave s32x3 128) path0 := by
  refine ⟨⟨rd _ _ _ ?_, ?_⟩, ⟨ready_of _ _ ?_, ?_⟩, ⟨ready_of _ _ ?_, ?_⟩, ⟨ready_of _ _ ?_, ?_⟩, rd _ _ _ ?_⟩ <;>
    decide +kernel

/-- R365's example: the threads of p1 go to 0x103C, the others to 0x100C, and the path splits. -/
theorem test_bra : (let w := getWave (outState (exec (.bra (ctF { none_ with g := { neg := false, pred := 1 } } 15))
      (stOf { wave0 with preds := [(1, 0x22222222)] })) (stOf wave0)) 128
    [w.slot0, w.slot1].map (fun q => q.map (fun p => (p.pc, p.mask)))) =
    [some (0x100C, 0xDDDDDDDD), some (0x103C, 0x22222222)] ∨ (let w := getWave (outState (exec (.bra (ctF { none_ with g :=
        { neg := false, pred := 1 } } 15)) (stOf { wave0 with preds := [(1, 0x22222222)] })) (stOf wave0)) 128
    [w.slot0, w.slot1].map (fun q => q.map (fun p => (p.pc, p.mask)))) =
    [some (0x103C, 0x22222222), some (0x100C, 0xDDDDDDDD)] := by decide +kernel
/-- R361: the link register of a call holds PC + 12. -/
theorem test_call : regAfter (stOf wave0) (.call (ctF (hd (.v 4) .null .null .null) 15)) 4 3 = 0x100C := by decide +kernel

/-- Two paths of 16 threads each. -/
def halves : State :=
  stOf { wave0 with slot0 := some { path0 with mask := 0xFFFF }, slot1 := some { pc := 0x2000, mask := 0xFFFF0000 } }

theorem witness_PathControl :
    (Ready s32x3 (.pfx 9) (getWave s32x3 128) path0 ∧ path0.fed = none) ∧
    (Ready s32x3 (.wsync (ctF (hd .null .imm .null .null) (-1))) (getWave s32x3 128) path0 ∧
      wsyncMask (ctF (hd .null .imm .null .null) (-1)) ⟨s32x3, getWave s32x3 128, path0⟩ = path0.mask) ∧
    (let p : Path := { path0 with mask := 0xFFFF }
     let f := ctF (hd .null .imm .null .null) (-1)
     Ready halves (.wsync f) (getWave halves 128) p ∧ p.mask &&& ~~~(wsyncMask f ⟨halves, getWave halves 128, p⟩) = 0 ∧
       wsyncMask f ⟨halves, getWave halves 128, p⟩ &&& ~~~p.mask ≠ 0 ∧ (getWave halves 128).handler = none) ∧
    (let f := ctF { none_ with g := { neg := false, pred := 1 } } 0
     let s := stOf { wave0 with preds := [(1, 1)] }
     Ready s (.exit f) (getWave s 128) path0 ∧ (getWave s 128).handler = none ∧
       workMask ⟨s, getWave s 128, path0⟩ f.h.g ≠ 0 ∧
       path0.mask &&& ~~~(workMask ⟨s, getWave s 128, path0⟩ f.h.g) ≠ 0 ∧ oneLane (getWave s 128) = false) ∧
    (Ready s32x3 (.exit (ctF none_ 0)) (getWave s32x3 128) path0 ∧ (getWave s32x3 128).handler = none ∧
      (getWave s32x3 128).wg = none ∧ path0.mask &&& ~~~(workMask ⟨s32x3, getWave s32x3 128, path0⟩ none_.g) = 0 ∧
      path0.mask ≠ 0 ∧ getSlot (getWave s32x3 128) (1 - (getWave s32x3 128).cur) = none ∧
      (getWave s32x3 128).queue = [] ∧ (getWave s32x3 128).arrive = none) := by
  refine ⟨⟨rd _ _ _ ?_, ?_⟩, ⟨rd _ _ _ ?_, ?_⟩, ⟨rd _ _ _ ?_, ?_⟩, ⟨rd _ _ _ ?_, ?_⟩, rd _ _ _ ?_, ?_⟩ <;> decide +kernel

/-- R364: a whole path that exits ends the wave. -/
theorem test_exit : waveEnded (getWave (outState (exec (.exit (ctF none_ 0)) s32x3) s32x3) 128) = true := by decide +kernel

def lgF (b : Nat) : ArithF := arF .b32 (hd (.v 4) (.v 8) (.konst (BitVec.ofNat 6 b)) .null)
def lpF (d : Opnd) (b : BitVec 16) : ArithF := { arF .b32 (hd d (.v 12) .imm .null) with hi := b }
/-- R196: mov to rseed and to fpctl keeps fpctl's defined bits. -/
theorem test_mov_fpctl : (getWave (outState (exec (.mov (arF .b32 (hd (.sreg .fpctl) (.v 8) .null .null)))
    (regs3 0xFFFFFFFF 0 0)) s32x3) 128).fpctl = 0x001F1F00 := by decide +kernel

theorem witness_RegisterMoves :
    (∀ r, r = SReg.rseed ∨ r = SReg.fpctl → let f := arF .b32 (hd (.sreg r) (.v 8) .null .null)
      Ready s32x3 (.mov f) (getWave s32x3 128) path0 ∧ workMask ⟨s32x3, getWave s32x3 128, path0⟩ f.h.g ≠ 0 ∧
      (∀ l, l < 32 → bitsA f ⟨s32x3, getWave s32x3 128, path0⟩ l = 1) ∧ f.h.dst = .sreg r) ∧
    (Ready s32x3 (.lget (lgF 7)) (getWave s32x3 128) path0 ∧ workMask ⟨s32x3, getWave s32x3 128, path0⟩ none_.g ≠ 0 ∧
      laneIndex (lgF 7) ⟨s32x3, getWave s32x3 128, path0⟩ < 32) ∧
    (∀ d, d = Opnd.v 4 ∨ d = Opnd.p 1 → Ready s32x3 (.lput (lpF d 31)) (getWave s32x3 128) path0 ∧
      laneIndex (lpF d 31) ⟨s32x3, getWave s32x3 128, path0⟩ < 32 ∧
      (workMask ⟨s32x3, getWave s32x3 128, path0⟩ none_.g).getLsbD (laneIndex (lpF d 31) ⟨s32x3, getWave s32x3 128, path0⟩) =
        true) ∧
    (Ready halves (.lput (lpF (.v 4) 31)) (getWave halves 128) { path0 with mask := 0xFFFF } ∧
      (getWave halves 128).handler = none ∧
      (workMask ⟨halves, getWave halves 128, { path0 with mask := 0xFFFF }⟩ none_.g).getLsbD
        (laneIndex (lpF (.v 4) 31) ⟨halves, getWave halves 128, { path0 with mask := 0xFFFF }⟩) = false) ∧
    (Ready s32x3 (.lput (lpF (.v 4) 32)) (getWave s32x3 128) path0 ∧
      32 ≤ laneIndex (lpF (.v 4) 32) ⟨s32x3, getWave s32x3 128, path0⟩ ∧
      Ready (regs3 1 32 0) (.lget (arF .b32 (hd (.v 4) (.v 8) (.v 12) .null))) (getWave (regs3 1 32 0) 128) path0) := by
  refine ⟨?_, ⟨rd _ _ _ ?_, ?_⟩, ?_, ⟨rd _ _ _ ?_, ?_⟩, rd _ _ _ ?_, ?_, rd _ _ _ ?_⟩
  · rintro r (rfl | rfl) <;> exact ⟨rd _ _ _ (by decide +kernel), by decide +kernel⟩
  · decide +kernel
  · decide +kernel
  · rintro d (rfl | rfl) <;> exact ⟨rd _ _ _ (by decide +kernel), by decide +kernel⟩
  all_goals decide +kernel

/-- A context whose handler at 0x8000 takes every cause. -/
def handlerCtx : Ctx := { live := true, trapPc := 0x8000, trapEn := 0xFFFFFFFF }
def trapState (w : Wave) : State := { stOf w with ctxs := [(1, handlerCtx)] }

theorem handles_witness (c n : Nat) (h : handlerTakes handlerCtx (preciseTrap wave0 path0 c n 0 0 0) = true) :
    Handles (trapState wave0) wave0 path0 c n := ⟨rfl, rfl, rfl, h⟩

theorem witness_HandlerEntry : getWave (trapState wave0) (trapState wave0).cur = wave0 ∧ curPath wave0 = some path0 ∧
    Handles (trapState wave0) wave0 path0 cIllegalOpnd 4 := ⟨rfl, rfl, handles_witness _ _ (by decide +kernel)⟩

/-- R258, R364: trap 5 enters the handler at its address, in lane 0, with cause 0x18 and SUB 5. -/
theorem test_trap : ((getWave (outState (exec (.trap (ctF none_ 5)) (trapState wave0)) s32x3) 128).handler.map
    (fun h => (h.path.pc, h.path.mask, h.trap.cause, h.trap.sub, h.trap.fmask))) =
    some (0x8000, 1, 0x18, 5, 0xFFFFFFFF) := by decide +kernel

/-- In handler mode, after a trap of lanes 0 and 1 of the path at 0x1000. -/
def trapped0 (m : Mask) : TrapInfo :=
  { cause := 0x18, sub := 5, pc := 0x1000, fmask := m, pmask := 0xFFFFFFFF, addr := 0, emask := 3 }
def handler0 (m : Mask) : Handler := { path := { pc := 0x8000, mask := 1 }, trap := trapped0 m }
def handlerWave (m : Mask) : Wave := { wave0 with handler := some (handler0 m) }

theorem witness_TrapInstructions :
    ((∀ i ∈ [Instr.trap (ctF none_ 5), .brkpt (ctF none_ 0)], ∃ p, Ready (trapState wave0) i (getWave (trapState wave0) 128) p) ∧
      workMask ⟨trapState wave0, wave0, path0⟩ none_.g ≠ 0 ∧ Handles (trapState wave0) wave0 path0 cSoftTrap 5 ∧
      Handles (trapState wave0) wave0 path0 cBreakpoint 0) ∧
    ((∀ i ∈ [Instr.trap (ctF { none_ with g := { neg := true, pred := 31 } } 5),
        .brkpt (ctF { none_ with g := { neg := true, pred := 31 } } 0)],
        ∃ p, Ready (trapState wave0) i (getWave (trapState wave0) 128) p) ∧
      workMask ⟨trapState wave0, wave0, path0⟩ { neg := true, pred := 31 } = 0) ∧
    (∀ m, m = (1 : Mask) ∨ m = 3 → (∀ i ∈ [Instr.tretRe (geF none_), .tretSkipf (geF none_), .tretSkip (geF none_)],
        ∃ p, Ready (trapState (handlerWave m)) i (getWave (trapState (handlerWave m)) 128) p) ∧
      (handlerWave m).general = false ∧ (handlerWave m).handler = some (handler0 m) ∧ (handler0 m).restored = false ∧
      (trapped0 m).deferred = false ∧ (trapped0 m).restored = false ∧ (trapped0 m).atomDone = false ∧
      getSlot { handlerWave m with cur := (trapped0 m).slot } (trapped0 m).slot = some path0 ∧
      (((trapped0 m).emask &&& ~~~(trapped0 m).fmask ≠ 0) ↔ m = 1)) := by
  refine ⟨⟨ready_of _ _ (by decide +kernel), by decide +kernel, handles_witness _ _ (by decide +kernel),
    handles_witness _ _ (by decide +kernel)⟩, ⟨ready_of _ _ (by decide +kernel), by decide +kernel⟩, ?_⟩
  rintro m (rfl | rfl) <;>
    exact ⟨ready_of _ _ (by decide +kernel), by decide +kernel⟩

/-- A thread of hub 0, in user mode. -/
def thread0 : Wave := { defaultWave 3 with sup := false }
def threadState (w : Wave) : State := { waves := [(3, w)], cur := 3 }

/-- Two waves of a workgroup that stops as a group. -/
def twoGroup : Workgroup := { asid := 1, task := none, node := 0, unit := 0, gstop := true, waves := [128, 129], total := 2 }
def wave1 : Wave := { wave0 with wg := some 4 }
def groupState : State :=
  { waves := [(128, wave1), (129, { wave1 with num := 1 })], cur := 128, wgs := [(4, twoGroup)] }

theorem witness_OtherTrapEntries :
    (∀ w, w = thread0 ∨ w = defaultWave 3 → getWave (threadState w) (threadState w).cur = w ∧
      curPath w = some { pc := 0, mask := 1 } ∧ w.general = true ∧ w.handler = none ∧ (w.sup = false ∨ w.sup = true)) ∧
    getWave groupState groupState.cur = wave1 ∧ curPath wave1 = some path0 ∧ wave1.general = false ∧
    wave1.handler = none ∧ wave1.run = .run ∧
    handlerTakes (getCtx groupState wave1.asid) (preciseTrap wave1 path0 cSoftTrap 5 0 0 0) = false ∧
    wave1.wg = some 4 ∧ getWg groupState 4 = some twoGroup ∧ twoGroup.st = .resident ∧ twoGroup.gstop = true ∧
    129 ∈ twoGroup.waves ∧ 129 ≠ groupState.cur ∧ (Tab.find groupState.waves 129).isSome = true ∧
    waveEnded (getWave groupState 129) = false ∧ (getWave groupState 129).run = .run := by
  constructor
  · rintro w (rfl | rfl) <;> decide +kernel
  · decide +kernel

/-! ## Memory instructions -/

/-- Home entry 0 homes every address at die 0 (R62, R63); page 0 is mapped read, write and execute to physical page 1
of die 0 (R102); leases of all kinds cover the first MiB (R113). -/
def homeDie0 : BitVec 128 := BitVec.ofNat 128 (2 ^ 126 + 2 ^ 38 * (2 ^ 38 - 1))
def pte0 : TlbEnt := { node := 0, asid := 1, base := 0, size := 65536, pte := 0x200000F }
def part0 (k : LKind) : LeasePart := { range := { lo := 0, hi := 0x100000 }, kind := k, grantor := 0, num := 1, e := 1000000000 }
def memCtx : Ctx :=
  { live := true, home := [(0, homeDie0)], leases := [(0, { parts := [part0 .write, part0 .exec] })], trapPc := 0x8000,
    trapEn := 0xFFFFFFFF }
def grant0 : Grant :=
  { node := 0, num := 1, asid := 1, range := { lo := 0, hi := 0x100000 }, kind := .write, holder := .standing 1 0, part := 0,
    e := 1000000000, live := true }
/-- Line 0x40 of context 1, bytes 0 to 127 of value 0 to 127, as a copy. -/
def line40 : Nat := lineKey 1 0x40
def copy40 : Line := { valid := BitVec.allOnes 128, data := BitVec.ofNat 1024 (natOfBytes ((List.range 128).map (BitVec.ofNat 8))) }
def memState (w : Wave) : State :=
  { stOf w with ctxs := [(1, memCtx)], tlb := [pte0], grants := [grant0], keys := [(0, { alloc := true })],
                l2 := [(cacheKey 0 line40, copy40)], l1 := [(cacheKey 0 line40, copy40)] }
/-- The address 0x2000 in v8:v9, 5 in v12. -/
def memWave : Wave := { wave0 with regs := [(8, .u 0x2000), (9, .u 0), (12, .u 5)] }
def ms : State := memState memWave
def mrd : Rd := ⟨ms, memWave, path0⟩
def ldF : MemF := meF .b32 .glb .plain .wg (hd (.v 4) (.v 8) .null .null)
def stF : MemF := meF .b32 .glb .plain .wg (hd .null (.v 8) (.v 12) .null)

theorem lanes_ok (s : State) (w : Wave) (kind : LKind) (align : Bool) (n : Nat) (ls : List LaneAddr)
    (h : ls.all (fun y => (laneCheck s w kind align n y.2).isNone) = true) : LanesAllowed s w kind align n ls := by
  intro y hy
  simpa using List.all_eq_true.mp h y hy

theorem core_holds_of (s : State) (w : Wave) (n : Nat) (ls : List LaneAddr)
    (h : (needMap w.asid n ls).all (fun y => decide (homeAt s w.node (lineAsid y.1) (lineNo y.1 * 128) = some 0) &&
      decide (tokenBars s 0 y.1 (wordMask y.2) (waveAgent s w) = 0) && decide (missHeld s (waveCore w) y.1 = false) &&
      decide (y.2 &&& ~~~(sqLine w y.1).valid &&& ~~~(nearLine s w.node w.unit y.1 0 .l1).valid = 0)) = true) : CoreHolds s w n ls := by
  intro y hy
  have := List.all_eq_true.mp h y hy
  simp only [Bool.and_eq_true, decide_eq_true_eq] at this
  exact ⟨0, this.1.1.1, this.1.1.2, this.1.2, this.2⟩

theorem witness_LoadResults : (∀ i ∈ [Instr.ld false ldF, .ldc false { ldF with space := .const },
      .pref .l1 (meF .b8 .glb .plain .wg (hd .null (.v 8) .null .null))], ∃ p, Ready ms i (getWave ms 128) p) ∧
    memWave.general = false ∧ memWave.op = {} ∧ ldF.ord = .plain ∧ LanesAllowed ms memWave .read false 4 (laneAddrs ldF mrd) ∧
    egressFull ms memWave 4 (laneAddrs ldF mrd) = false ∧ CoreHolds ms memWave 4 (laneAddrs ldF mrd) :=
  ⟨ready_of _ _ (by decide +kernel), rfl, rfl, rfl, lanes_ok _ _ _ _ _ _ (by decide +kernel),
    by decide +kernel, core_holds_of _ _ _ _ (by decide +kernel)⟩

/-- R297, R371: little-endian; the offset counts accesses, so that halfword 1 is bytes 2 and 3. -/
theorem test_ld : regAfter ms (.ld false ldF) 4 0 = 0x03020100 ∧
    regAfter ms (.ld false { ldF with size := .b16, off := 1 }) 4 9 = 0x0302 := by decide +kernel
/-- R113: an address that no lease covers traps, and the load writes nothing. -/
theorem test_ld_no_lease : ((getWave (outState (exec (.ld false { ldF with off := 511 })
    (memState { memWave with regs := [(8, .u 0x100000), (9, .u 0)] })) ms) 128).handler.map (fun h => h.trap.cause)) =
    some cLeaseViolation := by decide +kernel

/-- A release store, and a relaxed one; a wave whose release fence makes its relaxed stores release. -/
def strF : MemF := { stF with ord := .rel }
def stxF : MemF := { stF with ord := .rlx }
def fencedWave : Wave := { memWave with relFence := some .wg }
/-- One queued store of two lanes. -/
def sqEnt0 : SqEnt := { k := .glb none false, hnd := false, lanes := [(0, 0x2000, [1]), (1, 0x2004, [2])] }

theorem witness_StoreResults : (∀ i ∈ [Instr.st stF, .stm stF, .st strF, .stm strF, .st stxF, .stm stxF],
      ∃ p, Ready ms i (getWave ms 128) p) ∧ workMask mrd none_.g ≠ 0 ∧ memWave.general = false ∧
    memWave.op = {} ∧ egressFull ms memWave 4 (laneAddrs stF mrd) = false ∧
    LanesAllowed ms memWave .write false 4 (laneAddrs stF mrd) ∧ LanesAllowed ms memWave .write true 4 (laneAddrs stF mrd) ∧
    ordBusy memWave (needMap 1 4 (laneAddrs stF mrd)) = false ∧ queueFull memWave = false ∧ memWave.sq = [] ∧
    relaxedReleases memWave .wg = false ∧ releaseWaits ms 128 .wg = false ∧ requestsFull ms memWave = false ∧
    ((∃ p, Ready (memState fencedWave) (.st stxF) (getWave (memState fencedWave) 128) p) ∧ relaxedReleases fencedWave .wg = true ∧
      ordBusy fencedWave (needMap 1 4 (laneAddrs stF mrd)) = false) ∧
    ((getWave (memState { memWave with sq := [sqEnt0] }) 128).sq = [sqEnt0] ∧ sqEnt0.lanes.length = 2) ∧
    (let l : List Byte := [1, 2, 3, 4]
     l ≠ [] ∧ (0x207C % 128 + l.length ≤ 128) ∧ (getWave ms 128).asid < 16384 ∧
       homeAt ms 0 (lineAsid line40) (lineNo line40 * 128) = some 0 ∧ lineUncached ms 0 line40 = false ∧
       lineKey (asidOf 1 0x207C) (va54 0x207C / 128) = line40 ∧
       tokenBars ms 0 line40 (BitVec.allOnes 32) (waveAgent ms memWave) = 0 ∧ 0 = (getWave ms 128).node) :=
  ⟨ready_of _ _ (by decide +kernel), by decide +kernel, rfl, rfl, by decide +kernel,
    lanes_ok _ _ _ _ _ _ (by decide +kernel), lanes_ok _ _ _ _ _ _ (by decide +kernel), by decide +kernel,
    by decide +kernel, rfl, by decide +kernel, by decide +kernel, by decide +kernel,
    ⟨⟨_, rd _ _ path0 (by decide +kernel)⟩, by decide +kernel⟩, by decide +kernel, by decide +kernel⟩

/-- The store's bytes leave the store queue for the quad's L2: little-endian, dirty, and the byte after them stays. -/
theorem test_st : (let l := getLine (drainQueue (outState (exec (.st { stF with off := 31 }) ms) ms) 128).l2 0 line40
    (lineByte l 124, lineByte l 123, l.dirty)) = (5, 123, 0xF0000000000000000000000000000000) := by decide +kernel

/-- A workgroup with 1,024 bytes of scratchpad at offset 2,048 of its core. -/
def scrGroup : Workgroup := { asid := 1, task := none, node := 0, unit := 0, waves := [128], total := 1, off := 2048, scratch := 1024 }
def scrWave (a : Word) : Wave := { wave0 with wg := some 4, regs := [(8, .u a), (12, .u 5)] }
def ss (a : Word) : State := { memState (scrWave a) with wgs := [(4, scrGroup)] }
def srd (a : Word) : Rd := ⟨ss a, scrWave a, path0⟩
def ldsF : MemF := meF .b32 .scr .plain .wg (hd (.v 4) (.v 8) .null .null)
def stsF : MemF := meF .b32 .scr .plain .wg (hd .null (.v 8) (.v 12) .null)
def atsF : MemF := meF .b32 .scr .rlx .wg (hd (.v 4) (.v 8) (.v 12) .null)

/-- The last word of the allocation. -/
theorem witness_ScratchLoadResults : Ready (ss 1020) (.lds false ldsF) (getWave (ss 1020) 128) path0 ∧ ldsF.ord = .plain ∧
    workMask (srd 1020) none_.g ≠ 0 ∧
    ScratchOk (ss 1020) (scrWave 1020) path0 (entryMask (scrWave 1020) path0 none_.g) true false false (fun _ => 4)
      (laneOffsets ldsF (srd 1020)) ∧
    Ready (ss 0) (.ldfe (meF .b32 .scr .plain .wg (hd (.v 4) (.v 8) .null .null))) (getWave (ss 0) 128) path0 ∧
    (scrWave 0).home = none ∧ sqMarks (scrWave 1020) = false := by
  refine ⟨rd _ _ _ (by decide +kernel), rfl, by decide +kernel, ⟨by decide +kernel, by decide +kernel, by decide +kernel⟩,
    rd _ _ _ (by decide +kernel), rfl, rfl⟩

theorem witness_ScratchStoreResults : Ready (ss 1020) (.sts stsF) (getWave (ss 1020) 128) path0 ∧
    ScratchOk (ss 1020) (scrWave 1020) path0 (entryMask (scrWave 1020) path0 none_.g) false true false (fun _ => 4)
      (laneOffsets stsF (srd 1020)) ∧
    (∀ i ∈ [Instr.sete (meF .b8 .scr .plain .wg (hd .null (.v 8) (.v 12) .null)),
      .setf (meF .b8 .scr .plain .wg (hd .null (.v 8) (.v 12) .null))], ∃ p, Ready (ss 0) i (getWave (ss 0) 128) p) ∧
    workMask (srd 1020) none_.g ≠ 0 ∧ workMask (srd 0) none_.g ≠ 0 ∧ queueFull (scrWave 0) = false ∧ (scrWave 1020).sq = [] ∧
    ScratchOk (ss 0) (scrWave 0) path0 (entryMask (scrWave 0) path0 none_.g) false true false
      (feCount (meF .b8 .scr .plain .wg (hd .null (.v 8) (.v 12) .null)) (srd 0))
      (laneOffsets (meF .b8 .scr .plain .wg (hd .null (.v 8) (.v 12) .null)) (srd 0)) := by
  refine ⟨rd _ _ _ (by decide +kernel), ⟨by decide +kernel, by decide +kernel, by decide +kernel⟩,
    ready_of _ _ (by decide +kernel), by decide +kernel, by decide +kernel, rfl, rfl,
    ⟨by decide +kernel, by decide +kernel, by decide +kernel⟩⟩

/-- R225: the allocation's offset is added. -/
theorem test_sts : (let t := drainQueue (outState (exec (.sts stsF) (ss 8)) (ss 8)) 128
    ((List.range 4).map (fun i => Tab.get 0 (getCore t 0).scr (2056 + i)), Tab.get 0 (getCore t 0).scr 2060)) = ([5, 0, 0, 0], 0) := by
  decide +kernel

theorem witness_ScratchAtomicResults : (∀ i ∈ [Instr.atoms .add atsF, .acass { atsF with h := { atsF.h with sc := .v 16 } },
      .reds .add { atsF with h := { atsF.h with dst := .null } }], ∃ p, Ready (ss 1020) i (getWave (ss 1020) 128) p) ∧
    workMask (srd 1020) none_.g ≠ 0 ∧ atsF.ord = .rlx ∧
    ScratchOk (ss 1020) (scrWave 1020) path0 (entryMask (scrWave 1020) path0 none_.g) true true true (fun _ => 4)
      (laneOffsets atsF (srd 1020)) ∧
    (∀ old, atomNew .add 32 old 5 < 2 ^ (8 * 4)) := by
  refine ⟨ready_of _ _ (by decide +kernel), by decide +kernel, rfl, ⟨by decide +kernel, by decide +kernel, by decide +kernel⟩, ?_⟩
  intro old
  simp only [atomNew]
  exact Nat.mod_lt _ (by decide)

/-- R379: 32 lanes add 5 to one word, in ascending order: lane l gets 5 * l, and the word becomes 160. -/
theorem test_atoms : regAfter (ss 1020) (.atoms .add atsF) 4 3 = 15 ∧
    scrRead (outState (exec (.atoms .add atsF) (ss 1020)) (ss 1020)) 0 3068 4 = 160 := by decide +kernel

def atF : MemF := meF .b32 .glb .rlx .sys (hd (.v 4) (.v 8) (.v 12) (.v 16))
def redF : MemF := meF .b32 .glb .rlx .sys (hd .null (.v 8) (.v 12) .null)
def phys40 : Phys := { addr := 0x12000, key := 0, uc := false, kind := 0, repl := 0 }

theorem acc_of {ε : Type} (x : State × Except ε Phys) (q : Phys) (h : x.2.toOption = some q) : x = (x.1, .ok q) := by
  obtain ⟨a, b⟩ := x
  cases b <;> simp_all [Except.toOption]

def homeReq (s : State) (kind : LKind) (va : DWord) : Req :=
  { agent := waveAgent s (getWave s 128), wave := 128, id := (getWave s 128).op.id, sup := (getWave s 128).sup,
    grant := if (getWave s 128).general then none
      else carriedGrant s (getWave s 128).asid (getWave s 128).taskId kind (va54 va) }

def homeFound (s : State) (acc : Acc) (kind : LKind) (n : Nat) (va : DWord) : Bool :=
  let w := getWave s 128
  let k := lineKey (asidOf w.asid va) (va54 va / 128)
  let r := homeAccess s 0 (homeReq s kind va) (asidOf w.asid va) (va54 va / 128) acc
  decide (homeAt s w.node (asidOf w.asid va) (va54 va) = some 0) && !nodeLost s 0 && !homeHolds s w.node 0 k &&
    tokenAllows s 0 (asidOf w.asid va) (va54 va) n (waveAgent s w) && decide (r.2.toOption = some phys40) &&
    (List.range 32).all (fun i => !(wordsOf (va54 va % 128) n).getLsbD i || decide (wordSt r.1 k i = .i ∨ wordSt r.1 k i = .v)) &&
    decide ((getLine r.1.l2 (l2Of w.node w.unit) k).dirty &&& byteMask (wordsOf (va54 va % 128) n) = 0 ∧
      (0 ≠ w.node → (getLine r.1.llc w.node k).dirty &&& byteMask (wordsOf (va54 va % 128) n) = 0))

theorem home_reach (s : State) (acc : Acc) (kind : LKind) (n : Nat) (va : DWord) (h : homeFound s acc kind n va = true) :
    HomeReach s 128 acc kind n va 0 phys40 (homeAccess s 0 (homeReq s kind va)
      (asidOf (getWave s 128).asid va) (va54 va / 128) acc).1 := by
  simp only [homeFound, Bool.and_eq_true, decide_eq_true_eq, Bool.not_eq_true'] at h
  obtain ⟨⟨⟨⟨⟨⟨a, b⟩, c⟩, d⟩, e⟩, g⟩, o⟩ := h
  refine ⟨a, b, c, d, acc_of _ _ e, rfl, ?_, o⟩
  intro i hi hm
  have := List.all_eq_true.mp g i (List.mem_range.mpr hi)
  simpa [hm] using this

theorem witness_GlobalAtomicResults :
    ((∀ i ∈ [Instr.atom .add atF, .acas atF, .red .add redF], ∃ p, Ready ms i (getWave ms 128) p) ∧
      memWave.general = false ∧ memWave.op = {} ∧ atomHeld ms memWave atF (laneAddrs atF mrd) = false ∧
      requestsFull ms memWave = false ∧ workMask mrd none_.g ≠ 0 ∧
      LanesAllowed ms memWave .write true 4 (laneAddrs atF mrd) ∧ egressFull ms memWave 4 (laneAddrs atF mrd) = false ∧
      ordReleases atF.ord = false ∧
      (atomLanes 128 path0 atF (atomFn .add atF) (laneAddrs atF mrd) (atomStart atF ms)).2 = true ∧
      (getWave (atomLanes 128 path0 atF (atomFn .add atF) (laneAddrs atF mrd) (atomStart atF ms)).1 128).op.errs = [] ∧
      (atomLanes 128 path0 atF (casFn atF) (laneAddrs atF mrd) (atomStart atF ms)).2 = true ∧
      (getWave (atomLanes 128 path0 atF (casFn atF) (laneAddrs atF mrd) (atomStart atF ms)).1 128).op.errs = []) ∧
    (∃ u, HomeReach ms 128 .write .write 4 0x2000 0 phys40 u) ∧ phys40.repl = 0 ∧ (0x2000 : DWord).toNat % 4 = 0 ∧
    (getWave ms 128).asid < 16384 ∧ (∀ old, atomNew .add 32 old 5 < 2 ^ (8 * 4)) := by
  refine ⟨⟨ready_of _ _ (by decide +kernel), rfl, rfl, by decide +kernel, by decide +kernel, by decide +kernel,
      lanes_ok _ _ _ _ _ _ (by decide +kernel), ?_⟩,
    ⟨_, home_reach ms .write .write 4 0x2000 (by decide +kernel)⟩, rfl, by decide, by decide +kernel, ?_⟩
  · decide +kernel
  · intro old
    simp only [atomNew]
    exact Nat.mod_lt _ (by decide)

/-- R88, R379: the word is 0x03020100 in the caches of no owner, so memory's zeros count: lane l gets 5 * l. -/
theorem test_atom : regAfter ms (.atom .add atF) 4 3 = 15 := by decide +kernel

/-! ## Synchronisation -/

def fenF (o : Ord) (sc : Scope) : MemF := meF .b8 .glb o sc none_
/-- A wave with a registration that is not acknowledged. -/
def pendWave : Wave := { memWave with pend := [{ id := 9, die := true }] }
/-- A wave whose drain has been made, and one whose drain is under way. -/
def drainedWave : Wave := { memWave with op := { id := 5, drains := 6 } }
def drain0 : DrainSt :=
  { agent := 0, die := true, asid := 1, ranges := none, acquirer := 0, tag := 6, regions := [], due := 1 }

theorem witness_FenceResults :
    ((∀ i ∈ [Instr.fence (fenF .ar .die), .sinv (fenF .acq .die), .drainInsn (fenF .ar .die)],
        ∃ p, Ready ms i (getWave ms 128) p) ∧ workMask mrd none_.g ≠ 0 ∧ releaseWaits ms 128 .die = false ∧
      keptWaits ms memWave = false ∧ memWave.op.drains = 0) ∧
    (Ready (memState pendWave) (.fence (fenF .rel .die)) (getWave (memState pendWave) 128) path0 ∧
      releaseWaits (memState pendWave) 128 .die = true) ∧
    (Ready (memState drainedWave) (.drainInsn (fenF .ar .die)) (getWave (memState drainedWave) 128) path0 ∧
      drainedWave.op.drains ≠ 0 ∧ drainBusy (memState drainedWave) drainedWave 6 = false ∧
      drainBusy { memState drainedWave with drains := [drain0] } drainedWave 6 = true) ∧
    (line40 < 2 ^ 61 ∧ inView 1 line40 = true ∧ rangesWord none (lineNo line40) (3 / 4) = true ∧
      coreRegistered ms 0 0 line40 (3 / 4) ((homeOf ms (lineAsid line40) (lineNo line40 * 128)).getD 99) = false ∧
      (getLine ms.l2 (l2Of 0 0) line40).dirty &&& byteMask (laneBit (3 / 4)) = 0 ∧
      (getLine (drainQueue (outState (exec (.st stF) ms) ms) 128).l2 (l2Of 0 0) line40).dirty.getLsbD 3 = true) := by
  refine ⟨⟨ready_of _ _ (by decide +kernel), by decide +kernel⟩, ⟨rd _ _ _ (by decide +kernel), by decide +kernel⟩,
    ⟨rd _ _ _ (by decide +kernel), by decide +kernel⟩, by decide +kernel⟩

/-- R83: the clean copy of the line leaves the L1. -/
theorem test_sinv : (getLine (outState (exec (.sinv (fenF .acq .die)) ms) ms).l1 0 line40).valid = 0 := by decide +kernel

def tok0 (h : Option Nat) : Token := { node := 0, asid := 1, base := 0x2000, size := 128, holder := h }
def tokState (h : Option Nat) : State := { memState { memWave with regs := [(8, .u 0x2000), (9, .u 0), (12, .u 1)] } with
  tokens := [tok0 h] }
def tokF : MemF := meF .b8 .glb .acq .pkg (hd .null (.v 8) .null .null)
def relF : MemF := meF .b8 .glb .rel .pkg (hd .null (.v 8) (.v 12) .null)
def rtsF : MemF := meF .b8 .glb .plain .wg (hd (.v 4) (.v 8) .null .null)

theorem ok_of {α : Type} (x : Except AccErr α) (q : α) (h : x.toOption = some q) : x = .ok q := by
  cases x <;> simp_all [Except.toOption]

/-- Agent 0 is the wave's own core, and 1 another. -/
theorem witness_TokenInstructions :
    (∀ h, h = some 0 ∨ h = some 1 → (∀ i ∈ [Instr.racq tokF, .rrel relF, .rtst rtsF],
        ∃ p, Ready (tokState h) i (getWave (tokState h) 128) p) ∧ path0.st = .live ∧
      tokenAt (tokState h) (getWave (tokState h) 128) 0x2000 = .ok (0, tok0 h) ∧
      tokenHolds (tokState h) (getWave (tokState h) 128) 0 0x2000 = false ∧
      oneAddr tokF ⟨tokState h, getWave (tokState h) 128, path0⟩ = 0x2000 ∧
      ((tok0 h).holder = some (waveAgent (tokState h) (getWave (tokState h) 128)) ↔ h = some 0) ∧
      tokenLeaving (tokState h) (tok0 h) = false ∧ (tokState h).rehome = none ∧
      (some 1 : Option Nat).any (badRecipient (tokState h)) = false ∧ releaseWaits (tokState h) 128 .pkg = false) ∧
    (tokenAt ms (getWave ms 128) 0x2000 = .error eToken ∧ ∀ i ∈ [Instr.racq tokF, .rtst rtsF],
      ∃ p, Ready ms i (getWave ms 128) p) := by
  refine ⟨?_, rfl, ready_of _ _ (by decide +kernel)⟩
  rintro h (rfl | rfl) <;>
    exact ⟨ready_of _ _ (by decide +kernel), rfl, ok_of _ _ (by decide +kernel), by decide +kernel⟩

/-- R91: the holder goes on; another core waits. -/
theorem test_racq : (curPath (getWave (outState (exec (.racq tokF) (tokState (some 0))) ms) 128)).map (fun p => p.pc) =
    some 0x100C ∧ ((curPath (getWave (outState (exec (.racq tokF) (tokState (some 1))) ms) 128)).map
      (fun p => decide (p.st = .blocked (.racq 1 none)))) = some true := by decide +kernel

def monF : MemF := meF .b32 .glb .plain .wg (hd (.v 4) (.v 8) .null .null)
def waitF : MemF := meF .b8 .glb .plain .wg (hd (.v 4) (.konst 5) .null .null)
def monitor0 (c : Option Nat) : Monitor := { scr := false, addr := 0x2000, size := 4, fired := c }
def monState (m : Option Monitor) : State := memState { memWave with mon := m }
/-- A wave blocked in mwait. -/
def waiting (b : Block) (c : Option Nat) : State :=
  memState { memWave with mon := some (monitor0 c), slot0 := some { path0 with st := .blocked b } }

theorem witness_MonitorResults :
    (Ready ms (.mon monF) (getWave ms 128) path0 ∧ monF.space ≠ .scr ∧ memWave.pend = [] ∧
      (laneAddrs monF mrd).head? = some (0, 0x2000) ∧ LanesAllowed ms memWave .read true 4 (laneAddrs monF mrd) ∧
      ctrlTarget ms memWave 0x2000 = none ∧ ∃ u, HomeReach (opWait ms 128) 128 .read .read 4 0x2000 0 phys40 u) ∧
    (let f : MemF := { ldsF with h := ldsF.h }
     Ready (ss 1020) (.mon f) (getWave (ss 1020) 128) path0 ∧ f.space = .scr ∧
      (laneOffsets f (srd 1020)).head? = some (0, 1020) ∧
      checkScratch (ss 1020) (scrWave 1020) path0 (entryMask (scrWave 1020) path0 none_.g) false true (fun _ => 4)
        (laneOffsets f (srd 1020)) = none ∧
      scrRetireTrap (ss 1020) (scrWave 1020) path0 (entryMask (scrWave 1020) path0 none_.g) true false (fun _ => 4)
        (laneOffsets f (srd 1020)) = none) ∧
    (∀ m, m = none ∨ m = some (monitor0 (some 1)) ∨ m = some (monitor0 none) →
      Ready (monState m) (.mwait waitF) (getWave (monState m) 128) path0 ∧ (getWave (monState m) 128).mon = m) ∧
    (blockedAt (waiting (.mwait waitF none) (some 0)) 128 0 =
        some ({ path0 with st := .blocked (.mwait waitF none) }, .mwait waitF none) ∧
      mwaitDue (waiting (.mwait waitF none) (some 0)) (getWave (waiting (.mwait waitF none) (some 0)) 128) none 0 = true) := by
  refine ⟨⟨rd _ _ _ (by decide +kernel), by decide, rfl, by decide +kernel, lanes_ok _ _ _ _ _ _ (by decide +kernel),
    by decide +kernel, ⟨_, home_reach _ .read .read 4 0x2000 (by decide +kernel)⟩⟩, ⟨rd _ _ _ (by decide +kernel),
    by decide +kernel⟩, ?_, by decide +kernel⟩
  rintro m (rfl | rfl | rfl) <;> exact ⟨rd _ _ _ (by decide +kernel), rfl⟩

/-- R390: without a monitor the code is 5. -/
theorem test_mwait : regAfter (monState none) (.mwait waitF) 4 7 = 5 := by decide +kernel

/-- A workgroup of two waves, whose wave 0 runs; hardware barrier 3 is in state b. -/
def barGroup (b : HwBar) : Workgroup :=
  { asid := 1, task := none, node := 0, unit := 0, waves := [128, 129], total := 2, bars := [(3, b)] }
def barState (b : HwBar) : State :=
  { waves := [(128, wave1), (129, { wave1 with num := 1 })], cur := 128, wgs := [(4, barGroup b)] }
def barF : MemF := meF .b8 .glb .ar .wg (hd .null (.konst 3) (.konst 2) .null)
def gbF : MemF := meF .b8 .glb .ar .pkg (hd .null (.konst 3) (.konst 2) .null)
def halfPhase : HwBar := { count := 2, isOpen := true, arrived := 2 }

theorem witness_BarrierResults :
    (∀ b, b = ({} : HwBar) ∨ b = halfPhase ∨ b = { count := 4, isOpen := true, arrived := 2 } ∨ b = { leaving := 1 } →
      Ready (barState b) (.bar barF) (getWave (barState b) 128) path0 ∧ path0.mask = maskAct (getWave (barState b) 128) ∧
      (getWave (barState b) 128).wg = some 4 ∧ getWg (barState b) 4 = some (barGroup b) ∧
      dataOpnd barF 4 barF.h.sa ⟨barState b, getWave (barState b) 128, path0⟩ 0 = 3 ∧
      dataOpnd barF 4 barF.h.sb ⟨barState b, getWave (barState b) 128, path0⟩ 0 = 2 ∧ 2 ≤ (barGroup b).total ∧
      (getWave (barState b) 128).home = none) ∧
    (barArrive (barState halfPhase) (barGroup halfPhase) halfPhase 0 2 =
      some { count := 2, isOpen := false, arrived := 0, leaving := 3 } ∧
      barArrive (barState {}) (barGroup {}) {} 0 2 = some { count := 2, isOpen := true, arrived := 1 } ∧
      (maskLanes (halfPhase.arrived ||| laneBit 0)).length = 2) ∧
    (∀ d, d = none ∨ d = some ({ code := 0 } : GDep) → let s := stOf { wave0 with gdep := d }
      Ready s (.gbar gbF) (getWave s 128) path0 ∧ path0.mask = maskAct (getWave s 128) ∧
      dataOpnd gbF 4 gbF.h.sa ⟨s, getWave s 128, path0⟩ 0 = 3 ∧ dataOpnd gbF 4 gbF.h.sb ⟨s, getWave s 128, path0⟩ 0 = 2 ∧
      (getWave s 128).home = none ∧ (getWave s 128).gdep = d ∧ (getWave s 128).op.phase ≠ 1 ∧
      releaseWaits s 128 .pkg = false) := by
  refine ⟨?_, by decide +kernel, ?_⟩
  · rintro b (rfl | rfl | rfl | rfl) <;> exact ⟨rd _ _ _ (by decide +kernel), by decide +kernel⟩
  · rintro d (rfl | rfl) <;> exact ⟨rd _ _ _ (by decide +kernel), by decide +kernel⟩

/-- A message that has been delivered to die `dst`. -/
def msgState (s : State) (src dst : Nat) (cls : Cls) (m : Msg) : State :=
  { s with net := { inbox := [{ src := src, dst := dst, cls := cls, msg := m }] } }

theorem arrives (s : State) (src dst : Nat) (cls : Cls) (m : Msg) (asid line : Nat) (h : (getNode s dst).halt = false)
    (h2 : s.rehome = none) (h3 : homedElsewhere (msgState s src dst cls m) dst asid (line * 128) = false := by decide +kernel) :
    Arrives (msgState s src dst cls m) 0 src dst m asid line := by
  have hn : getNode (msgState s src dst cls m) dst = getNode s dst := rfl
  refine ⟨⟨{ src := src, dst := dst, cls := cls, msg := m }, ?_, rfl, rfl, rfl⟩, ?_⟩
  · simp [servable, msgState, hn] at hn ⊢
    simpa [getNode] using h
  · have e : (msgState s src dst cls m).rehome = none := h2
    simp only [stoppedHoming, e, h3]

theorem delivered (s : State) (src dst : Nat) (cls : Cls) (m : Msg) (h : (getNode s dst).halt = false) :
    Delivered (msgState s src dst cls m) 0 src dst m := by
  have hn : getNode (msgState s src dst cls m) dst = getNode s dst := rfl
  refine ⟨{ src := src, dst := dst, cls := cls, msg := m }, ?_, rfl, rfl, rfl⟩
  simp [servable, msgState, hn] at hn ⊢
  simpa [getNode] using h

/-- The second of two waves of context 1 arrives; the first, of core 1, stands in the network. -/
def gbar0 : GBar := { level := 3, node := 62, quad := 0, asid := 1, i := 3, n := 2, arrived := [(0, 129, 1, 8)] }
def gbarMsg (n : Nat) : Msg := .gbarArr 1 3 n .pkg 128 0 9 []
def gbarNet (n : Nat) (b : GBar) : State := msgState { stOf wave0 with gbars := [b] } 0 48 .syn (gbarMsg n)

theorem witness_gbarArrival : (∀ n, n = 2 ∨ n = 3 → ∀ b, b = gbar0 ∨ b = { gbar0 with n := 3 } →
      Delivered (gbarNet n b) 0 0 48 (gbarMsg n) ∧ (gbarNet n b).gbars.find? (fun y =>
        (y.level, y.node, y.quad) == gbarKey 48 0 .pkg && y.asid == 1 && y.i == 3) = some b ∧
      b.arrived.any (fun z => z.1 == 0 && z.2.1 == 128) = false ∧ b.arrived.length + 1 = 2) ∧
    (Delivered (msgState (stOf wave0) 48 0 .syn (.gbarDep 128 9 { code := 0 })) 0 48 0 (.gbarDep 128 9 { code := 0 }) ∧
      waveExists (msgState (stOf wave0) 48 0 .syn (.gbarDep 128 9 { code := 0 })) 128 = true) := by
  refine ⟨?_, delivered _ _ _ _ _ rfl, by decide +kernel⟩
  rintro n (rfl | rfl) b (rfl | rfl) <;>
    exact ⟨delivered _ _ _ _ _ rfl, by decide +kernel⟩

def tbF : MemF := meF .b64 .scr .plain .wg (hd (.v 4) (.v 8) (.konst 1) .null)
def tbaF : MemF := meF .b64 .scr .rel .wg (hd .null (.v 8) (.konst 1) .null)
def tbrF : MemF := meF .b64 .scr .rel .quad (hd .null (.v 8) (.konst 1) (.konst 1))
def tbwF : MemF := meF .b64 .scr .acq .wg (hd .null (.v 8) (.konst 1) .null)
/-- The barrier word of one arrival, in phase 0, at the start of the allocation. -/
def tbBytes (phase : Bool) : Tab Byte :=
  (List.range 8).map (fun i => (2048 + i, byteAt (bytesOfNat 8 (tbBits { phase := phase, expect := 1, pend := 1, tx := 0 })) i))
def tbState (phase : Bool) : State := { ss 0 with cores := [(0, { scr := tbBytes phase })] }

theorem witness_TransactionBarriers :
    (∀ ph, ph = true ∨ ph = false → let s := tbState ph
      (∀ i ∈ [Instr.tbinit tbF, .tbarr tbaF, .tbarrRem tbrF, .tbwait tbwF], ∃ p, Ready s i (getWave s 128) p) ∧
      workMask ⟨s, scrWave 0, path0⟩ none_.g ≠ 0 ∧
      (∀ wr, checkScratch s (scrWave 0) path0 (entryMask (scrWave 0) path0 none_.g) wr true (fun _ => 8)
        (laneOffsets tbF ⟨s, scrWave 0, path0⟩) = none) ∧
      dataOpnd tbF 4 tbF.h.sb ⟨s, scrWave 0, path0⟩ 0 = 1 ∧ getWg s (waveGroup (scrWave 0)) = some scrGroup ∧
      (scrWave 0).wg.isSome = true ∧ coreKey scrGroup.node scrGroup.unit = waveCore (scrWave 0) ∧
      tbRemoteBad (scrWave 0) tbrF.scope 1 = false ∧ (scrWave 0).home = none ∧ releaseWaits s 128 .quad = false ∧
      (tbWord (scrRead s 0 2048 8)).phase = ph) ∧
    (Delivered (msgState (tbState false) 0 0 .syn (.tbArr 0 0 1 2048 1 .quad [])) 0 0 0 (.tbArr 0 0 1 2048 1 .quad []) ∧
      tbOwner (msgState (tbState false) 0 0 .syn (.tbArr 0 0 1 2048 1 .quad [])) 0 0 1 2048 = some (4, 0)) := by
  refine ⟨?_, delivered _ _ _ _ _ rfl, by decide +kernel⟩
  rintro ph (rfl | rfl) <;> exact ⟨ready_of _ _ (by decide +kernel), by decide +kernel⟩

/-- R244: phase 0, EXPECT 1, PEND 1, TX 0; the one arrival flips the phase, or leaves 1 byte due. -/
theorem test_tbinit : scrRead (outState (exec (.tbinit tbF) (ss 0)) ms) 0 2048 8 = 0x0010020000000000 ∧
    scrRead (outState (exec (.tbarr { tbaF with h := hd .null (.v 8) (.konst 0) .null }) (tbState false)) ms) 0 2048 8 =
      0x8010020000000000 ∧ scrRead (outState (exec (.tbarr tbaF) (tbState false)) ms) 0 2048 8 = 0x0010000000000001 := by decide +kernel

/-- The line of code that holds an instruction at 0x1000 of context 1. -/
def codeLine (i : Instr) : Tab (BitVec 1024) := [(lineKey 1 0x20, BitVec.ofNat 1024 ((encode i).getD 0).toNat)]
/-- A wave that waits at its head with instruction i. -/
def headState (s : State) (w : Wave) (i : Instr) : State :=
  { s with waves := [(128, { w with op := { id := 3 } })], icache := codeLine i, cores := s.cores }

theorem witness_tbwaitReturn : (getWave (headState (tbState true) (scrWave 0) (.tbwait tbwF)) 128).cur = 0 ∧
    (headInstr (headState (tbState true) (scrWave 0) (.tbwait tbwF)) 128).map (fun x => x.2) = some (.tbwait tbwF) := by
  decide +kernel

/-! ## Messages of registration coherence -/

/-- An access by agent 0, or by agent 1. -/
def req (a : Nat) : Req := { agent := a, wave := 128, id := 7 }
def allG : DWord := 0xAAAAAAAAAAAAAAAA
def region0 (own : Nat) : Region := { node := 0, asid := 1, base := 0x40, level := 9, owner := own, st := .owned, quiet := none, lru := 0 }
/-- The home of line 0x40, whose words are registered to agent 1, with their bytes or without them. -/
def ownedBy1 (dirty : BitVec 128) : State :=
  { ms with words := [(line40, allG)], regions := [region0 1], l2 := [(cacheKey 0 line40, { copy40 with dirty := dirty })],
            l1 := [] }

def answersB (s : State) (r : Req) (acc : Acc) (m : Mask) (ok : WordSt → Bool) : Bool :=
  let x := homeAccess s 0 r 1 0x40 acc
  (List.range 32).all (fun i => !m.getLsbD i || (tokenAllows s 0 1 (0x40 * 128 + 4 * i) 4 r.agent && ok (wordSt x.1 line40 i)))
    && decide (x.2.toOption = some phys40)

theorem home_answers (s : State) (r : Req) (acc : Acc) (m : Mask) (ok : WordSt → Bool) (h : answersB s r acc m ok = true) :
    HomeAnswers s 0 r 1 0x40 acc m (homeAccess s 0 r 1 0x40 acc).1 phys40 ∧
      ∀ i, i < 32 → m.getLsbD i = true → ok (wordSt (homeAccess s 0 r 1 0x40 acc).1 line40 i) = true := by
  simp only [answersB, Bool.and_eq_true, decide_eq_true_eq, List.all_eq_true, List.mem_range, Bool.or_eq_true,
    Bool.not_eq_true'] at h
  have w : ∀ i, i < 32 → m.getLsbD i = true → tokenAllows s 0 1 (0x40 * 128 + 4 * i) 4 r.agent = true ∧
      ok (wordSt (homeAccess s 0 r 1 0x40 acc).1 line40 i) = true := by
    intro i hi hm
    have := h.1 i hi
    simpa [hm] using this
  exact ⟨⟨fun i hi hm => (w i hi hm).1, acc_of _ _ h.2, rfl, rfl⟩, fun i hi hm => (w i hi hm).2⟩

def isHome (x : WordSt) : Bool := decide (x = .i ∨ x = .v)

theorem words_home (s : State) (k : Nat) (m : Mask)
    (h : ∀ i, i < 32 → m.getLsbD i = true → isHome (wordSt s k i) = true) : WordsHome s k m := by
  intro i hi hm
  simpa [isHome] using h i hi hm

theorem words_are (s : State) (k : Nat) (m : Mask) (x : WordSt)
    (h : ∀ i, i < 32 → m.getLsbD i = true → decide (wordSt s k i = x) = true) : WordsAre s k m x := by
  intro i hi hm
  simpa using h i hi hm

/-- Words 0 and 31 of the line. -/
def ends : Mask := 0x80000001
def rdMsg (a : Nat) (plain : Bool) : Msg := .rd (req a) 1 0x40 ends plain {} 0
def fwdMsg : Msg := .fwd (req 0) 1 0x40 ends {} 0 0 [] 0
def at0 (s : State) (m : Msg) : State := msgState s 0 0 .reg m

theorem at0_arrives (s : State) (m : Msg) (h : (getNode s 0).halt = false) (h2 : s.rehome = none) (a l : Nat)
    (h3 : homedElsewhere (at0 s m) 0 a (l * 128) = false := by decide +kernel) :
    Arrives (at0 s m) 0 0 0 m a l := arrives _ _ _ _ _ _ _ h h2 h3

theorem at0_delivered (s : State) (m : Msg) (h : (getNode s 0).halt = false) : Delivered (at0 s m) 0 0 0 m :=
  delivered _ _ _ _ _ h

theorem witness_ReadMessages :
    ends ≠ 0 ∧
    (Arrives (at0 ms (rdMsg 0 true)) 0 0 0 (rdMsg 0 true) 1 0x40 ∧
      (∃ u, HomeAnswers (takeMsg (at0 ms (rdMsg 0 true)) 0) 0 (req 0) 1 0x40 .read ends u phys40 ∧ WordsHome u line40 ends)) ∧
    (Arrives (at0 (ownedBy1 0) (rdMsg 0 false)) 0 0 0 (rdMsg 0 false) 1 0x40 ∧
      (∃ u, HomeAnswers (takeMsg (at0 (ownedBy1 0) (rdMsg 0 false)) 0) 0 (req 0) 1 0x40 .read ends u phys40 ∧
        WordsAre u line40 ends .g ∧ findRegion u 0 1 0x40 = some (region0 1)) ∧ ownsAs 0 1 = false) ∧
    (∀ d, d = 0 ∨ d = BitVec.allOnes 128 →
      Delivered (at0 (ownedBy1 d) fwdMsg) 0 0 0 fwdMsg ∧
      ∀ i, i < 32 → ends.getLsbD i = true →
        ((ownerWord (at0 (ownedBy1 d) fwdMsg) 0 line40 i {}).dirty &&& byteMask (laneBit i) = 0 ↔
          d = 0)) ∧
    (Arrives (at0 (ownedBy1 0) (.gone (req 0) 1 0x40 ends 1)) 0 0 0 (.gone (req 0) 1 0x40 ends 1) 1 0x40 ∧
      (∃ u, HomeAnswers (takeMsg (at0 (ownedBy1 0) (.gone (req 0) 1 0x40 ends 1)) 0) 0 (req 0) 1 0x40 .read ends u phys40 ∧
        ∀ i, i < 32 → ends.getLsbD i = true → wordSt u line40 i ≠ .z)) ∧
    (let s := memState { memWave with op := { id := 7 } }
     Delivered (at0 s (.data (req 0) 1 0x40 ends copy40 none [])) 0 0 0 (.data (req 0) 1 0x40 ends copy40 none []) ∧
      waitsFor (at0 s (.data (req 0) 1 0x40 ends copy40 none [])) (req 0) = true) := by
  refine ⟨by decide, ⟨at0_arrives _ _ rfl rfl _ _, ?_⟩, ⟨at0_arrives _ _ rfl rfl _ _, ?_, by decide⟩, ?_,
    ⟨at0_arrives _ _ rfl rfl _ _, ?_⟩, at0_delivered _ _ rfl, by decide +kernel⟩
  · obtain ⟨h, w⟩ := home_answers (takeMsg (at0 ms (rdMsg 0 true)) 0) (req 0) .read ends isHome (by decide +kernel)
    exact ⟨_, h, words_home _ _ _ w⟩
  · obtain ⟨h, w⟩ := home_answers (takeMsg (at0 (ownedBy1 0) (rdMsg 0 false)) 0) (req 0) .read ends
      (fun x => decide (x = .g)) (by decide +kernel)
    exact ⟨_, h, words_are _ _ _ _ w, by decide +kernel⟩
  · rintro d (rfl | rfl) <;> exact ⟨at0_delivered _ _ rfl, by decide +kernel⟩
  · obtain ⟨h, w⟩ := home_answers (takeMsg (at0 (ownedBy1 0) (.gone (req 0) 1 0x40 ends 1)) 0) (req 0) .read ends
      (fun x => decide (x ≠ .z)) (by decide +kernel)
    exact ⟨_, h, fun i hi hm => by simpa using w i hi hm⟩

/-- A wave whose registration 7 is not acknowledged. -/
def pend7 : State := memState { memWave with pend := [{ id := 7, die := false, lane := 3 }] }
def regMsg : Msg := .regReq (req 0) 1 0x40 ends copy40 true false
def ackMsg (e : Option AccErr) : Msg := .regAck (req 0) 1 0x40 (if e.isSome then 0 else ends) ends none e
def wbMsg : Msg := .wb 1 1 0x40 ends copy40 false
def recallMsg (w : Nat) : Msg := .recall 1 0x40 w 1
def replMsg : Msg := .replWr 1 0x40 copy40 0 (req 0)
def setMsg : Msg := .regSet (req 0) 1 0x40 ends 0 false

theorem witness_RegistrationMessages :
    (0x40 : Nat) < 2 ^ 47 ∧
    (Arrives (at0 ms regMsg) 0 0 0 regMsg 1 0x40 ∧
      (∃ u, HomeAnswers (at0 ms regMsg) 0 (req 0) 1 0x40 .write ends u phys40 ∧ WordsHome u line40 ends ∧
        findRegion u 0 1 0x40 = none ∧ regionCount u 0 < 65536)) ∧
    (∀ e, e = none ∨ e = some eToken → Delivered (at0 pend7 (ackMsg e)) 0 0 0 (ackMsg e) ∧
      waveExists (at0 pend7 (ackMsg e)) 128 = true ∧ (getWave (at0 pend7 (ackMsg e)) 128).deferred.length < 8) ∧
    (Arrives (at0 (ownedBy1 0) wbMsg) 0 0 0 wbMsg 1 0x40 ∧ wordOwner (at0 (ownedBy1 0) wbMsg) 0 1 0x40 = some 1 ∧
      WordsAre (at0 (ownedBy1 0) wbMsg) line40 ends .g ∧
      ∃ u, xlate (takeMsg (at0 (ownedBy1 0) wbMsg) 0) 0 1 (0x40 * 128) .read true = (u, .ok phys40)) ∧
    (∀ w, w = 0 ∨ w = 31 → Delivered (at0 (ownedBy1 0) (recallMsg w)) 0 0 0 (recallMsg w) ∧ w < 32) ∧
    (Delivered (at0 ms replMsg) 0 0 0 replMsg ∧
      ∃ u, xlate (takeMsg (at0 ms replMsg) 0) 0 1 (0x40 * 128) .read true = (u, .ok phys40)) ∧
    (Arrives (at0 ms setMsg) 0 0 0 setMsg 1 0x40 ∧ nodeLost (at0 ms setMsg) 0 = false ∧
      ∃ u, xlate (at0 ms setMsg) 0 1 (0x40 * 128) .write true = (u, .ok phys40) ∧ findRegion u 0 1 0x40 = none ∧
        regionCount u 0 < 65536) := by
  refine ⟨by decide, ⟨at0_arrives _ _ rfl rfl _ _, ?_⟩, ?_, ⟨at0_arrives _ _ rfl rfl _ _, by decide +kernel, ?_, ?_⟩, ?_,
    ⟨at0_delivered _ _ rfl, ?_⟩, at0_arrives _ _ rfl rfl _ _, rfl, ?_⟩
  · obtain ⟨h, w⟩ := home_answers (at0 ms regMsg) (req 0) .write ends isHome (by decide +kernel)
    exact ⟨_, h, words_home _ _ _ w, by decide +kernel⟩
  · rintro e (rfl | rfl) <;> exact ⟨at0_delivered _ _ rfl, by decide +kernel⟩
  · exact words_are _ _ _ _ (by decide +kernel)
  · exact ⟨_, acc_of (xlate (takeMsg (at0 (ownedBy1 0) wbMsg) 0) 0 1 (0x40 * 128) .read true) phys40 (by decide +kernel)⟩
  · rintro w (rfl | rfl) <;> exact ⟨at0_delivered _ _ rfl, by decide⟩
  · exact ⟨_, acc_of (xlate (takeMsg (at0 ms replMsg) 0) 0 1 (0x40 * 128) .read true) phys40 (by decide +kernel)⟩
  · exact ⟨(xlate (at0 ms setMsg) 0 1 (0x40 * 128) .write true).1, acc_of _ _ (by decide +kernel), by decide +kernel⟩

/-- Agent 1's drain under tag 6, with so many answers due. -/
def drain1 (due : Nat) : DrainSt := { drain0 with agent := 1, regions := [(0, 0x40, 9)], due := due }
def draining (due : Nat) : State := { ownedBy1 0 with drains := [drain1 due] }
/-- Core 0 waits for one ARMED of tag 6. -/
def armed1 : State := { ms with cores := [(0, { arms := [{ tag := 6, asid := 1, ranges := none, need := 1, got := 0, known := true }] })] }
def dMsg : Msg := .drain 1 true 1 none 0 6
def dmMsg : Msg := .dmark 1 1 0x40 9 6
def rqMsg : Msg := .relinq 1 1 0x40 9 none
def amMsg : Msg := .armed 0 6 1 true

theorem witness_DrainMessages :
    Delivered (at0 (ownedBy1 0) dMsg) 0 0 0 dMsg ∧ Arrives (at0 (ownedBy1 0) dmMsg) 0 0 0 dmMsg 1 0x40 ∧
    (∀ n, n = 1 ∨ n = 2 → Delivered (at0 (draining n) (.dmarkAck 1 6)) 0 0 0 (.dmarkAck 1 6) ∧
      (at0 (draining n) (.dmarkAck 1 6)).drains.find? (fun d => d.agent == 1 && d.tag == 6) = some (drain1 n)) ∧
    Arrives (at0 (ownedBy1 0) rqMsg) 0 0 0 rqMsg 1 0x40 ∧
    (Delivered (at0 armed1 amMsg) 0 0 0 amMsg ∧
      ∀ a ∈ (getCore (at0 armed1 amMsg) 0).arms, a.tag = 6 → a.known = true ∧ a.need ≤ a.got + 1) ∧
    ownedRegions (ownedBy1 0) 1 true 1 none = [region0 1] ∧
    (∃ x ∈ (ownedBy1 0).regions, (x.node, x.base, x.level) ∈ (drain1 1).regions ∧ x.owner = (drain1 1).agent ∧
      x.asid = (drain1 1).asid) := by
  refine ⟨at0_delivered _ _ rfl, at0_arrives _ _ rfl rfl _ _, ?_, at0_arrives _ _ rfl rfl _ _,
    ⟨at0_delivered _ _ rfl, by decide +kernel⟩, by decide +kernel, region0 1, by decide +kernel⟩
  rintro n (rfl | rfl) <;> exact ⟨at0_delivered _ _ rfl, by decide +kernel⟩

/-- R81: DMARK leaves the region draining. -/
theorem test_dmark : (outState (exec (.dmark 0) (at0 (ownedBy1 0) dmMsg)) ms).regions.map (·.st) = [.draining] := by
  decide +kernel

def ent1 : RelEnt := { agent := 1, scope := .die, die := true }
def relMsg : Msg := .rel (req 0) 1 0x40 { copy40 with valid := byteMask ends } [ent1]
def acqMsg : Msg := .acq (req 0) 1 0x40 ends .die none 6 {}
def rspMsg : Msg := .acqRsp (req 0) 1 0x40 copy40 1 [ent1] none

theorem witness_ReleaseMessages :
    (0x40 : Nat) < 2 ^ 47 ∧
    (Arrives (at0 pend7 relMsg) 0 0 0 relMsg 1 0x40 ∧
      (∃ u, HomeAnswers (takeMsg (at0 pend7 relMsg) 0) 0 (req 0) 1 0x40 .write ends u phys40 ∧ WordsHome u line40 ends) ∧
      wordMask (byteMask ends) = ends ∧ waveExists (at0 pend7 relMsg) 128 = true) ∧
    (Arrives (at0 ms acqMsg) 0 0 0 acqMsg 1 0x40 ∧
      (∃ u, HomeAnswers (takeMsg (at0 ms acqMsg) 0) 0 (req 0) 1 0x40 .read ends u phys40 ∧ WordsHome u line40 ends)) ∧
    (let s := memState { memWave with op := { id := 7 } }
     Delivered (at0 s rspMsg) 0 0 0 rspMsg ∧ waitsFor (at0 s rspMsg) (req 0) = true) ∧
    acqSelect (outState (exec (.rel 0) (at0 pend7 relMsg)) ms) 0 line40 ends .die 0 = [ent1] := by
  refine ⟨by decide, ⟨at0_arrives _ _ rfl rfl _ _, ?_, by decide +kernel⟩,
    ⟨at0_arrives _ _ rfl rfl _ _, ?_⟩, ⟨at0_delivered _ _ rfl, by decide +kernel⟩, by decide +kernel⟩
  · obtain ⟨h, w⟩ := home_answers (takeMsg (at0 pend7 relMsg) 0) (req 0) .write ends isHome (by decide +kernel)
    exact ⟨_, h, words_home _ _ _ w⟩
  · obtain ⟨h, w⟩ := home_answers (takeMsg (at0 ms acqMsg) 0) (req 0) .read ends isHome (by decide +kernel)
    exact ⟨_, h, words_home _ _ _ w⟩

/-- The token of 0x2000, free, held by the asking agent 0 or by agent 1, with n waiters. -/
def tok1 (h : Option Nat) (n : Nat) : Token := { tok0 h with waiters := (List.range n).map (fun i => (2, 200 + i, 300 + i)) }
def tokS (h : Option Nat) (n : Nat) : State := { memState memWave with tokens := [tok1 h n] }
def taMsg : Msg := .tokAcq (req 0) 1 0x2040
def trMsg : Msg := .tokRel 0 1 0x2040 none []
def tgMsg : Msg := .tokGrant (req 0) 1 0x2040 none
def racqWaits : State := memState { memWave with slot0 := some { path0 with st := .blocked (.racq 7 none) } }

theorem witness_TokenMessages :
    (∀ h n, (h, n) = (none, 0) ∨ (h, n) = (some 0, 0) ∨ (h, n) = (some 1, 15) ∨ (h, n) = (some 1, 16) →
      Arrives (at0 (tokS h n) taMsg) 0 0 0 taMsg 1 (0x2040 / 128) ∧
      findToken (at0 (tokS h n) taMsg) 0 1 0x2040 1 = some (tok1 h n) ∧ (tok1 h n).creating = none ∧
      (tok1 h n).moving = none ∧ (tok1 h n).holder = h ∧ (tok1 h n).waiters.length = n) ∧
    (Arrives (at0 ms taMsg) 0 0 0 taMsg 1 (0x2040 / 128) ∧ findToken (at0 ms taMsg) 0 1 0x2040 1 = none) ∧
    (Arrives (at0 (tokS (some 0) 1) trMsg) 0 0 0 trMsg 1 (0x2040 / 128) ∧
      findToken (takeMsg (at0 (tokS (some 0) 1) trMsg) 0) 0 1 0x2040 1 = some (tok1 (some 0) 1) ∧
      (tok1 (some 0) 1).holder = some 0 ∧ (tok1 (some 0) 1).moving = none ∧ (tok1 (some 0) 1).waiters = [(2, 200, 300)]) ∧
    (Delivered (at0 racqWaits tgMsg) 0 0 0 tgMsg ∧ waveExists (at0 racqWaits tgMsg) 128 = true ∧
      ∃ q, getSlot (getWave (at0 racqWaits tgMsg) 128) 0 = some q ∧ q.st = .blocked (.racq 7 none)) := by
  refine ⟨?_, ⟨at0_arrives _ _ rfl rfl _ _, by decide +kernel⟩, ⟨at0_arrives _ _ rfl rfl _ _, by decide +kernel⟩,
    at0_delivered _ _ rfl, by decide +kernel, { path0 with st := .blocked (.racq 7 none) }, by decide +kernel⟩
  intro h n hn
  rcases hn with hn | hn | hn | hn <;> simp only [Prod.mk.injEq] at hn <;> obtain ⟨rfl, rfl⟩ := hn <;>
    exact ⟨at0_arrives _ _ rfl rfl _ _, by decide +kernel⟩

/-- Time 1 ms. -/
def late (s : State) : State := { s with time := 1000000, nodes := [(0, { ptime := 1000000 })] }
def taPkt : Pkt := { src := 0, dst := 0, cls := .syn, taken := true, since := 500000, msg := taMsg }
def wtReg : Region := { region0 1 with st := .wt, quiet := some 936000 }

theorem witness_HomeTimers :
    Delivered (at0 ms (.held 7)) 0 0 0 (.held 7) ∧
    (let s : State := { late ms with net := { inbox := [taPkt] } }
     s.net.inbox[0]? = some taPkt ∧ taPkt.taken = true ∧ taPkt.since + 500000 ≤ nodeTime s taPkt.dst ∧
       taPkt.msg = .tokAcq (req 0) 1 0x2040) ∧
    (let s : State := { late ms with net := { outst := [{ pkt := { taPkt with dst := 1 }, id := 7, since := 0 }] } }
     s.net.outst[0]? = some { pkt := { taPkt with dst := 1 }, id := 7, since := 0 } ∧ 0 + 1000000 ≤ nodeTime s 0 ∧
       (getNode s 0).dbgHold = false ∧ nodeLost s 1 = false ∧
       unsent s { pkt := { taPkt with dst := 1 }, id := 7, since := 0 } = false) ∧
    (let s := late (ownedBy1 0)
     (getNode s 0).mergeAt + 1000 ≤ nodeTime s 0 ∧ (getNode s 0).halt = false ∧ (∀ x ∈ s.regions, x.level ≤ 9) ∧
       (mergeOne s 0).isSome = true) ∧
    (∀ g, g = allG ∨ g = 0 → let s : State := { late (ownedBy1 0) with regions := [wtReg], words := [(line40, g)] }
     s.regions.find? (fun r => r.node == 0 && r.st == .wt && lineKey r.asid r.base == line40) = some wtReg ∧
       quietLong wtReg (nodeTime s 0) = true ∧ (anyG s wtReg.asid wtReg.base 1 = true ↔ g = allG)) := by
  refine ⟨at0_delivered _ _ rfl, by decide +kernel, by decide +kernel, by decide +kernel, ?_⟩
  rintro g (rfl | rfl) <;> decide +kernel

/-! ## Queues -/

/-- Queue 3 of die 0, of context 1, with a ring of 64 slots at 0x4000. -/
def h3 : Word := 0x30000
def queue0 (soft : Bool) (head pub rsv : Nat) (st : SlotSt) : Queue :=
  { handle := h3, asid := 1, soft := soft, log2n := 6, base := 0x4000, head := head, pub := pub, rsv := rsv,
    slots := (seqRange head rsv).map (fun k => (k, { st := st })) }
def qWave : Wave := { memWave with regs := [(8, .u 0x2000), (9, .u 0), (12, .u h3), (16, .u 64)] }
def qState (q : Queue) : State := { memState qWave with queues := [(3, { gen := some 0, q := some q, owner := some 1 })] }
/-- SB is 0; SC is 64. -/
def qF : GenF := geF (hd (.v 4) (.v 12) (.konst 0) (.v 16))
/-- SB is 64, or 1. -/
def rF (n : Nat) : GenF := geF (hd (.v 4) (.v 12) (if n = 64 then .v 16 else .konst 1) .null)
def kF : GenF := geF (hd (.v 4) (.v 12) (.v 8) .null)
def qRd (q : Queue) : Rd := ⟨qState q, qWave, path0⟩

theorem queue_answers (s : State) (w : Wave) (h : Word) (q : Queue)
    (k : queueHolds s h = false ∧ opCode s h (waveSlot s w) = qOk ∧ queueOf s h = some q) : QueueAnswers s w h q :=
  ⟨k.1, k.2.1, k.2.2⟩

theorem none_of {α : Type} (x : State × Option α) (h : x.2 = none) : ∃ u, x = (u, none) := ⟨x.1, by rw [← h]⟩

theorem ok_pair {ε α : Type} (x : State × Except ε α) (q : α) (h : x.2.toOption = some q) : ∃ u, x = (u, .ok q) := by
  obtain ⟨a, b⟩ := x
  cases b <;> simp_all [Except.toOption]

theorem witness_QueueInstructions :
    (∀ q b, (q, b) = (queue0 true 0 0 0 .visible, 64) ∨ (q, b) = (queue0 true 0 64 64 .visible, 1) →
      Ready (qState q) (.qrsv (rF b)) (getWave (qState q) 128) path0 ∧ QueueAnswers (qState q) qWave (genHandle (rF b) (qRd q)) q ∧
      workMask (qRd q) none_.g ≠ 0 ∧ opnd32 (qRd q) (rF b).h.sb 0 = b ∧ 0 < b ∧ b ≤ 64 ∧ (b ≤ ringFree q ↔ b = 64)) ∧
    (let q := queue0 true 0 0 64 .reserved
     ∀ r, r = [] ∨ r = [({ handle := h3, wave := 128, lo := 0, n := 64 } : Resv)] →
      let s := { qState q with resvs := r }
      Ready s (.qpub qF) (getWave s 128) path0 ∧ QueueAnswers s qWave h3 q ∧
      opnd32 ⟨s, qWave, path0⟩ (Opnd.v 16) 0 = 64 ∧ (holdsRange s q 128 0 64 = true ↔ r ≠ []) ∧
      releaseWaits s 128 .pkg = false) ∧
    (let q := queue0 true 0 1 1 .visible
     (∀ i ∈ [Instr.qinfo qF, .qinfoBase qF, .spawn kF, .dsig kF], ∃ p, Ready (qState q) i (getWave (qState q) 128) p) ∧
     QueueAnswers (qState q) qWave h3 q ∧ spawnModule (qState q) kF = none ∧
     (let ls : List LaneAddr := (maskLanes (workMask (qRd q) none_.g)).map (fun l => (l, 0x2000))
      LanesAllowed (qState q) qWave .read true 64 ls ∧ egressFull (qState q) qWave 64 ls = false ∧
        CoreHolds (qState q) qWave 64 ls ∧
      -- records toward module 3, and their codes
      (let s : State := { qState q with nodes := [(48, { tribs := [(0, { up := true, peer := 3 })], routes := [(3, 1)] })] }
       spawnModule s { kF with flags := 67 } = some 3 ∧ releaseWaits s 128 .sys = false ∧ moduleReachable s 3 = true) ∧
      (let v : Wave := { qWave with op := { id := 5, phase := 2, vals := (List.range 32).map (fun l => (l, qOk)) } }
       v.op.errs = [] ∧ ∀ y ∈ ls, (Tab.find v.op.vals y.1).isSome = true)) ∧
     releaseWaits (qState q) 128 .pkg = false ∧ (∃ p, Ready (qState q) (.spawn { kF with flags := 67 }) (getWave (qState q) 128) p)) ∧
    (Ready (memState qWave) (.qinfo qF) (getWave (memState qWave) 128) path0 ∧ queueHolds (memState qWave) h3 = false ∧
      opCode (memState qWave) h3 (waveSlot (memState qWave) qWave) = qAbsent ∧ qAbsent ≠ qOk) := by
  refine ⟨?_, ?_, ⟨ready_of _ _ (by decide +kernel), queue_answers _ _ _ _ (by decide +kernel), by decide +kernel,
    ⟨lanes_ok _ _ _ _ _ _ (by decide +kernel), by decide +kernel, core_holds_of _ _ _ _ (by decide +kernel),
      by decide +kernel, by decide +kernel⟩, by decide +kernel, ⟨_, rd _ _ path0 (by decide +kernel)⟩⟩,
    rd _ _ _ (by decide +kernel), by decide +kernel⟩
  · intro q b h
    rcases h with h | h <;> simp only [Prod.mk.injEq] at h <;> obtain ⟨rfl, rfl⟩ := h <;>
      exact ⟨rd _ _ _ (by decide +kernel), queue_answers _ _ _ _ (by decide +kernel), by decide +kernel⟩
  · rintro q r (rfl | rfl) <;>
      exact ⟨rd _ _ _ (by decide +kernel), queue_answers _ _ _ _ (by decide +kernel), by decide +kernel⟩

/-- A record of zeros: a task of type 0. -/
def rec0 : List Byte := List.replicate 64 0
def rec1 : List Byte := List.replicate 12 0 ++ [5] ++ List.replicate 51 0
def pend0 (q : Queue) (n : Nat) : PendTask :=
  { handle := q.handle, seq := 9, asid := 1, rec_ := rec1, sender := 0, count := n, visAt := 0, rels := [] }

theorem witness_enqueue :
    (let q := queue0 false 0 0 0 .visible
     queueOf (qState q) h3 = some q ∧ enqueueCode (qState q) h3 0 = qOk ∧
      ∃ u, unitWrite (setQueue (qState q) (reserveSlots q 1 0)) q.asid (vaFull (ringVa q q.rsv)) rec1 = (u, none)) ∧
    (let q := queue0 false 0 64 64 .visible
     queueOf (qState q) h3 = some q ∧ enqueueCode (qState q) h3 0 = qFull ∧ qFull ≠ qOk) ∧
    (let q := queue0 true 0 1 1 .visible
     queueOf (qState q) h3 = some q ∧ slotAt q 0 = some { st := .visible } ∧
      (∃ u, unitRead (qState q) q.asid (vaFull (ringVa q 0)) 64 = (u, .ok rec0)) ∧ isVoidRecord rec0 = false) ∧
    (let q := queue0 false 0 1 1 .visible
     queueOf { qState q with pending := [pend0 q 1] } h3 = some q ∧ q.soft = false ∧
      [pend0 q 1].find? (fun x => x.handle == h3 && x.seq == 9 && x.count != 0) = some (pend0 q 1)) :=
  ⟨⟨by decide +kernel, by decide +kernel, none_of _ (by decide +kernel)⟩, by decide +kernel,
    ⟨by decide +kernel, by decide +kernel, ok_pair _ _ (by decide +kernel), by decide +kernel⟩, by decide +kernel⟩

/-- R159, R160: the record stands in the ring, the slot is visible, RSV and PUB are 1. -/
theorem test_enqueue : (let s := (enqueue (qState (queue0 false 0 0 0 .visible)) h3 rec1 0 0 1 0 []).1
    ((queueOf s h3).map (fun q => (q.head, q.pub, q.rsv, (slotAt q 0).map (·.st))), (unitRead s 1 0x4000 64).2.toOption)) =
    (some (0, 1, 1, some .visible), some rec1) := by decide +kernel

/-- SB: the address 0x2000, or with FLAGS bit 0 the scratchpad offset in v8. -/
def popF (scr : Bool) : GenF := { kF with flags := if scr then 1 else 0 }
def popWave (scr : Bool) : Wave := if scr then { qWave with wg := some 4, regs := [(8, .u 960), (12, .u h3)] } else qWave
def popState (scr : Bool) (q : Queue) : State := { qState q with waves := [(128, popWave scr)], wgs := [(4, scrGroup)] }

theorem witness_QueueTaking :
    (∀ soft, soft = true ∨ soft = false → ∀ n, n = 0 ∨ n = 1 → let q := queue0 soft 0 n n .visible
      (∀ scr, scr = true ∨ scr = false →
        (∀ i ∈ [Instr.qpop (popF scr), .qpopTry (popF scr), .qsteal (popF scr)],
          ∃ p, Ready (popState scr q) i (getWave (popState scr q) 128) p) ∧
        workMask ⟨popState scr q, popWave scr, path0⟩ none_.g ≠ 0 ∧ QueueAnswers (popState scr q) (popWave scr) h3 q) ∧
      ScratchOk (popState true q) (popWave true) path0 (entryMask (popWave true) path0 none_.g) false true true (fun _ => 64)
        ((maskLanes (workMask ⟨popState true q, popWave true, path0⟩ none_.g)).map (fun l => (l, 960))) ∧
      LanesAllowed (popState false q) (popWave false) .write true 64
        ((maskLanes (workMask ⟨popState false q, popWave false, path0⟩ none_.g)).map (fun l => (l, 0x2000))) ∧
      egressFull (popState false q) (popWave false) 64
        ((maskLanes (workMask ⟨popState false q, popWave false, path0⟩ none_.g)).map (fun l => (l, 0x2000))) = false ∧
      (visibleSeqs q = [] ↔ n = 0) ∧
      ((takeOldest (popState true q) h3).2.map (fun y => y.rec_)) = (if n = 0 then none else some rec0)) ∧
    (let q := queue0 true 0 1 1 .visible
     let s := { qState q with waves := [(128, { qWave with slot0 := some { path0 with st := .blocked (.qpop (popF false) h3) } })] }
     blockedAt s 128 0 = some ({ path0 with st := .blocked (.qpop (popF false) h3) }, .qpop (popF false) q.handle) ∧
      queueOf s q.handle = some q ∧ visibleSeqs q ≠ []) := by
  refine ⟨?_, by decide +kernel⟩
  rintro soft (rfl | rfl) n (rfl | rfl) <;>
    refine ⟨?_, ⟨by decide +kernel, by decide +kernel, by decide +kernel⟩, lanes_ok _ _ _ _ _ _ (by decide +kernel), by decide +kernel, by decide +kernel⟩ <;>
    rintro scr (rfl | rfl) <;>
    exact ⟨ready_of _ _ (by decide +kernel), by decide +kernel, queue_answers _ _ _ _ (by decide +kernel)⟩

/-! ## Continuations, migration, tasks -/

/-- A pool of two continuation records at 0x8000. -/
def contCtx : Ctx := { memCtx with cont := 0x0800000000008000 }
def contState : State := { memState memWave with ctxs := [(1, contCtx)] }
/-- Registers 8 and 9. -/
def contF : GenF := { geF (hd .null .null .null .null) with imm12 := 8, flags := 2 }
/-- Toward the home of the address in v8:v9: the wave stands on die n. -/
def migF : GenF := geF (hd .null (.v 8) .null .null)
def migP : GenF := geF (hd (.p 1) (.v 8) .null .null)
def migWave (node : Nat) (home : Option (Nat × Nat × Nat)) (a : Word) : Wave :=
  { memWave with node := node, home := home, regs := [(8, .u a), (9, .u 0)] }
def migState (node : Nat) (home : Option (Nat × Nat × Nat)) (a : Word) : State := memState (migWave node home a)
/-- The home entry keeps the context's addresses below 2^38 only. -/
def nowhere : State := { migState 1 none 0x2000 with ctxs := [(1, { memCtx with home := [] })] }
/-- Every landing slot of die 0 is taken. -/
def fullDie : State := { migState 1 none 0x2000 with cores := (List.range 48).map (fun u => (u, { landing := [0, 1, 2, 3] })) }

theorem witness_MigrationResults :
    (Ready contState (.cont contF) (getWave contState 128) path0 ∧ contFree (getCtx contState 1) = some 0 ∧
      (let l := contRecord contState memWave path0 8 2 0
       leaseCheck contState 1 none .write (contVa (getCtx contState 1) 0) l.length = none ∧ memWave.pend = [] ∧
       releaseWaits contState 128 .pkg = false ∧
       contStop contState 128 (cutAll (va54 (contVa (getCtx contState 1) 0)) l) = none)) ∧
    (∀ i, i = Instr.mig migF ∨ i = .migTry migF →
      (∀ n, n = 0 ∨ n = 1 → Ready (migState n none 0x2000) i (getWave (migState n none 0x2000) 128) path0 ∧
        migTarget (migState n none 0x2000) (migWave n none 0x2000) 0x2000 = some 0 ∧
        migWaits (migState n none 0x2000) 128 (migWave n none 0x2000) = false ∧ landingFree (migState n none 0x2000) 0 = some (0, 0)) ∧
      (Ready nowhere i (getWave nowhere 128) path0 ∧ migTarget nowhere (migWave 1 none 0x2000) 0x2000 = none) ∧
      (let h := some (1, 5, 2)
       Ready (migState 0 h 0x2000) i (getWave (migState 0 h 0x2000) 128) path0 ∧
        migWaits (migState 0 h 0x2000) 128 (migWave 0 h 0x2000) = false)) ∧
    (∀ i, i = Instr.mig migF ∨ i = .migTry migP → Ready fullDie i (getWave fullDie 128) path0 ∧
      migTarget fullDie (migWave 1 none 0x2000) 0x2000 = some 0 ∧ migWaits fullDie 128 (migWave 1 none 0x2000) = false ∧
      landingFree fullDie 0 = none) ∧
    (let s : State := { migState 0 (some (1, 5, 2)) 0x2000 with
        waves := [(128, { migWave 0 (some (1, 5, 2)) 0x2000 with arrive := some (0, []) })], nodes := [(0, { ptime := 1 })] }
     (getWave s 128).arrive = some (0, []) ∧ waveExists s 128 = true ∧ (getWave s 128).ship < nodeTime s (getWave s 128).node ∧
      coreRuns s (getWave s 128) = true) ∧
    (let q : Path := { path0 with st := .blocked (.mig migF) }
     let s := memState { migWave 1 none 0x2000 with slot0 := some q }
     blockedAt s 128 0 = some (q, .mig migF) ∧
      migTarget s (getWave s 128) (BitVec.ofNat 64 (opnd64 ⟨s, { getWave s 128 with cur := 0 }, { q with st := .live }⟩
        (.v 8) 0)) = some 0 ∧ (landingFree s 0).isSome = true) := by
  refine ⟨⟨rd _ _ _ (by decide +kernel), by decide +kernel⟩, ?_, ?_, by decide +kernel⟩
  · rintro i (rfl | rfl) <;> refine ⟨?_, ⟨rd _ _ _ (by decide +kernel), by decide +kernel⟩, rd _ _ _ (by decide +kernel),
      by decide +kernel⟩ <;> rintro n (rfl | rfl) <;> exact ⟨rd _ _ _ (by decide +kernel), by decide +kernel⟩
  · rintro i (rfl | rfl) <;> exact ⟨rd _ _ _ (by decide +kernel), by decide +kernel⟩

/-- A type entry: no templates, one role with so many waves of so many register words, at 0x1000. -/
def entry0 (regw waves : Byte) : List Byte :=
  [1] ++ List.replicate 80 0 ++ [0x10] ++ List.replicate 7 0 ++ [regw, waves] ++ List.replicate 933 0
def taskCtx : Ctx := { contCtx with ttype := 1, ttCache := [(0, entry0 1 1)] }
def task0 (st : TaskSt) (wg : Option Nat) : Task :=
  { id := 7, asid := 1, die := 0, handle := h3, seq := 0, rec_ := rec0, entry := entry0 1 1, sender := 0, visAt := 0, st := st, wg := wg }
/-- No wave runs; queue 3 of die 0 holds one record. -/
def dState : State := { qState (queue0 false 0 1 1 .visible) with waves := [], ctxs := [(1, taskCtx)] }
def cand0 : Cand :=
  { handle := h3, asid := 1, seq := 0, pend := false, rec_ := rec0, level := 0, order := 2 ^ 20 }
def cont0 : Cont := { asid := 1, slot := 0, die := 0, cluster := 0, tag := 0, owner := 128, agent := 0, ready := some 0 }

theorem ok_fst {ε α : Type} (x : State × Except ε α) (q : α) (h : x.2.toOption = some q) : x = (x.1, .ok q) := by
  obtain ⟨a, b⟩ := x
  cases b <;> simp_all [Except.toOption]

theorem err_fst {α : Type} (x : State × Except Nat α) (q : Nat)
    (h : (match x.2 with | .error e => decide (e = q) | .ok _ => false) = true) : x = (x.1, .error q) := by
  obtain ⟨a, b⟩ := x
  cases b <;> simp_all

theorem witness_TaskLife :
    (dieRuns dState 0 = true ∧ readyParked dState 0 = none ∧ dieTakes dState 0 = true ∧
      dState.conts.find? (fun c => contReady dState 0 c && c.die == 0 && (chooseCore dState 0 [256] 0 none).isSome) = none ∧
      soloPlace dState 0 = none ∧ savedTask dState 0 = none ∧ tasksWaiting dState 0 < 64 ∧ doomedSlot dState 0 = none ∧ doomedPending dState 0 = none ∧
      bestCand (getNode dState 0).rr (·.order) (visibleCands dState 0 0 (·.take 64) ++ pendingCands dState 0 0) = some cand0) ∧
    (∃ u, recordChecked dState 0 1 rec0 = (u, .ok (entry0 1 1)) ∧ u.nextTask = dState.nextTask ∧ recRanges (entry0 1 1) rec0 = []) ∧
    (∃ u, recordChecked { dState with ctxs := [(1, contCtx)] } 0 1 rec0 = (u, .error qBadType)) ∧
    (let s : State := { dState with tasks := [(7, task0 .leasing none)] }
     getTask s 7 = some (task0 .leasing none) ∧ leasesHeld (task0 .leasing none) = true ∧ dieRuns s 0 = true ∧ ctxRuns s 1 = true ∧
      gangPlace s (task0 .leasing none) = some (0, [0], 0) ∧
      (getCore s 0).score.length + (preTemplates (task0 .leasing none)).length ≤ scoreEntries ∧
      (getCore s 0).locks.length + (preTemplates (task0 .leasing none)).length ≤ lockEntries) ∧
    (let s : State := { dState with tasks := [(7, task0 .leasing (some 4))] }
     getTask s 7 = some (task0 .leasing (some 4)) ∧ gangPlace s (task0 .leasing (some 4)) = some (0, [0], 0)) ∧
    ((gangWaves (entry0 1 1) 0)[0]? = some (1, 0, { pc := 0x1000, regw := 256, waves := 1, spare := 0 })) ∧
    (let g : Workgroup := { barGroup {} with task := some 7 }
     let s : State := { dState with tasks := [(7, task0 .running (some 4))], wgs := [(4, g)] }
     getTask s 7 = some (task0 .running (some 4)) ∧ getWg s 4 = some g ∧ g.st = .resident ∧ g.task = some 7 ∧ unended s g = [] ∧
      groupCmds s 4 g = [] ∧ ∀ x ∈ groupWaves s g, x.2.pend = []) ∧
    (let s : State := { dState with nodes := [(1, { counts := [(0, 1)] })] }
     dieTakes s 1 = true ∧ visibleCands s 1 1 (·.take 64) ++ pendingCands s 1 1 = [] ∧ dieHasRoom s 1 = true ∧
      stealPeer s 1 = some 0 ∧ tasksWaiting s 1 < 64 ∧ (getNode s 0).halt = false ∧ nodeActive s 0 = true ∧
      s.conts.any (fun c => contReady s 1 c && c.die == 1) = false ∧
      s.conts.find? (fun c => c.die == 0 && contReady s 1 c && (chooseCore s 1 [256] 0 none).isSome) = none ∧
      stolenCand s 1 0 = some cand0) ∧
    (nodeActive (late dState) 0 = true ∧ (getNode (late dState) 0).countAt + 1000 ≤ nodeTime (late dState) 0) ∧
    (let s : State := { dState with mem := [(0x14016, 1)] }
     let q := queue0 false 0 1 1 .visible
     let b : List Byte := List.replicate 22 0 ++ [1] ++ List.replicate 41 0
     (getQidx s (0 * 2048 + 3)).q = some q ∧ q.soft = false ∧ (getNode s 0).halt = false ∧
      (s.pending.filter (fun p => handleDie p.handle == 0)).length < 4096 ∧ (visibleSeqs q).head? = some 0 ∧
      recordAt s q 0 = some b ∧ recDeps b ≠ 0 ∧ (takeSlot s q.handle 0).2.isSome = true) := by
  exact ⟨by decide +kernel, ⟨(recordChecked dState 0 1 rec0).1, ok_fst _ _ (by decide +kernel), by decide +kernel⟩,
    ⟨_, err_fst (recordChecked { dState with ctxs := [(1, contCtx)] } 0 1 rec0) qBadType (by decide +kernel)⟩, by decide +kernel⟩

/-- A wave that a qpop of the empty queue 3 has blocked, and its workgroup. -/
def blockedWave (b : Block) : Wave := { wave1 with slot0 := some { path0 with st := .blocked b }, blockedAt := some 0 }
def parkState (b : Block) (st : WgSt) : State :=
  { dState with waves := [(128, blockedWave b)], wgs := [(4, { barGroup {} with waves := [128], total := 1, st := st })],
                tasks := [(7, { task0 .leasing none with entry := entry0 0x20 32 })] }
def cmd0 : Cmd :=
  { tag := 1, wave := some 128, num := 0, wg := some 4, taskId := none, asid := 1, agent := 0, off := 0, k := .mmz 0 64 }

theorem witness_TaskEvents :
    (let g : Workgroup := { barGroup {} with waves := [128], total := 1 }
     let s := parkState (.qpop kF h3) .resident
     getWg s 4 = some g ∧ parkable s 4 g = true ∧ s.wgs.all (fun e => e.1 == 4 || e.2.node != g.node || e.2.unit != g.unit ||
        !parkable s e.1 e.2 || decide (blockedSince s g ≤ blockedSince s e.2)) = true ∧ dieRuns s 0 = true ∧
      roomWanted s 0 0 = true) ∧
    (let g : Workgroup := { barGroup {} with waves := [128], total := 1, st := .parked false }
     let s := parkState (.ewait [1] true) (.parked false)
     getWg s 4 = some g ∧ (unended s g).any (fun x => (wavePaths x.2).any (pathWakes s x.2)) = true) ∧
    (let s : State := { dState with conts := [cont0] }
     (s.conts.filter (fun c => contReady s 0 c && c.die == 0))[0]? = some cont0 ∧ dieTakes s 0 = true ∧ chooseCore s 0 [256] 0 none = some (0, [0], 0) ∧
      (unitRead s 1 (contVa (getCtx s 1) 0) 2112).2.toOption.any (fun l => zeroAt l [(15, 1), (56, 8)]) = true) ∧
    (∀ e, e = true ∨ e = false → let t : Task := { task0 .running (some 4) with cycles := 2 ^ 16, expired := e }
      getTask { dState with tasks := [(7, t)] } 7 = some t ∧ watchExpired t = true) ∧
    (let y : Preempt := { target := .ctx 1, count := 10 ^ 12 }
     let s : State := { dState with preempts := [y], wgs := [(4, barGroup {})], cores := [(0, { score := [cmd0] })] }
     s.preempts[0]? = some y ∧ isHalt y.target = false ∧ deadlineNs s.mods.d1 + deadlineNs s.mods.d2 ≤ y.count ∧
      getWg s 4 = some (barGroup {}) ∧ preemptHits s y.target (barGroup {}) = true ∧ groupQuiet s 4 = false) := by
  refine ⟨by decide +kernel, by decide +kernel, by decide +kernel, ?_, by decide +kernel⟩
  rintro e (rfl | rfl) <;> decide +kernel

/-! ## Engines -/

def le (n v : Nat) : List Byte := bytesOfNat n v
/-- 64 rows of 32 e2m1 elements a side, C zeroed first. -/
def mmxB : List Byte := padTo 64 ([0x400, 0x800, 0xC00, 0xC40, 0, 16, 16, 256, 32].flatMap (le 4) ++ [0, 2, 2, 1])
/-- One row of 32 f32 elements to 0x2000. -/
def mepiB : List Byte := padTo 64 (le 4 0 ++ le 4 256 ++ le 8 0x2000 ++ le 8 128 ++ le 2 1 ++ le 2 32)
def wmvB : List Byte := padTo 64 ([0x400, 0x800, 32, 0, 16, 0, 1].flatMap (le 4) ++ le 2 1 ++ [3, 0, 1])
def wldB : List Byte := padTo 64 (le 8 0x2000 ++ le 8 0x3000 ++ le 4 32 ++ le 4 1 ++ [3, 2])
/-- 32 bytes from 0x2000; for a copy to several cores the mask names core 0. -/
def cpyB (mask : Nat) : List Byte := padTo 64 (le 8 0x2000 ++ le 4 32 ++ List.replicate 36 0 ++ [31, 0, 0, 0] ++ le 4 0 ++ [0, 1] ++ le 6 mask)

def engGroup : Workgroup := { scrGroup with scratch := 0x10000 }
/-- v16 to v19 hold coordinates 0, v20:v21 the offset 0x400 and no barrier, v24:v25 and v28:v29 addresses, v32 64. -/
def engWave : Wave := { wave0 with wg := some 4, regs :=
  [(8, .u 0x40), (20, .u 0x400), (21, .u 0xFFFFFFFF), (24, .u 0x2000), (28, .u 0x3000), (32, .u 64)] }
def engState (b : List Byte) : State :=
  { memState engWave with wgs := [(4, engGroup)],
                          cores := [(0, { scr := ((List.range 64).map (fun i => (2112 + i, byteAt b i))).filter (fun e => e.2 != 0) })] }
/-- The block at offset 0x40; the operands of the copies. -/
def egF : GenF := geF (hd (.v 4) (.v 8) (.v 16) (.v 20))
def bcF : GenF := geF (hd (.v 4) (.v 24) (.v 28) (.v 32))
def mldF (n : Opnd) : GenF := geF (hd (.v 4) (.v 8) (.v 8) n)
def mzF (n : Opnd) : GenF := geF (hd (.v 4) (.v 8) n .null)

def blockB (b : List Byte) (i : Instr) (g : Guard) (r : Option EngReq) : Bool :=
  let s := engState b
  readyIn s [i] && decide (workMask ⟨s, engWave, path0⟩ g ≠ 0) && (match r with
    | none => true
    | some y => decide (rangeFault (scrAlloc s engWave).2 y = none) && decide (globalFault s engWave y = none) &&
      decide (cpyTbBad y = none) && decide (cpyTbOut (scrAlloc s engWave).2 y = none) &&
      engRoom (getCore s 0) (y.scrR.length + y.scrW.length))

theorem engine_ready (b : List Byte) (i : Instr) (g : Guard) (r : Option EngReq) (h : blockB b i g r = true) :
    Ready (engState b) i engWave path0 ∧ workMask ⟨engState b, engWave, path0⟩ g ≠ 0 ∧ engWave.home = none ∧
      ∀ y, r = some y → EngineReady (engState b) i engWave path0 g y ∧ cpyTbBad y = none ∧
        cpyTbOut (scrAlloc (engState b) engWave).2 y = none := by
  simp only [blockB, Bool.and_eq_true, decide_eq_true_eq] at h
  have hr : Ready (engState b) i engWave path0 := by
    have := h.1.1
    simp only [readyIn, Bool.and_eq_true, List.all_eq_true, decide_eq_true_eq] at this
    exact ⟨rfl, rfl, (this.2 i (List.mem_singleton.mpr rfl)).1, (this.2 i (List.mem_singleton.mpr rfl)).2⟩
  refine ⟨hr, h.1.2, rfl, ?_⟩
  rintro y rfl
  simp only [Bool.and_eq_true, decide_eq_true_eq] at h
  obtain ⟨⟨_, hw⟩, ⟨⟨⟨a, b⟩, c⟩, d⟩, e⟩ := h
  exact ⟨⟨hr, hw, rfl, rfl, a, b, e⟩, c, d⟩

/-- The request of a block instruction, as the statement computes it. -/
def rq (i : Nat) (b : List Byte) : Option EngReq :=
  let x : Rd := ⟨engState b, engWave, path0⟩
  let blk := bytesOfNat 64 (scrRead (engState b) 0 (2048 + opnd32 x egF.h.sa 0) 64)
  let a := cpyArgs egF x 0
  match i with
  | 0 => mmxReq blk
  | 1 => mepiReq blk
  | 2 => wmvReq blk
  | 3 => wldReq blk
  | 4 => cpyLdReq blk a.1 a.2
  | 5 => cpyStReq blk a.1 a.2
  | _ => cpymReq blk a.1 a.2

def blockCases : List (Nat × Instr × List Byte) :=
  [(0, .mmx egF, mmxB), (1, .mepi egF, mepiB), (2, .wmv egF, wmvB), (3, .wld egF, wldB), (4, .cpyLd egF, cpyB 0),
   (5, .cpySt egF, cpyB 0), (6, .cpym egF, cpyB 1)]

/-- Blocks in order, and blocks of zeros, which are not. -/
theorem witness_engineBlocks : ∀ c ∈ blockCases,
    (BlockHere (engState c.2.2) engWave 0x40 ∧ (rq c.1 c.2.2).isSome = true ∧ ∀ y, rq c.1 c.2.2 = some y →
      EngineReady (engState c.2.2) c.2.1 engWave path0 none_.g y ∧ cpyTbBad y = none ∧
        cpyTbOut (scrAlloc (engState c.2.2) engWave).2 y = none) ∧
    (Ready (engState []) c.2.1 engWave path0 ∧ BlockHere (engState []) engWave 0x40 ∧
      workMask ⟨engState [], engWave, path0⟩ none_.g ≠ 0 ∧ rq c.1 [] = none) := by
  intro c hc
  have h : (blockCases.all (fun c => blockB c.2.2 c.2.1 none_.g (rq c.1 c.2.2) && (rq c.1 c.2.2).isSome &&
      blockB [] c.2.1 none_.g none && (rq c.1 []).isNone)) = true := by decide +kernel
  have h2 : ∀ c ∈ blockCases, touchesEmpty (getCore (engState c.2.2) 0) (2048 + 0x40) 64 = false ∧
      scrParity (getCore (engState c.2.2) 0) (2048 + 0x40) 64 = false := by decide +kernel
  have k := List.all_eq_true.mp h c hc
  simp only [Bool.and_eq_true, Option.isNone_iff_eq_none] at k
  obtain ⟨⟨⟨a, b⟩, d⟩, e⟩ := k
  obtain ⟨_, _, _, r⟩ := engine_ready _ _ _ _ a
  obtain ⟨r1, r2, _, _⟩ := engine_ready _ _ _ _ d
  refine ⟨⟨⟨by decide, (by decide : 0x40 + 64 ≤ 0x10000), (h2 c hc).1, (h2 c hc).2⟩, b, r⟩, r1,
    ⟨by decide, (by decide : 0x40 + 64 ≤ 0x10000), by decide +kernel, by decide +kernel⟩, r2, e⟩

def plainReq (i : Nat) (f : GenF) : Option EngReq :=
  let x : Rd := ⟨engState [], engWave, path0⟩
  let a := opnd32 x f.h.sa 0
  let b := opnd32 x f.h.sb 0
  match i with
  | 0 => mmzReq a b
  | 1 => mldA2sReq a b (opnd32 x f.h.sc 0)
  | 2 => mldS2aReq a b (opnd32 x f.h.sc 0)
  | 3 => bcpyArgs false f x 0
  | _ => bcpyArgs true f x 0
def regAgent : GenF := geF (hd (.v 4) (.v 24) (.v 28) (.v 8))
def plainCases : List (Nat × Instr × GenF × Bool) :=
  [(0, .mmz (mzF (.v 32)), mzF (.v 32), true), (0, .mmz (mzF .null), mzF .null, false),
   (1, .mldA2s (mldF (.v 32)), mldF (.v 32), true), (1, .mldA2s (mldF .null), mldF .null, false),
   (2, .mldS2a (mldF (.v 32)), mldF (.v 32), true), (2, .mldS2a (mldF .null), mldF .null, false),
   (3, .bcpy bcF, bcF, true), (3, .bcpy { bcF with h := { bcF.h with sc := .null } }, { bcF with h := { bcF.h with sc := .null } }, false),
   (4, .bcpyReg bcF, bcF, true),
   (4, .bcpyReg { bcF with h := { bcF.h with sc := .null } }, { bcF with h := { bcF.h with sc := .null } }, false)]

theorem witness_enginePlain : ∀ c ∈ plainCases, (plainReq c.1 c.2.2.1).isSome = c.2.2.2 ∧ Ready (engState []) c.2.1 engWave path0 ∧
    ∀ y, plainReq c.1 c.2.2.1 = some y → EngineReady (engState []) c.2.1 engWave path0 none_.g y := by
  intro c hc
  have h : (plainCases.all (fun c => blockB [] c.2.1 none_.g (plainReq c.1 c.2.2.1) &&
      decide ((plainReq c.1 c.2.2.1).isSome = c.2.2.2))) = true := by decide +kernel
  have k := List.all_eq_true.mp h c hc
  simp only [Bool.and_eq_true, decide_eq_true_eq] at k
  obtain ⟨r1, _, _, r⟩ := engine_ready _ _ _ _ k.1
  exact ⟨k.2, r1, fun y hy => (r y hy).1⟩

def comp0 : Comp := { tag := 64, status := 2, engine := 1, wave := 0, addr := 0x2000 }
/-- Completions and outstanding commands of the workgroup. -/
def compState (l : List Comp) (c : List Cmd) (b : PathSt) : State :=
  { engState [] with wgs := [(4, { engGroup with comps := l, compLost := 3 })], cores := [(0, { score := c })],
                     waves := [(128, { engWave with slot0 := some { path0 with st := b } })] }
/-- The tag is in v32, or 0. -/
def ewF (t : Bool) : GenF := geF (hd (.v 4) (if t then .v 32 else .konst 0) .null .null)

theorem witness_ewait :
    (∀ t l c b, (t, l, c, b) ∈ [(false, [comp0], [], PathSt.live), (true, [], [], .live), (true, [comp0], [], .live),
        (true, [], [{ cmd0 with tag := 64 }], .live), (false, [], [cmd0], .live), (true, [comp0], [], .blocked (.ewait [64] true))] →
      let s := compState l c b
      let w := getWave s 128
      Ready s (.ewait (ewF t)) w { path0 with st := b } ∧ workMask ⟨s, w, { path0 with st := b }⟩ none_.g ≠ 0 ∧
      opnd32 ⟨s, w, { path0 with st := b }⟩ (ewF t).h.sa 0 = (if t then 64 else 0) ∧ (compList s w).1 = l ∧
      (((ownCmds s 128 w).filter (fun y => if t = false then y.wave == some 128 else y.tag == 64)) = [] ↔ c = [])) ∧
    (∀ l, l = [] ∨ l = [comp0] → let s := compState l [] .live
      Ready s (.evpop (geF (hd (.v 4) .null .null .null))) (getWave s 128) path0 ∧ (compList s (getWave s 128)) = (l, 3)) := by
  constructor
  · intro t l c b h
    simp only [List.mem_cons, Prod.mk.injEq, List.not_mem_nil, or_false] at h
    rcases h with h | h | h | h | h | h <;> obtain ⟨rfl, rfl, rfl, rfl⟩ := h <;>
      exact ⟨rd _ _ _ (by decide +kernel), by decide +kernel⟩
  · rintro l (rfl | rfl) <;> exact ⟨rd _ _ _ (by decide +kernel), by decide +kernel⟩

/-- A command in the scoreboard of core 0. -/
def cmdState (c : Cmd) : State := { engState [] with cores := [(0, { score := [c] })] }
def mcPkt (a : Bool) : Pkt := { src := 0, dst := 0, cls := .bulk, arrived := a, msg := .mcast 0 1 2048 [some 7, none] none 9 }
def wmvCmd (k : CmdK) : Cmd := { cmd0 with agent := agentId {} 24 0, k := k, started := true }
def wState (k : CmdK) (st : WSlotSt) : State :=
  { engState [] with cores := [(24 * 128, { score := [wmvCmd k] })],
                     wdies := [(0, { slots := [(3, { st := st, k := 32, n := 1 })], ops := [(24 * 128, 1)] })] }

theorem witness_EngineEvents :
    (findCmd (cmdState cmd0) 0 1 = some cmd0 ∧ cmd0.started = false ∧ engRuns (cmdState cmd0) (cmdNode cmd0) = true ∧
      ((getCore (cmdState cmd0) 0).score.takeWhile (fun y => y.tag != 1)).all (fun y => letsStart y cmd0) = true) ∧
    (let c := { cmd0 with started := true, written := true }
     findCmd (cmdState c) 0 1 = some c ∧ c.regs = [] ∧ engRuns (cmdState c) (cmdNode c) = true) ∧
    (let c := { cmd0 with started := true }
     findCmd (cmdState c) 0 1 = some c ∧ c.written = false ∧ slotOf c.k = none ∧ c.inp = none ∧
      cmdHeld (cmdState c) c (runMap c.asid (cmdGlbR c.k)) = false ∧
      cmdHeld (cmdState c) c (runMap c.asid ((cmdOut c {} false).glb.map (fun x => (x.1, x.2.length)))) = false) ∧
    (∀ a, a = true ∨ a = false → ∀ b, b = true ∨ b = false →
      let t : State := { (if b then engState [] else ms) with net := { inbox := [mcPkt a] } }
      servable t 0 = some (mcPkt a) ∧ (getNode t 0).busy = false ∧ (allocOwner t 0 0 1 2048 2).isSome = b) ∧
    (let t : State := { engState [] with net := { inbox := [mcPkt true] }, cores := [(0, { empty := [(16, [mcastMark 9])] })] }
     servable t 0 = some (mcPkt true) ∧ Tab.find (getCore t 0).empty 16 = some [mcastMark 9] ∧ (linesOf 2048 2).contains 16 = true) ∧
    (∀ k st, (k, st) ∈ [(CmdK.wmv wmvB, WSlotSt.empty), (.wmv wmvB, .valid), (.wld wldB, .valid), (.wld wldB, .loading)] →
      let s := wState k st
      (getWdie s 0).ops.find? (fun z => match findCmd s z.1 z.2 with
        | some y => (slotOf y.k).any (fun x => x % 64 == 3 && 2 * (cmdNode y - 24) + x / 64 == 0)
        | none => false) = some (24 * 128, 1) ∧ findCmd s (24 * 128) 1 = some (wmvCmd k) ∧ nodeActive s 32 = true ∧
      engRuns s (cmdNode (wmvCmd k)) = true ∧ (Tab.get {} (getWdie s 0).slots 3).st = st ∧
      cmdHeld s (wmvCmd k) (runMap 1 (cmdGlbR k)) = false ∧ (worst (cmdRead s (24 * 128) (wmvCmd k) 0).2.codes).1 ≤ stRace) ∧
    (∀ st, st = WSlotSt.valid ∨ st = .empty → (wmvStatus (wState (.wmv wmvB) st) (wmvCmd (.wmv wmvB)) (wmvP wmvB)
        (Tab.get {} (getWdie (wState (.wmv wmvB) st) 0).slots 3) = 0 ↔ st = .valid)) := by
  refine ⟨by decide +kernel, by decide +kernel, by decide +kernel, ?_, by decide +kernel, ?_, ?_⟩
  · rintro a (rfl | rfl) b (rfl | rfl) <;> decide +kernel
  · intro k st h
    simp only [List.mem_cons, Prod.mk.injEq, List.not_mem_nil, or_false] at h
    rcases h with h | h | h | h <;> obtain ⟨rfl, rfl⟩ := h <;> decide +kernel
  · rintro st (rfl | rfl) <;> decide +kernel

theorem witness_cleanCmd : ∀ k ∈ [CmdK.mmx mmxB, .mmz 0 64, .mldA2s 0 0 64, .mldS2a 0 0 64, .cpyLd (cpyB 0) 0 0 0 0 0 none],
    CleanCmd (cmdState { cmd0 with k := k }) { cmd0 with k := k } {} ∧ mmxBad mmxB = false ∧
      (tileData { cmd0 with k := k } {} (tensorP (cpyB 0)) (coords 0 0 0 0)).length = 32 := by
  intro k hk
  simp only [List.mem_cons, List.not_mem_nil, or_false] at hk
  rcases hk with rfl | rfl | rfl | rfl | rfl <;>
    refine ⟨⟨rfl, rfl, ?_⟩, by decide +kernel⟩ <;> intro k g h hg <;> obtain rfl : 4 = k := Option.some.inj h <;>
    obtain rfl : engGroup = g := Option.some.inj hg <;> rfl

/-! ## System instructions -/

/-- A wave in handler mode, with 0x2000 in v8:v9. -/
def sysWave : Wave := { handlerWave 3 with regs := [(8, .u 0x2000), (9, .u 0)] }
def hPath : Path := { pc := 0x8000, mask := 1 }
/-- The lines of the L1 from 0x2000 hold its own save area of 1,544 bytes (R436). -/
def areaData : Tab (BitVec 1024) :=
  [(0, 0x1000000000000000000ffffffff0000060800000001), (1, 0x20000000000000000000000000000000000000000000000000000000000000000000),
   (10, 0x1ffffffff0000000000001000), (12, 0x5afe000000000001)]
def areaLine (i : Nat) : Line := { valid := BitVec.allOnes 128, data := Tab.get 0 areaData i }
def sysState : State := { memState sysWave with l1 := (List.range 13).map (fun i => (cacheKey 0 (lineKey 1 (0x40 + i)), areaLine i)) }
def gF (d a b c : Opnd) : GenF := geF (hd d a b c)
def capF : GenF := gF (.v 4) (.v 8) .null .null
/-- Register 32 is writable, 0 is not, 31 does not exist. -/
def ctlF (n : BitVec 6) : GenF := gF (.v 4) (.konst n) (.v 8) .null
def crF (n : Nat) : GenF := gF (.v 4) (if n = 32 then .v 12 else if n = 31 then .v 16 else .konst 0) .null .null
def cwF (n : Nat) : GenF := gF .null (if n = 32 then .v 12 else if n = 31 then .v 16 else .konst 0) (.v 8) .null
def ctlWave : Wave := { memWave with regs := [(8, .u 7), (9, .u 0), (12, .u 32), (16, .u 31)] }
def areaF : GenF := gF (.v 4) (.v 8) .null .null
def lrF : GenF := gF .null (.v 8) .null .null

theorem witness_SystemInstructions :
    (∃ p, Ready ms (.capr capF) (getWave ms 128) p) ∧
    (∀ n, n = 0 ∨ n = 31 ∨ n = 32 → let s := memState ctlWave
      Ready s (.ctlr (crF n)) (getWave s 128) path0 ∧ Ready s (.ctlw (cwF n)) (getWave s 128) path0 ∧
      workMask ⟨s, ctlWave, path0⟩ none_.g ≠ 0 ∧ numOpnd ⟨s, ctlWave, path0⟩ (crF n).h.sa = n ∧
      numOpnd ⟨s, ctlWave, path0⟩ (cwF n).h.sa = n ∧ (ctlKind n = .none_ ↔ n = 31) ∧
      (ctlWritable n (ctlWave.general && ctlWave.sup) = true ↔ n = 32) ∧ releaseWaits s 128 .pkg = false) := by
  refine ⟨⟨path0, rd _ _ _ (by decide +kernel)⟩, ?_⟩
  rintro n (rfl | rfl | rfl) <;> exact ⟨rd _ _ _ (by decide +kernel), rd _ _ _ (by decide +kernel), by decide +kernel⟩

theorem rdw (s : State) (i : Instr) (w : Wave) (p : Path)
    (h : getWave s s.cur = w ∧ curPath w = some p ∧ renameBad w i = none ∧ queueWaits w i = false) : Ready s i w p :=
  ⟨h.1, h.2.1, h.2.2.1, h.2.2.2⟩

theorem area_lines : ∀ j, j < 13 → nearLine sysState 0 0 (lineKey 1 (0x40 + j))
    ((homeAt sysState 0 (lineAsid (lineKey 1 (0x40 + j))) (lineNo (lineKey 1 (0x40 + j)) * 128)).getD 0) .l1 = areaLine j := by
  decide +kernel

def areaBytes : List Byte := (List.range 1544).map (fun i => lineByte (areaLine (i / 128)) (i % 128))

/-- The L1 holds the area from 0x2000. -/
theorem area_value (n : Nat) (h : n ≤ 1544) : coreValue sysState sysWave 0x2000 n = natOfBytes (areaBytes.take n) := by
  have e : areaBytes.take n = (List.range n).map (fun i => lineByte (areaLine (i / 128)) (i % 128)) := by
    rw [areaBytes, ← List.map_take, List.take_range, Nat.min_eq_left h]
  rw [coreValue, e]
  congr 1
  apply List.map_congr_left
  intro i hi
  have hi := List.mem_range.mp hi
  have hv : va54 (0x2000 : DWord) = 0x2000 := by decide
  have ha : asidOf sysWave.asid (0x2000 : DWord) = 1 := by decide
  have hd : (0x2000 + i) / 128 = 0x40 + i / 128 := by omega
  have hm : (0x2000 + i) % 128 = i % 128 := by omega
  have hj : i / 128 < 13 := by omega
  simp only [coreByte, hv, ha, hd, hm]
  have hq : ∀ k, (sqLine sysWave k).valid.getLsbD (i % 128) = false := fun k => BitVec.getLsbD_zero
  rw [if_neg (by rw [hq]; decide)]
  exact congrArg (fun l => lineByte l (i % 128)) (area_lines (i / 128) hj)

theorem witness_lsave : Ready sysState (.lsave areaF) sysWave hPath ∧ (getWave sysState sysState.cur = sysWave ∧
    sysWave.general = false ∧ sysWave.badRegs = []) ∧ workMask ⟨sysState, sysWave, hPath⟩ none_.g ≠ 0 ∧
    (0x2000 : DWord).toNat % 64 = 0 ∧ waveArea (interrupted sysWave) = areaBytes ∧ areaBytes.length = 1544 ∧
    LanesAllowed sysState sysWave .write false 1544 [(0, 0x2000)] := by
  refine ⟨rdw _ _ _ _ (by decide +kernel), by decide +kernel, by decide +kernel, by decide +kernel, ?_, ?_, ?_⟩
  · decide +kernel
  · decide +kernel
  · exact lanes_ok sysState sysWave .write false 1544 [(0, 0x2000)] (by decide +kernel)

theorem witness_lrest : Ready sysState (.lrest lrF) sysWave hPath ∧ (sysWave.op = {} ∧ (0x2004 : DWord).toNat % 64 ≠ 0) ∧
    fieldAt (bytesOfNat 64 (coreValue sysState sysWave 0x2000 64)) 4 4 = 1544 ∧ 1544 ≤ areaMax ∧
    LanesAllowed sysState sysWave .read false 1544 [(0, 0x2000)] ∧ LanesAllowed sysState sysWave .read false 64 [(0, 0x2000)] ∧
    CoreHolds sysState sysWave 1544 [(0, 0x2000)] ∧ CoreHolds sysState sysWave 64 [(0, 0x2000)] ∧
    (restoreArea sysWave (bytesOfNat 1544 (coreValue sysState sysWave 0x2000 1544))).isSome = true := by
  refine ⟨rdw _ _ _ _ (by decide +kernel), by decide, ?_, by decide, ?_, ?_, ?_, ?_, ?_⟩
  · rw [area_value 64 (by decide)]
    decide +kernel
  · exact lanes_ok sysState sysWave .read false 1544 [(0, 0x2000)] (by decide +kernel)
  · exact lanes_ok sysState sysWave .read false 64 [(0, 0x2000)] (by decide +kernel)
  · exact core_holds_of sysState sysWave 1544 [(0, 0x2000)] (by decide +kernel)
  · exact core_holds_of sysState sysWave 64 [(0, 0x2000)] (by decide +kernel)
  · rw [area_value 1544 (by decide), List.take_of_length_le (by decide +kernel)]
    decide +kernel

/-- A thread of hub 0 in supervisor mode: the base in r8:r9, the size 2^16 in r12, the ASID or slot 1 in r16, 0 in r20. -/
def thread1 : Wave := { defaultWave 3 with regs := [(8, .u 0x2000000), (9, .u 0), (12, .u 16), (16, .u 1), (20, .u 0)] }
def thState : State := threadState thread1
def tPath : Path := { pc := 0, mask := 1 }
def aiF (k : Opnd) : GenF := gF .null (.v 8) k (.v 16)
def inv0 (tag : Option Nat) : Atinv := { who := .wave 3, asid := 1, range := { lo := 0x2000000, hi := 0x2010000 }, force := false, tag := tag }
def kdF : GenF := gF (.v 4) (.v 16) .null .null
def kdO : GenF := gF .null .null .null .null
def keyThread (v : Tab Nat) : State := threadState { thread1 with op := { id := 5, vals := v } }
def ownKey : State := { ms with ctxs := [(1, { memCtx with slot := 1 })] }

theorem witness_atinv :
    (∀ i, i = Instr.atinv (aiF (.v 12)) ∨ i = .atinvForce (aiF (.v 12)) ∨ i = .atinv (aiF (.v 20)) ∨ i = .atinvForce (aiF (.v 20)) →
      Ready thState i thread1 tPath) ∧
    workMask ⟨thState, thread1, tPath⟩ none_.g ≠ 0 ∧ thread1.pend = [] ∧
    atinvRange 0x2000000 16 1 = some { lo := 0x2000000, hi := 0x2010000 } ∧ atinvRange 0x2000000 0 1 = none ∧
    (thState.atinvs.find? (sameAtinv (inv0 none)) = none ∧ atinvBlocked thState (inv0 none) = false) ∧
    (∀ t, t = none ∨ t = some 9 → let s := { thState with atinvs := [inv0 t] }
      s.atinvs.find? (sameAtinv (inv0 none)) = some (inv0 t) ∧ atinvLeased s (inv0 t) = false ∧ (inv0 t).tag = t ∧
        atinvRegions s (inv0 t) = []) := by
  refine ⟨?_, by decide +kernel, by decide +kernel, by decide +kernel, by decide +kernel, by decide +kernel, ?_⟩
  · rintro i (rfl | rfl | rfl | rfl) <;> exact ⟨rfl, rfl, by decide +kernel, by decide +kernel⟩
  · rintro t (rfl | rfl) <;> decide +kernel

theorem witness_keydrop :
    (Ready ownKey (.keydrop kdO) memWave path0 ∧ waveSlot ownKey memWave ≠ 0 ∧ releaseWaits ownKey 128 .sys = false) ∧
    (∀ v, v = [] ∨ v = [(0, 2)] → ∀ k, k = ({} : KeySlot) ∨ k = { alloc := true, gen := 3 } →
      let s := { keyThread v with keys := [(1, k)] }
      Ready s (.keydrop kdF) (getWave s 3) tPath ∧ workMask ⟨s, getWave s 3, tPath⟩ none_.g ≠ 0 ∧
      numOpnd ⟨s, getWave s 3, tPath⟩ kdF.h.sa = 1 ∧ getKey s 1 = k ∧ (getWave s 3).op.vals = v ∧
      (v = [(0, 2)] → k.gen ≠ 2)) := by
  refine ⟨⟨⟨rfl, rfl, by decide +kernel, by decide +kernel⟩, by decide +kernel⟩, ?_⟩
  rintro v (rfl | rfl) k (rfl | rfl) <;> exact ⟨⟨rfl, rfl, by decide +kernel, by decide +kernel⟩, by decide +kernel⟩

/-- A debug pool of two slots. -/
def poolCtx : Ctx := { memCtx with dbgPool := 0x0800000000000000 }
def holdState (pool : Bool) : State :=
  { memState { wave1 with regs := [(8, .u 0x2000), (9, .u 0)] } with
    ctxs := [(1, if pool then poolCtx else memCtx)], wgs := [(4, { barGroup {} with waves := [128] })] }
def whF : GenF := gF (.p 1) .null .null .null
def csF : GenF := gF (.v 4) .null .null .null
def sleepWave (c : Option Nat) : Wave := { memWave with mon := some (monitor0 c) }

theorem witness_whalt : (∀ pool, pool = true ∨ pool = false →
      (∀ i ∈ [Instr.whalt whF, .whaltGroup whF], ∃ p, Ready (holdState pool) i (getWave (holdState pool) 128) p) ∧
      holdPossible (holdState pool) (getWave (holdState pool) 128) = pool) ∧
    ((getWave (holdState true) 128).wg = some 4 ∧ (getWg (holdState true) 4).map (·.st) = some .resident) ∧
    (∀ c, c = none ∨ c = some 1 → let s := memState (sleepWave c)
      Ready s (.csleep csF) (getWave s 128) path0 ∧ workMask ⟨s, getWave s 128, path0⟩ none_.g ≠ 0 ∧
      (getWave s 128).mon = some (monitor0 c)) ∧
    (let q : Path := { path0 with st := .blocked (.csleep csF none) }
     let s := memState { sleepWave (some 1) with slot0 := some q }
     blockedAt s 128 0 = some (q, .csleep csF none) ∧ mwaitDue s (getWave s 128) none 1 = true ∧
      mwaitDue s (getWave s 128) none 4 = true ∧ (getWave s 128).mon.isSome = true) ∧
    (let s : State := { holdState true with wgs := [(4, { barGroup {} with waves := [128], st := .halting cSoftTrap 5 true })] }
     (∃ p, Ready s (.whaltGroup whF) (getWave s 128) p) ∧ holdPossible s (getWave s 128) = true ∧
      (getWg s 4).map (·.st) = some (.halting cSoftTrap 5 true)) ∧
    (let s := holdState true
     let v := getWave s 128
     (poolWrite (withdrawTokens { s with watches := s.watches.filter (fun x => x.wave != 128) } 128) v.asid
       (imageBytes true (scrAlloc s v).2 [(v.num, waveArea v)] (fun _ => {}) (fun _ => true) [] [])).2.isSome = true) := by
  refine ⟨?_, by decide +kernel, ?_, by decide +kernel, ⟨⟨path0, rd _ _ path0 (by decide +kernel)⟩, by decide +kernel⟩,
    by decide +kernel⟩
  · rintro pool (rfl | rfl) <;> exact ⟨ready_of _ _ (by decide +kernel), by decide +kernel⟩
  · rintro c (rfl | rfl) <;> exact ⟨rd _ _ _ (by decide +kernel), by decide +kernel⟩

/-! ## Waves between their instructions -/

def def0 : DefTrap := { cause := cLeaseLost, sub := 0, lane := 3, hnd := false, addr := 0x2000 }
def haltGroup0 (r0 : RunSt) (st : PathSt) : State :=
  { groupState with waves := [(128, { wave1 with run := r0, slot0 := some { path0 with st := st } })],
                    wgs := [(4, { twoGroup with waves := [128], st := .halting cSoftTrap 5 false })] }
def queued0 : QPath := { pc := 0x3000, mask := 2, wait := 256, sync := none }
def ldsHead : State := headState (ss 1020) (scrWave 1020) (.lds false ldsF)

theorem witness_WaveEvents :
    (let w := { wave0 with deferred := [def0] }
     let s := trapState w
     getWave s 128 = w ∧ waveRuns s 128 = true ∧ w.run = .run ∧ w.general = false ∧ w.handler = none ∧
      indexWhere (deferredReady w) w.deferred = some 0 ∧ w.deferred[0]? = some def0 ∧ boundaryPath w = some path0 ∧
      handlerTakes (getCtx s w.asid) (preciseTrap w path0 def0.cause def0.sub 0 0 0) = true) ∧
    (∀ r st, (r, st) ∈ [(RunSt.run, PathSt.live), (.run, .blocked (.racq 7 none)), (.halting 0 5, .live)] → let s := haltGroup0 r st
      (getWave s 128).wg = some 4 ∧ (getWg s 4).map (·.st) = some (.halting cSoftTrap 5 false) ∧ waveExists s 128 = true ∧
      waveEnded (getWave s 128) = false ∧ (getWave s 128).run = r ∧ (waveBlocked (getWave s 128) = true ↔ st ≠ .live)) ∧
    (let w := { wave0 with queue := [queued0] }
     waveRuns (stOf w) 128 = true ∧ w.op.id = 0 ∧ w.handler = none ∧ promotionDue w = true ∧
      indexWhere (fun q => eligible q && decide (256 ≤ q.wait)) w.queue = some 0) ∧
    (let p : Path := { path0 with st := .join 256 }
     let s := stOf { wave0 with slot0 := some p }
     waveExists s 128 = true ∧ (getWave s 128).op.id = 0 ∧ getSlot (getWave s 128) 0 = some p) ∧
    ((Tab.find (getCore ldsHead 0).empty 16).isSome = false ∧ (headInstr ldsHead 128).map (fun x => x.2) = some (.lds false ldsF)) := by
  refine ⟨by decide +kernel, ?_, by decide +kernel, by decide +kernel, by decide +kernel⟩
  intro r st h
  simp only [List.mem_cons, Prod.mk.injEq, List.not_mem_nil, or_false] at h
  rcases h with h | h | h <;> obtain ⟨rfl, rfl⟩ := h <;> decide +kernel

/-! ## Flows, package time, rewrites -/

def wp (seq : Nat) : Pkt := { src := 1, dst := 0, cls := .reg, fl := some (64, 3, 0), seq := seq, msg := .held 7 }
def flow0 (r : List Pkt) : Flow := { key := (64, 3, 0), expect := 5, reorder := r }
/-- A message with this SEQ arrives while its flow expects 5. -/
def wireState (seq : Nat) (r : List Pkt) : State := { net := { wire := [wp seq], flows := [flow0 r] } }
/-- A delivered message. -/
def one (p : Pkt) : State := { ms with net := { inbox := [p] } }
def pk (src dst : Nat) (m : Msg) : Pkt := { src := src, dst := dst, cls := .syn, msg := m }
/-- The words of a record for module 0 from module 3. -/
def podWords : List DWord := [0x0C0000, 5, 0, 0, 0, 0, 0, 0, 0, 0, 0, 0]
/-- A record toward module 3 at hub 48, after some hops. -/
def outPkt (hops : Nat) : Pkt := { pk 0 48 (.spawn 0 1 0 h3 rec0 [] 128 0 0) with mod := some 3, hops := hops }
def gbPkt : Pkt := { pk 0 48 (.gbarArr 1 3 2 .sys 128 0 9 []) with mod := some 3 }
def podNet (p : Pkt) (up : List Nat) : State :=
  { stOf { wave0 with op := { id := 9 } } with
    net := { inbox := [p] }, nodes := up.map (fun h => (h, { tribs := [(8 * (h - 48), { up := true, peer := 3 })], routes := [(3, 2 ^ (8 * (h - 48)))] })) }

theorem witness_FlowEvents :
    (∀ seq, seq = 5 ∨ seq = 6 ∨ seq = 32772 ∨ seq = 4 → let s := wireState seq []
      s.net.wire[0]? = some (wp seq) ∧ (wp seq).fl = some (64, 3, 0) ∧ stalls s (wp seq) = false ∧ getFlow s.net (64, 3, 0) = flow0 [] ∧
      ((seq + 65536 - 5) % 65536 = 0 ∨ 0 < (seq + 65536 - 5) % 65536)) ∧
    ((wireState 5 [wp 6]).net.wire[0]? = some (wp 5) ∧ getFlow (wireState 5 [wp 6]).net (64, 3, 0) = flow0 [wp 6]) ∧
    (3 ≠ (stOf wave0).mods.podId ∧ clsOf (bitsOf (wordLo podWords 0) 18 3) = some .syn ∧
      (podPkt (stOf wave0) 3 .syn podWords).isSome = true ∧ clsOf (bitsOf (wordLo [0x180000] 0) 18 3) = none ∧
      bitsOf (wordLo podWords 0) 21 4 = 0 ∧ 0 % 65536 = (getFlow (stOf wave0).net (65536 + 3 * 64 + 48, clsCode .syn, 0)).expect) ∧
    (wireState 5 []).net.flows[0]? = some (flow0 []) ∧
    (∀ h up, (h, up) ∈ [(4, []), (0, [48]), (3, [49]), (3, [])] → let s := podNet (outPkt h) up
      servable s 0 = some (outPkt h) ∧ (outPkt h).mod = some 3 ∧ hubReaches s 48 3 = up.contains 48 ∧
        hubReaches s 49 3 = up.contains 49) ∧
    (servable (podNet gbPkt []) 0 = some gbPkt ∧ gbPkt.smod = none ∧ (outPkt 4).smod = none ∧ waveExists (podNet gbPkt []) 128 = true ∧
      (getWave (podNet gbPkt []) 128).op.id = 9) ∧
    (let p := pk 48 0 (.spawn 0 1 0 h3 rec0 [] 128 0 3)
     servable (one p) 0 = some p ∧ p.mod = none) ∧
    (∀ m ∈ [Msg.spawnRsp 128 0 0, .flowReset 5, .hold 1, .holdClear], servable (one (pk 49 48 m)) 0 = some (pk 49 48 m)) := by
  refine ⟨?_, by decide +kernel, by decide +kernel, by decide +kernel, ?_, by decide +kernel, by decide +kernel,
    by decide +kernel⟩
  · rintro seq (rfl | rfl | rfl | rfl) <;> decide +kernel
  · intro h up k
    simp only [List.mem_cons, Prod.mk.injEq, List.not_mem_nil, or_false] at k
    rcases k with k | k | k | k <;> obtain ⟨rfl, rfl⟩ := k <;> decide +kernel

def clockState (run : Nat) : State :=
  { time := 1000, mods := { boot := .ready }, nodes := [(5, { missRun := run, ptime := 900 }), (49, { missRun := run })] }

theorem witness_ptime : (∀ n, n = 0 ∨ n = 7 → 5 ≠ timeSource (clockState n) ∧ timeStarted (clockState n) = true ∧
      nodeLost (clockState n) 5 = false ∧ nodeLost (clockState n) (timeSource (clockState n)) = false ∧
      (getNode (clockState n) 5).stampAt + 1000 ≤ (clockState n).time) ∧
    ((clockState 10).mods.source = 0 ∧ nodeLost (clockState 10) 49 = false ∧ 10 ≤ (getNode (clockState 10) 49).missRun) := by
  refine ⟨?_, by decide +kernel⟩
  rintro n (rfl | rfl) <;> decide +kernel

/-- Entry 0 is to name die 1. -/
def homeDie1 : BitVec 128 := homeDie0 ||| BitVec.ofNat 128 (2 ^ 88)
def goState (ent : BitVec 128) : State := { ms with mods := { ms.mods with rehomeEnt := ent } }
def goWord : Word := BitVec.ofNat 32 (2 ^ 28 + 1)
def reh (phase : Nat) (acks ends committed : List Nat) : Rehome :=
  { id := 1, asid := 1, index := 0, old := BitVec.ofNat 128 (2 ^ 126 + 2 * 2 ^ 38), new := BitVec.ofNat 128 (2 ^ 126 + 2 ^ 88 + 2 * 2 ^ 38), phase := phase, acks := acks,
    ends := ends.map (fun g => (1, g)), committed := committed }
def rehState (p : Pkt) (r : Rehome) : State :=
  { ms with net := { inbox := [p] }, rehome := some r, tokens := [tok0 none], regions := [region0 1] }
def others (d : Nat) : List Nat := homeNodes.filter (fun x => x != d)

theorem witness_RewriteEvents :
    (bitsOf goWord.toNat 28 4 = 1 ∧ goError (goState homeDie1) 1 0 = none ∧ goError (goState 0) 1 0 = some 2) ∧
    (let s := rehState (pk 48 5 (.moveMark 1)) (reh 1 [] [] [])
     servable s 0 = some (pk 48 5 (.moveMark 1)) ∧ s.rehome = some (reh 1 [] [] []) ∧ egressWaits s 5 = false) ∧
    (∀ l, l = [] ∨ l = others 5 → let s := rehState (pk 5 48 (.markAck 1)) (reh 1 l [] [])
      servable s 0 = some (pk 5 48 (.markAck 1)) ∧ s.rehome = some (reh 1 l [] []) ∧
      ((∀ d ∈ rehomeNodes s, d ∈ 5 :: l) ↔ l ≠ []) ∧ (handoffList s (reh 1 l [] [])).length = 2) ∧
    (∀ m, m = Msg.handoff 1 0 ∨ m = .handoffData 1 0 ∨ m = .handoffAck 1 0 ∨ m = .handoffEnd 1 0 → let s := rehState (pk 0 1 m) (reh 2 [] [0] [])
      servable s 0 = some (pk 0 1 m) ∧ s.rehome = some (reh 2 [] [0] []) ∧ granuleOf (region0 1).base = 0) ∧
    (let s := { rehState (pk 0 1 (.handoffEnd 1 0)) (reh 2 [] [0, 1] []) with
        net := { inbox := [pk 0 1 (.handoffEnd 1 0), pk 0 1 (.handoffEnd 1 1)] } }
     servable s 0 = some (pk 0 1 (.handoffEnd 1 0)) ∧ ((reh 2 [] [0, 1] []).ends.filter (fun x => x != (1, 0))).filter
       (fun x => inFlight (takeMsg s 0) (handoffMsg 1 x.2)) = [(1, 1)]) ∧
    (∀ l, l = [] ∨ l = others 5 → let s := rehState (pk 48 5 .commit) (reh 3 [] [] l)
      servable s 0 = some (pk 48 5 .commit) ∧ s.rehome = some (reh 3 [] [] l) ∧
      ((∀ d ∈ rehomeNodes s, d ∈ 5 :: l) ↔ l ≠ [])) ∧
    (let p := pk 0 5 (.redirect taMsg .syn 4)
     servable (rehState p (reh 3 [] [] [])) 0 = some p ∧ (rehState p (reh 3 [] [] [])).rehome = some (reh 3 [] [] []) ∧
      servable (one p) 0 = some p ∧ (one p).rehome = none) := by
  refine ⟨by decide +kernel, by decide +kernel, ?_, ?_, by decide +kernel, ?_, by decide +kernel⟩
  · rintro l (rfl | rfl) <;> decide +kernel
  · rintro m (rfl | rfl | rfl | rfl) <;> decide +kernel
  · rintro l (rfl | rfl) <;> decide +kernel

/-! ## Leases and faults -/

/-- A task of die 0 with one part of a lease. -/
def part1 : LeasePart := { range := { lo := 0, hi := 0x10000 }, req := 6, kind := .write, grantor := 0, num := 1, e := 1000000 }
def leaseTask (p : LeasePart) : Task := { task0 .leasing none with parts := [p] }
def leaseState (now : Nat) (p : LeasePart) : State :=
  { dState with
    tasks := [(7, leaseTask p)], time := now, nodes := [(0, { ptime := now })],
    grants := [{ grant0 with num := 1, req := 6, holder := .task 7, e := 1000000 }], ctxs := [(1, { taskCtx with leases := [] })] }
/-- A request for the first 64 KiB, for task 7; kind 1 WRITE. -/
def reqMsg (hi : Nat) : Msg := .leaseReq 14 1 0 hi 1 0 0 6
def wantG : Grant :=
  { node := 0, num := 0, req := 6, asid := 1, range := { lo := 0, hi := 0x10000 }, kind := .write, holder := .task 7, part := 0,
    e := 0, live := false }
def reqState (now hi : Nat) (gs : List Grant) : State :=
  { leaseState now { part1 with pending := true } with net := { inbox := [pk 0 0 (reqMsg hi)] }, grants := gs }
def walk (s : State) (hi : Nat) : State × Option (Nat × Nat) := grantWalk (takeMsg s 0) { wantG with range := { lo := 0, hi := hi } }

theorem witness_LeaseEvents :
    (∀ gs, gs = [] ∨ gs = [{ grant0 with holder := .task 8 }] → let s := reqState 0 0x10000 gs
      servable s 0 = some (pk 0 0 (reqMsg 0x10000)) ∧ holderOf 14 = .task 7 ∧ kindOf 1 = .write ∧
      (∃ u, walk s 0x10000 = (u, none)) ∧ (grantBlocked s wantG s.grantWaits = true ↔ gs ≠ [])) ∧
    (let s := { reqState 0 0x20000 [] with ctxs := [] }
     servable s 0 = some (pk 0 0 (reqMsg 0x20000)) ∧ (walk s 0x20000).2.isSome = true ∧
      grantBlocked s { wantG with range := { lo := 0, hi := 0x20000 } } s.grantWaits = false) ∧
    (let s := { leaseState 0 { part1 with pending := true } with grants := [], grantWaits := [wantG] }
     (s.grantWaits.filter (fun g => g.node == 0))[0]? = some wantG ∧ (getNode s 0).halt = false ∧
      grantBlocked s wantG ((s.grantWaits.filter (fun x => x.node == 0)).take 0) = false ∧
      (grantWalk { s with grantWaits := s.grantWaits.filter (fun x => x != wantG) } wantG).2 = none) ∧
    (let s := { leaseState 0 { part1 with pending := true } with net := { inbox := [pk 0 0 (.grant 14 0 1 1000000 6)] } }
     servable s 0 = some (pk 0 0 (.grant 14 0 1 1000000 6)) ∧ (holderParts s (holderOf 14))[0]? = some { part1 with pending := true }) ∧
    (let s := leaseState 500000 part1
     (nodeParts s 0)[0]? = some (.task 7, 0, part1) ∧ part1.lost = false ∧ part1.pending = false ∧ part1.renewing = false ∧ part1.e ≤ nodeTime s 0 + 500000 ∧ (getNode s 0).dbgHold = false) ∧
    (∀ x, x = 499000 ∨ x = 400000 → let s := { leaseState 500000 part1 with net := { inbox := [pk 0 0 (.renew 0 6 x)] } }
      servable s 0 = some (pk 0 0 (.renew 0 6 x)) ∧ (∃ g ∈ s.grants, g.node = 0 ∧ g.req = 6 ∧ g.live = true) ∧
      ((x ≤ nodeTime s 0 + 2000 ∧ nodeTime s 0 ≤ x + 2000) ↔ x = 499000)) ∧
    (∀ m, m = Msg.renewed 0 6 2000000 ∨ m = .leaseLost 0 6 → let s := { leaseState 500000 part1 with net := { inbox := [pk 0 0 m] } }
      servable s 0 = some (pk 0 0 m) ∧ getTask s 7 = some (leaseTask part1) ∧ (leaseTask part1).die = 0 ∧
      (leaseTask part1).parts[0]? = some part1) ∧
    (let s := leaseState 998000 part1
     (nodeParts s 0)[0]? = some (.task 7, 0, part1) ∧ part1.pending = false ∧ part1.e ≤ nodeTime s 0 + 2000) ∧
    (let s := leaseState 1002000 part1
     (s.grants.filter (fun g => g.node == 0))[0]? = some { grant0 with num := 1, req := 6, holder := .task 7, e := 1000000 } ∧
      1000000 + 2000 ≤ nodeTime s 0) := by
  refine ⟨?_, by decide +kernel, by decide +kernel, by decide +kernel, by decide +kernel, ?_, ?_, by decide +kernel,
    by decide +kernel⟩
  · rintro gs (rfl | rfl) <;> exact ⟨by decide +kernel, by decide +kernel, by decide +kernel, none_of _ (by decide +kernel),
      by decide +kernel⟩
  · rintro x (rfl | rfl) <;> decide +kernel
  · rintro m (rfl | rfl) <;> decide +kernel

def faultTask : Task := { task0 (.faulted 9 0 1 0x2000) none with parts := [] }
def ringState (rec_ : FltRec) : State :=
  { ms with flt := { buffer := [rec_] }, nodes := [(48, { fltBase := BitVec.ofNat 64 (6 + 0x100 * 4096) })] }

theorem witness_FaultEvents :
    (let m := Msg.leaseFault 14 0 1 0x2000 6
     let s := { leaseState 0 part1 with net := { inbox := [pk 0 0 m] } }
     servable s 0 = some (pk 0 0 m) ∧ holderOf 14 = .task 7 ∧ getTask s 7 = some (leaseTask part1) ∧
      (leaseTask part1).parts[0]? = some part1 ∧ (faultRoute s 1 0x2000).1 = s.mods.podId) ∧
    (let s : State := { threadState thread1 with flt := { awaiting := [(9, .thread 3)] } }
     s.flt.awaiting.find? (fun a => a.1 == (9 : Word).toNat) = some (9, .thread 3)) ∧
    (let s : State := { leaseState 0 part1 with tasks := [(7, faultTask)], flt := { awaiting := [(9, .task 7)] } }
     s.flt.awaiting.find? (fun a => a.1 == (9 : Word).toNat) = some (9, .task 7) ∧ getTask s 7 = some faultTask ∧
      faultTask.st = .faulted 9 0 1 0x2000 ∧ faultTask.wg = none) ∧
    (let r : FltRec := { seq := 9, answer := false, bytes := List.replicate 256 1 }
     let s := ringState r
     let m := getNode s 48
     bitsOf m.fltBase.toNat 0 5 = 6 ∧ (m.fltHead - m.fltTail).toNat ≠ 2 ^ 6 ∧
      indexWhere (fun r => procOf s r.hub == 48) s.flt.buffer = some 0 ∧ s.flt.buffer[0]? = some r ∧
      paIsMemory (bitsOf m.fltBase.toNat 12 40 * 4096) = true) := by decide +kernel

/-! ## Contexts, their queues and their tokens -/

def busyFunc (b : Bool) : Tab Func := [(0, { ctxBusy := b })]
/-- Context 1 of function 0 lives; the command names another ASID. -/
def ctxState (b : Bool) : State := { ms with mods := { ms.mods with ready := true }, funcs := busyFunc b }

theorem witness_ContextEvents :
    (∀ cmd : Word, cmd = 0 ∨ cmd = 2 → let s := ctxState false
      s.mods.ready = true ∧ (createErr s 0 (bitsOf cmd.toNat 0 14) false (hostRead s 0 4096) = 0 ↔ cmd = 2)) ∧
    ((getFunc (ctxState true) 0).ctxBusy = true) ∧
    (∀ a, a = 0 ∨ a = 1 → (getFunc (ctxState false) 0).ctxBusy = false ∧
      ((getCtx (ctxState false) a).live = true ∧ (getCtx (ctxState false) a).func = 0 ↔ a = 1)) ∧
    (servable (one (pk 48 0 (.keyDestroy 1 2 0))) 0 = some (pk 48 0 (.keyDestroy 1 2 0)) ∧
      (getKey (one (pk 48 0 (.keyDestroy 1 2 0))) 1).gen = 0 ∧
      (getKey { one (pk 48 0 (.keyDestroy 1 2 3)) with keys := [(1, { gen := 3 })] } 1).gen = 3) ∧
    ctxThere ms 1 = true := by
  refine ⟨?_, by decide +kernel, ?_, by decide +kernel⟩
  · rintro cmd (rfl | rfl) <;> decide +kernel
  · rintro a (rfl | rfl) <;> decide +kernel

/-- LOG2N 6, the base 0x8000, die 1. -/
def qCmd : DWord := BitVec.ofNat 64 (6 * 2 ^ 54 + 0x8000 + 128)
def quar0 (l : List Nat) : State := { ms with queues := [(3, { gen := some 0, quar := some { due := l } })] }
def busyTok (b : Bool) : State := { ms with ctxs := [(1, { memCtx with tokBusy := b })] }
/-- 4 KiB at 0x2000. -/
def tokCmd0 : DWord := 0x2000
def tokWhole (l : List Token) : State := { ms with tokens := l }

theorem witness_ContextCommands : ctxThere ms 1 = true ∧
    (∀ x : DWord, x = 1 ∨ x = qCmd → (qCreateErr ms x = 0 ↔ x = qCmd)) ∧
    (List.range 2048).find? (fun i => (getQidx ms (2048 + i)).q.isNone && (getQidx ms (2048 + i)).quar.isNone) = some 0 ∧
    bitsOf qCmd.toNat 7 5 = 1 ∧
    (let s := qState (queue0 false 0 0 0 .visible)
     ctxThere s 1 = true ∧ qDestroyErr s 1 h3.toNat = 0 ∧ qDestroyErr s 1 0 ≠ 0) ∧
    (∀ m, m = none ∨ m = some 3 → let p := { pk 0 1 (.flush 0 3) with smod := m }
     servable (one p) 0 = some p ∧ (one p).net.wire = [] ∧ (one p).net.flows = [] ∧ ∀ q ∈ (one p).net.inbox, q.mod = none) ∧
    (∀ c, c = none ∨ c = some 1 ∨ c = some qCmd → ((getCtx { ms with ctxs := [(1, { memCtx with qCmd := c })] } 1).qCmd.any
      (fun c => c != qCmd) = false ↔ c ≠ some 1)) ∧
    (let s := { quar0 [1, 2] with net := { inbox := [pk 1 0 (.flushAck 1 3)] } }
     servable s 0 = some (pk 1 0 (.flushAck 1 3)) ∧ (getQidx s 3).quar.isSome = true) ∧
    ((getQidx (quar0 []) (0 * 2048 + 3)).quar = some { due := [] }) ∧
    ((getCtx (busyTok true) 1).tokBusy = true ∧ (getCtx (busyTok false) 1).tokBusy = false ∧
      tokenHome (busyTok false) 1 (tokCmdBase 0x0600000000001000) (tokCmdSize 0x0600000000001000) = none) ∧
    (let s := tokWhole []
     (getCtx s 1).tokBusy = false ∧ tokenHome s 1 (tokCmdBase tokCmd0) (tokCmdSize tokCmd0) = some 0 ∧
      nodeActive s 0 = true ∧ (s.tokens.filter (fun t => t.node == 0)).length < 4096 ∧ bitOf (tokCmdBase tokCmd0) 53 = false) ∧
    (let t : Token := { tok0 none with size := 4096 }
     (tokWhole [t]).tokens.find? (fun t => t.node == 0 && t.asid == 1 && t.base == tokCmdBase tokCmd0 &&
      t.size == tokCmdSize tokCmd0) = some t) ∧
    (let r := region0 1
     let t := tok0 none
     r ∈ (ownedBy1 0).regions ∧ r.node = t.node ∧ r.asid = t.asid ∧
      rangesHit (some [{ lo := t.base, hi := t.base + t.size }]) (r.base * 128) ((r.base + regionLines r.level) * 128) = true) := by
  refine ⟨by decide +kernel, ?_, by decide +kernel, by decide +kernel, by decide +kernel, ?_, ?_, by decide +kernel⟩
  · rintro x (rfl | rfl) <;> decide +kernel
  · rintro m (rfl | rfl) <;> decide +kernel
  · rintro c (rfl | rfl | rfl) <;> decide +kernel

/-! ## The states of a context and of a die -/

def schedCtx (x : SchedSt) (d : Nat) : State := { ms with ctxs := [(1, { memCtx with sched := x, dbgSt := d })] }
def openState (lc : LC) (halt : Bool) : State :=
  { ms with secure := { ms.secure with lc := lc }, nodes := [(5, { halt := halt })] }

theorem witness_SchedEvents :
    (∀ x, x = SchedSt.run ∨ x = .stopping ∨ x = .stopped → let s := { schedCtx x 0 with preempts := [{ target := .ctx 1 }] }
      ctxThere s 1 = true ∧ ((getCtx s 1).sched = .run ↔ x = .run) ∧ (schedState s 1 = 1 ↔ x = .stopping)) ∧
    (∀ d, d = 0 ∨ d = 1 → let s := schedCtx .run d
      ctxThere s 1 = true ∧ debugOpen s = true ∧ (getCtx s 1).dbgSt = d ∧ dbgState s 1 ≠ 1) ∧
    (let s := { schedCtx .run 0 with secure := { ms.secure with lc := .retired } }
     ctxThere s 1 = true ∧ debugOpen s = false) ∧
    (isCdie 5 = true ∧ haltOpen (openState .deployed false) = false) ∧
    (let s : State := { openState .fieldDebug false with nodes := [(5, { busy := true })] }
     haltOpen s = true ∧ (getNode s 5).halt = false ∧ (getNode s 5).busy = true) ∧
    (∀ h, h = true ∨ h = false → let s := openState .fieldDebug h
      haltOpen s = true ∧ (getNode s 5).halt = h ∧ (getNode s 5).busy = false ∧ haltedDies s = (if h then [5] else [])) := by
  refine ⟨?_, ?_, by decide +kernel, by decide +kernel, by decide +kernel, ?_⟩
  · rintro x (rfl | rfl | rfl) <;> decide +kernel
  · rintro d (rfl | rfl) <;> decide +kernel
  · rintro h (rfl | rfl) <;> decide +kernel

/-! ## Attestation, images, life cycle -/

/-- A key made for these tests: the prime 2^4095 + 579, big-endian (R145). -/
def testModulus : List Byte := beBytes 512 (2 ^ 4095 + 579)
def testKeys : List Byte := testModulus ++ List.replicate 512 0
/-- Digests of the key, of the key block and of the two bodies, computed outside Lean after FIPS 180-4. -/
def keyDigest : Nat := 0x997387fe794566a27c2c2fecad61b0e26a0a308038fe16bc43aa42223d68351c1c0ae99ecb52ad7700d568ab8766144e26d5a04013fe12a1a239302bc47c7331
def keysDigest : Nat := 0xae4c80aa21c0913b0589461664a11e27005448ec7136352209a98ee9b9f30f78264586201583deb5b1eb261b4ea92c0c9f8f272ffef7137ac96f3ce7e70f6158
def emptyDigest : Nat := 0xcf83e1357eefb8bdf1542850d66d8007d620e4050b5715dc83f4a921d36ce9ce47d0d13c5d85f2b0ff8318d2877eec2f63b931bd47417a81a538327af927da3e
def bodyDigest : Nat := 0xa30df9cdc29a4e1cb140deae64c59d1369507500ac370e2d03bd2da942c0c8ac0c227cf141874721dbf8f90a600f3b4b6e60d8a8af23804066709bb2b416fa17
/-- The first 512 bytes of a header: type, flags, length, version, digests of the body and of the key block (R142). -/
def testHead (ty flags ver : Nat) (body : List Byte × Nat) : List Byte :=
  bytesOfNat 2 ty ++ bytesOfNat 2 flags ++ bytesOfNat 4 body.1.length ++ bytesOfNat 8 ver ++ beBytes 64 body.2 ++ beBytes 64 keysDigest ++
    List.replicate 368 0
/-- The body of a life-cycle command: to state 1, of the part with number 0xE320 (R143). -/
def testBody : List Byte := [1] ++ List.replicate 7 0 ++ [0x20, 0xE3] ++ List.replicate 502 0
/-- The signatures of the two headers under that key, computed outside Lean after RFC 8017 with a salt of bytes 5A. -/
def sigFirmware : List Byte := [
    0x1f57051537fd9e43bf6d62fc00bdfe7d5929e5f4f2e50c1a54079bed670aa9a7,
    0xca521c82e88f2b348233472acfbfbfcc24b871b52f3318aad32adfc0912374c1,
    0x19fe1ec78b4053f75db12ff659643095ea0184a14abbb12cf74c2d21cc3e52e1,
    0x86fbe3c2e78856f74e471cc9966697b93a9782571f3b9d31905f9c39c8f370ba,
    0x4a50c82eddc642fc9fe7c494c1a1bd03775cd5045ffd116f9c31c0d65d1b1d36,
    0x59bc072c4829ac0170845c23bb41ce0c89ef1a8c650de53f75f4608daf94cbcc,
    0x7385008eeea2f403f3e022261ea6eb6bb413d978ad8dd8896c24814b22ca0dfd,
    0xb015e850cefab3a105b70c93a7cf39750ef1092ef7278d2e80cf5d509d98fbae,
    0xce25b30ce607b2cc6d63c418603eb6e6e7ae3fb7382df78548aa0d646b452bb5,
    0x41f6a49b065b846f78c0ca83a2a012b1f662f0c37b9e8f95bfd76dac1fbd5f1e,
    0xb6f29db808687acc0db9df568d49bfba250d2a74613961407965d51c40281199,
    0x491a201879ae510fcb6068ab96579f1fca5e80cb04ac5739254a8a65ebc68a87,
    0xda7ff711b0ac8e12d13214d6d9b5b5e8923534af9bdca1a759a939aa74e9bb97,
    0xe827856b4792dd5ac584cf1806bccdf2949ee583a2afcc60ff435506b19f0d0a,
    0x1cec5b483e9499177e28ab7b4c0d63660436534bd9cc0b2f7cc1a6671821268c,
    0x193c8579d8901a8280f356d2312f56685a3710d24af90828719acc8afa9878d2].flatMap (beBytes 32)
def sigLifecycle : List Byte := [
    0x1d9d3e4d95d1151f3144395d67eb4651d54dfe2a1d5a5adace153c186dd653e2,
    0xd47c95ee55fd6814b08ebdeb73e8e986ed9b01ff2954a679c970f1ac54b56c9e,
    0xc47c022c74bd2a6963ca1ee389a6a88e2f625d79daed5d18fe36e36df7b3856a,
    0x2d7cc73de2765a2028a37281d4ca1570550b0047776e907aedf95b64c1d86267,
    0x8701aee5b9f07c37a2fa7e0a4ed0dcbe60fa520ebc5ee00c284ea5780be78af8,
    0x16e7e345c91cf62f49cf697b68979a5e84e23051057bf2da7d66abd11cae57c0,
    0xe66dbce388bc195d77fb71dfacac499dadfc83a3f4cb276e59c04cf4e9113b61,
    0x592733ea11d46c9ed705fbaec787fa17473397d012edf0de51c926dc54294c7c,
    0x337ba291f9b76210d3f30ccc937498e934aa2210721c7862807aaef4e037033b,
    0x55e00cca1c50cbc4b90b058d84ac297888893245aeee1fd25993e613484f6253,
    0x0c27a53aa43a0c1b07c643aa0acdb5fc9508d95899e6a1f4768c9e7fd1708382,
    0xb4d497a6bf2ab8f184566991db4cca4fa2a06d6d75400cb2fa0f5d11b4ff3b1a,
    0xdc7032db69f36c0617a5627a4ef12f99d01a75a9d5858b3ecc8f003d26df2719,
    0x5db21532e58448e24921495690c748680b57ccf8579251f57bf5692ab690ec72,
    0xe0df04f1d9418a49edaa9e48a6f997b390a037be70dea256e1ed329a6b061f0a,
    0xadbe840d339e509c673dcdade8d9196ffa5a3b7634c5f5ab9305e811a2b42777].flatMap (beBytes 32)
def fwImage : List Byte := testHead 1 1 7 ([], emptyDigest) ++ sigFirmware ++ testKeys
def lcImage : List Byte := testHead 4 0 7 (testBody, bodyDigest) ++ sigLifecycle ++ testKeys ++ testBody
/-- Memory of the host with an image at an address. -/
def imgCells : Nat → List Byte → Tab Byte
  | _, [] => []
  | a, b :: l => if b = 0 then imgCells (a + 1) l else (a, b) :: imgCells (a + 1) l
def testRoot : BitVec 512 := BitVec.ofNat 512 (natOfBytes (beBytes 64 keyDigest))
def imgSecure (lc : LC) (rec_ : Option Nat) : Secure :=
  { lc := lc, stepping := 0, serial := 0, roots := [(0, testRoot), (2, testRoot)], recovery := rec_ }
def imgState (l : List Byte) (lc : LC) (rec_ : Option Nat) : State :=
  { ms with mem := imgCells (63 * 2 ^ 46) l, secure := imgSecure lc rec_,
            funcs := [(0, { imgLen := BitVec.ofNat 32 l.length })] }

theorem imgCells_below (l : List Byte) : ∀ a b, b < a → Tab.get 0 (imgCells a l) b = 0 := by
  induction l with
  | nil => intro a b _; rfl
  | cons x l ih =>
    intro a b h
    have h1 : a ≠ b := by omega
    by_cases hx : x = 0
    · rw [imgCells, if_pos hx]
      exact ih (a + 1) b (by omega)
    · rw [imgCells, if_neg hx, Tab.get, Tab.find, if_neg h1]
      exact ih (a + 1) b (by omega)

theorem imgCells_at (l : List Byte) : ∀ a i, Tab.get 0 (imgCells a l) (a + i) = l.getD i 0 := by
  induction l with
  | nil => intro a i; rfl
  | cons x l ih =>
    intro a i
    cases i with
    | zero =>
      by_cases hx : x = 0
      · rw [imgCells, if_pos hx, hx]
        exact imgCells_below l (a + 1) a (by omega)
      · rw [imgCells, if_neg hx, Tab.get, Tab.find, if_pos (by omega)]
        rfl
    | succ i =>
      have h := ih (a + 1) i
      rw [show a + (i + 1) = a + 1 + i by omega]
      have h1 : a ≠ a + 1 + i := by omega
      by_cases hx : x = 0
      · rw [imgCells, if_pos hx]
        exact h
      · rw [imgCells, if_neg hx, Tab.get, Tab.find, if_neg h1]
        exact h

theorem paReadN_cells (s : State) (l : List Byte) : ∀ a, (∀ i, i < l.length → paRead s 0 (a + i) = l.getD i 0) →
    paReadN s 0 a l.length = l := by
  induction l with
  | nil => intro a _; rfl
  | cons x l ih =>
    intro a h
    have h0 := h 0 (by simp)
    simp only [paReadN, List.length_cons]
    rw [ih (a + 1) (fun i hi => by rw [show a + 1 + i = a + (i + 1) by omega, h (i + 1) (by simpa using hi)]; rfl)]
    rw [show a = a + 0 by omega, h0]
    rfl

/-- The image that the host holds is the one placed there. -/
theorem image_placed (l : List Byte) (lc : LC) (rec_ : Option Nat) (h : l.length < 2 ^ 32) :
    hostImage (imgState l lc rec_) = imgFile l := by
  have e1 : (getFunc (imgState l lc rec_) 0).imgAddr = 0 := rfl
  have e2 : (getFunc (imgState l lc rec_) 0).imgLen = BitVec.ofNat 32 l.length := rfl
  simp only [hostImage, e1, e2, hostRead, BitVec.toNat_ofNat, Nat.mod_eq_of_lt h]
  rw [paReadN_cells]
  intro i hi
  have hp : paEncrypted (63 * 2 ^ 46 + i) = false := by
    have hi2 : i < 2 ^ 32 := Nat.lt_trans hi h
    exact decide_eq_false (by simp only [paNode]; omega)
  have ha : hostAddr 0 + i = 63 * 2 ^ 46 + i := by simp [hostAddr]
  rw [show hostAddr (BitVec.toNat (0 : DWord)) + i = 63 * 2 ^ 46 + i from ha]
  have hr : roleHub (imgState l lc rec_) = 48 := rfl
  have hc : paCell (imgState l lc rec_) (63 * 2 ^ 46 + i) = 63 * 2 ^ 46 + i := by
    rw [paCell, hr, if_neg (by simp)]
  simp only [paRead, keyMatches, hp, hc, Bool.not_false, Bool.true_or, if_true]
  exact imgCells_at l (63 * 2 ^ 46) i

/-- The digests and the two signatures are right. -/
theorem test_sha512 : sha512 testKeys = beBytes 64 keysDigest ∧ sha512 testModulus = beBytes 64 keyDigest ∧
    sha512 [] = beBytes 64 emptyDigest ∧ sha512 testBody = beBytes 64 bodyDigest := by decide +kernel
theorem test_pss_firmware : pssOk testModulus (testHead 1 1 7 ([], emptyDigest)) sigFirmware = true := by decide +kernel
theorem test_pss_lifecycle : pssOk testModulus (testHead 4 0 7 (testBody, bodyDigest)) sigLifecycle = true := by
  decide +kernel

theorem fw_parts : let f := imgFile fwImage
    f.keys = testKeys ∧ modulus1 f = testModulus ∧ f.head.take 512 = testHead 1 1 7 ([], emptyDigest) ∧
    imgSig f = sigFirmware ∧ f.body = [] ∧ headBad f [1, 2, 3] = false ∧ headBad f [1] = false ∧ imgType f = 1 ∧
    imgVersion f = 7 ∧ imgCosign f = false ∧ fieldAt f.head 80 64 = natOfBytes (beBytes 64 keysDigest) ∧
    fieldAt f.head 16 64 = natOfBytes (beBytes 64 emptyDigest) := by decide +kernel

theorem lc_parts : let f := imgFile lcImage
    f.keys = testKeys ∧ modulus1 f = testModulus ∧ f.head.take 512 = testHead 4 0 7 (testBody, bodyDigest) ∧
    imgSig f = sigLifecycle ∧ f.body = testBody ∧ headBad f [4] = false ∧ imgType f = 4 ∧
    imgVersion f = 7 ∧ imgCosign f = false ∧ fieldAt f.head 80 64 = natOfBytes (beBytes 64 keysDigest) ∧
    fieldAt f.head 16 64 = natOfBytes (beBytes 64 bodyDigest) ∧ imgAdvance f = false := by decide +kernel

theorem firmware_accepted (x : Secure) (f : ImgFile) (types : List Nat) (h1 : headBad f types = false)
    (h2 : shaBits f.keys = BitVec.ofNat 512 (fieldAt f.head 80 64)) (h3 : keyAccepted x f = true)
    (h4 : pssOk (modulus1 f) (f.head.take 512) (imgSig f) = true)
    (h5 : shaBits f.body = BitVec.ofNat 512 (fieldAt f.head 16 64)) (h6 : x.counter ≤ imgVersion f)
    (h7 : imgCosign f = false) : firmwareCode x f types = 0 := by
  have h8 : decide (imgVersion f < x.counter) = false := decide_eq_false (Nat.not_lt.mpr h6)
  simp only [firmwareCode, commonChecks, h1, h2, h3, h4, h5, h7, h8, bne_self_eq_false]
  rfl

theorem lifecycle_accepted (x : Secure) (f : ImgFile) (k : LcKey) (h1 : headBad f [4] = false)
    (h2 : shaBits f.keys = BitVec.ofNat 512 (fieldAt f.head 80 64)) (h3 : keyAccepted x f = true)
    (h4 : pssOk (modulus1 f) (f.head.take 512) (imgSig f) = true)
    (h5 : shaBits f.body = BitVec.ofNat 512 (fieldAt f.head 16 64)) (h6 : x.counter ≤ imgVersion f)
    (h7 : lcTransition x.lc (lcTarget f) = some (k, none)) (h8 : isKey x k (modulus1 f) = true)
    (h9 : fieldAt f.body 8 8 = identity x) (h10 : fieldAt f.body 16 8 = x.transitions) (h11 : x.transitions < 1024)
    (h12 : imgAdvance f = false) : lcCodeOf x f = 0 := by
  have g1 : decide (imgVersion f < x.counter) = false := decide_eq_false (Nat.not_lt.mpr h6)
  have g2 : decide (1024 ≤ x.transitions) = false := decide_eq_false (Nat.not_le.mpr h11)
  simp only [lcCodeOf, commonChecks, lcChecks, h1, h2, h3, h4, h5, h7, h8, h9, h10, h12, g1, g2, bne_self_eq_false, Option.any_some, Option.any_none]
  rfl

theorem sha_bits (m d : List Byte) (h : sha512 m = d) : shaBits m = BitVec.ofNat 512 (natOfBytes d) := by rw [shaBits, h]

theorem root_accepted (x : Secure) (f : ImgFile) (r : BitVec 512) (hr : nireshKey x 0 = some r) (ht : imgType f ≠ 4)
    (h : shaBits (modulus1 f) = r) : keyAccepted x f = true := by
  rw [keyAccepted, if_neg ht, h]
  simp [hr]

theorem lc_key_accepted (x : Secure) (f : ImgFile) (ht : imgType f = 4)
    (h : isKey x .manufacturing (modulus1 f) = true) : keyAccepted x f = true := by
  rw [keyAccepted, if_pos ht]
  simp [h]

theorem is_key (x : Secure) (m : List Byte) (r : BitVec 512) (hr : lcKeyDigest x .manufacturing = some r)
    (h : shaBits m = r) : isKey x .manufacturing m = true := by
  rw [isKey, hr, h]
  simp

theorem test_root : shaBits testModulus = testRoot := sha_bits _ _ test_sha512.2.1

theorem fw_code (r : Option Nat) (types : List Nat) (ht : types = [1, 2, 3] ∨ types = [1]) :
    firmwareCode (imgSecure .deployed r) (imgFile fwImage) types = 0 := by
  obtain ⟨h1, h2, h3, h4, h5, h6, h7, h8, h9, h10, h11, h12⟩ := fw_parts
  refine firmware_accepted _ _ _ ?_ ?_ (root_accepted _ _ testRoot rfl (fun e => absurd (h8.symm.trans e) (by decide)) ?_) ?_ ?_
    (Nat.zero_le _) h10
  · rcases ht with rfl | rfl
    · exact h6
    · exact h7
  · rw [h1, h11]
    exact sha_bits _ _ test_sha512.1
  · rw [h2]
    exact test_root
  · rw [h2, h3, h4]
    exact test_pss_firmware
  · rw [h5, h12]
    exact sha_bits _ _ test_sha512.2.2.1

theorem lc_code : lcCodeOf (imgSecure .manufacture none) (imgFile lcImage) = 0 := by
  obtain ⟨h1, h2, h3, h4, h5, h6, h7, h8, h9, h10, h11, h12⟩ := lc_parts
  have hk : isKey (imgSecure .manufacture none) .manufacturing (modulus1 (imgFile lcImage)) = true := by
    rw [h2]
    exact is_key _ _ testRoot rfl test_root
  refine lifecycle_accepted _ _ .manufacturing h6 ?_ (lc_key_accepted _ _ h7 hk) ?_ ?_ (Nat.zero_le _) ?_ hk ?_ ?_
    (by decide) h12
  · rw [h1, h10]
    exact sha_bits _ _ test_sha512.1
  · rw [h2, h3, h4]
    exact test_pss_lifecycle
  · rw [h5, h11]
    exact sha_bits _ _ test_sha512.2.2.2
  · rw [lcTarget, h5]
    decide +kernel
  · rw [h5]
    decide +kernel
  · rw [h5]
    decide +kernel

theorem witness_SecurityEvents :
    (∀ lc ok, (lc, ok) = (LC.deployed, true) ∨ (lc, ok) = (.deployed, false) ∨ (lc, ok) = (.retired, true) →
      (imgState [] lc none).secure.lc = lc ∧ (lc = .retired ∨ ok = true ∨ ok = false)) ∧
    -- a command in progress is another one's, its own, or none
    (∀ c, c = none ∨ c = some 1 ∨ c = some 2 → let s : State := { imgState [] .deployed (some 6) with funcs := [(0, { attCmd := c, imgCmd := c })] }
      ((getFunc s 0).attCmd.any (fun c => c != 1) = false ↔ c ≠ some 2) ∧
      ((getFunc s 0).imgCmd.any (fun c => c != 1) = false ↔ c ≠ some 2) ∧ s.secure.recovery.isSome = true) ∧
    (∀ r, firmwareCode (imgState fwImage .deployed r).secure (hostImage (imgState fwImage .deployed r)) [1, 2, 3] = 0 ∧
      firmwareCode (imgState fwImage .deployed r).secure (hostImage (imgState fwImage .deployed r)) [1] = 0) ∧
    (imgState fwImage .deployed none).secure.recovery = none ∧ (imgState fwImage .deployed (some 6)).secure.recovery.isSome = true ∧
    (∀ r, firmwareCode (imgState [] .deployed r).secure (hostImage (imgState [] .deployed r)) [1, 2, 3] = 1 ∧
      firmwareCode (imgState [] .deployed r).secure (hostImage (imgState [] .deployed r)) [1] = 1) ∧
    lcCodeOf (imgState lcImage .manufacture none).secure (hostImage (imgState lcImage .manufacture none)) = 0 ∧
    lcCodeOf (imgState [] .manufacture none).secure (hostImage (imgState [] .manufacture none)) = 1 := by
  refine ⟨?_, ?_, ?_, rfl, rfl, ?_, ?_, by decide +kernel⟩
  · rintro lc ok (h | h | h) <;> simp only [Prod.mk.injEq] at h <;> obtain ⟨rfl, rfl⟩ := h <;> decide +kernel
  · rintro c (rfl | rfl | rfl) <;> decide +kernel
  · intro r
    rw [image_placed _ _ _ (by decide +kernel)]
    exact ⟨fw_code r _ (.inl rfl), fw_code r _ (.inr rfl)⟩
  · intro r
    rw [image_placed _ _ _ (by decide)]
    cases r <;> exact ⟨rfl, rfl⟩
  · rw [image_placed _ _ _ (by decide +kernel)]
    exact lc_code

/-! ## Host ports -/

/-- Queue 3 of die 0 stands, or is destroyed. -/
def winState (rdy there : Bool) : State :=
  { qState (queue0 false 0 0 0 .visible) with
    mods := { ready := rdy },
    queues := [(3, { gen := some 0, q := if there then some (queue0 false 0 0 0 .visible) else none, owner := some 1 })] }
def hctlState (n : Nat) : State := { ms with funcs := [(0, { hctlAsid := 1, hctlNum := n })] }

theorem witness_HostPorts :
    (∀ rdy there, (rdy = true ∨ rdy = false) → (there = true ∨ there = false) → let s := winState rdy there
      s.mods.ready = rdy ∧ (getNode s (12288 / 4096 / 2048)).halt = false ∧ hubStalls s (roleHub s) = false ∧ windowWriteOk (12288 % 4096) 64 = true ∧
      windowWriteOk (12320 % 4096) 64 = false ∧ windowOwner s 0 (12288 / 4096) = some 1 ∧ windowOwner s 1 3 = none ∧
      ((getQidx s 3).q.isSome = there)) ∧
    (isHub 48 = true ∧ (winState false true).mods.ready = false) ∧
    ((0x100000 : Nat) % 8 = 0 ∧ 0x20000 ≤ 0x100000 ∧ 0x100000 < 2 ^ 26 ∧ (regAt 0x100000).isSome = true) ∧
    ((0x10000 : Nat) % 8 = 0 ∧ (funcOffset 0 0x10000).isSome = true ∧ (funcOffset 3 0x8000).isSome = true) ∧
    (∀ n, n = 0x20 ∨ n = 2 ∨ n = 0x1F → hctlCtx (hctlState n) 0 = some 1 ∧ (getFunc (hctlState n) 0).hctlNum = n ∧
      (ctlWritable n true = true ↔ n = 0x20) ∧ (ctlKind n = .none_ ↔ n = 0x1F)) := by
  refine ⟨?_, by decide +kernel, by decide +kernel, by decide +kernel, ?_⟩
  · rintro rdy there (rfl | rfl) (rfl | rfl) <;> decide +kernel
  · rintro n (rfl | rfl | rfl) <;> decide +kernel

/-! ## The module -/

/-- Node n of a module in service is in a state. -/
def svcState (n : Nat) (x : Svc) : State :=
  { ms with waves := [], nodes := [(n, { svc := x })], mods := { ready := true, svcOn := some n } }
def moveTo (v : BitVec 24) (mv : Option Move) : State := { ms with mods := { tokmov := v, move := mv } }
/-- The only token die is die 24. -/
def lastToken : State := { ms with nodes := (List.range 7).map (fun i => (25 + i, { svc := .isolated })) }

theorem witness_ServiceEvents :
    ((moveTo 0 (some { die := 3, value := true })).mods.move.isSome = true ∧ (moveTo 0 none).mods.move = none ∧
      dieWorks (moveTo 0 (some { die := 3, value := true })) 3 = false) ∧
    ((List.range 24).filter (fun d => (8 : BitVec 24).getLsbD d != (0 : BitVec 24).getLsbD d) = [3] ∧
      nodeActive (moveTo 0 none) 3 = true ∧ clusterDies (moveTo 0 none) 8 true ≠ [] ∧ clusterDies (moveTo 0 none) 8 false ≠ [] ∧
      nodeActive (svcState 3 .drain) 3 = false) ∧
    (let s := svcState 4 .drain
     rejectCode [(1, s.mods.svcOn.isSome), (2, lastOfCluster s 5), (3, false), (4, decide (50 ≤ 5)), (5, s.mods.move.isSome)] =
      some 1 ∧ s.mods.svcOn = some 4 ∧ (getNode s 4).svc = .drain ∧ nodeEmpty s 4 = true ∧ inService s 4 [.drain, .rehome] = true ∧
      inService s 5 [.drain, .rehome] = false ∧ inService s 4 [.rehome] = false ∧ inService s 4 [.isolated] = false) ∧
    (lastOfCluster lastToken 24 = true ∧ lastToken.mods.svcOn = none) ∧
    (∀ n, n = 5 ∨ n = 40 ∨ n = 48 → ms.mods.svcOn = none ∧ lastOfCluster ms n = false ∧ n < 50 ∧ ms.mods.move = none ∧
      nodeActive ms (if n = 48 then 49 else 48) = true ∧ nodeLost ms n = false) ∧
    (∀ n, n = 5 ∨ n = 40 → inService (svcState n .rehome) n [.rehome] = true ∧
      stateHeld { svcState n .rehome with ctxs := [] } n = false ∧
      stateHeld { svcState n .rehome with tokens := [{ tok0 none with node := n }] } n = true) ∧
    wiping (svcState 5 .wipe) = some 5 ∧ inService (svcState 5 .isolated) 5 [.isolated] = true ∧
    ((svcState 5 .load).mods.svcOn = some 5 ∧ (getNode (svcState 5 .load) 5).svc = .load) ∧
    (let n : NodeSt := { svc := .load, ceilP := 0x20 }
     isCdie 5 = true ∧ ceilOf n < n.freq) ∧
    (∀ x, x = Svc.isolated ∨ x = .load → nodeLost (svcState 5 x) 5 = true) ∧
    (getNode (svcState 5 .readmit) 5).svc = .readmit := by
  refine ⟨by decide +kernel, by decide +kernel, by decide +kernel, by decide +kernel, ?_, ?_, by decide +kernel, by decide +kernel,
    by decide +kernel, by decide +kernel, ?_, by decide +kernel⟩
  · rintro n (rfl | rfl | rfl) <;> decide +kernel
  · rintro n (rfl | rfl) <;> decide +kernel
  · rintro x (rfl | rfl) <;> decide +kernel

def clkNode (busy pend : Bool) (next now : Nat) : State :=
  { ms with time := now, nodes := [(5, { busy := busy, pend := pend, next := next, target := 0x20, relockEnd := 2000, ceilP := 0x30, ceilT := 0x30 })] }
def supplyState (high limit out : Bool) (now : Nat) : State :=
  { ms with time := now, mods := { high := high, highSince := if high then some 0 else none, limit := limit, disconnected := out } }

theorem witness_PowerEvents :
    (isCdie 5 = true ∧ ¬ (0x10 ≤ (0x0F : BitVec 6).toNat) ∧ ¬ ((0x33 : BitVec 6).toNat ≤ 0x32) ∧
      0x10 ≤ (0x10 : BitVec 6).toNat ∧ (0x32 : BitVec 6).toNat ≤ 0x32) ∧
    (∀ b, b = true ∨ b = false → let s := clkNode b false 0x28 0
      (getNode s 5).busy = b ∧ min 0x10 (ceilOf (getNode s 5)) ≠ (getNode s 5).cur ∧
      min 0x10 (ceilOf (getNode s 5)) ≠ min (getNode s 5).freq (ceilOf (getNode s 5))) ∧
    (∀ p, p = true ∨ p = false → let s := clkNode true p 0x28 2000
      (getNode s 5).busy = true ∧ (getNode s 5).relockEnd ≤ s.time ∧ (getNode s 5).pend = p ∧
      (getNode s 5).next ≠ (getNode s 5).target) ∧
    (let s := clkNode false false 0x28 1000000
     s.mods.capAt + 1000000 ≤ s.time ∧ s.mods.cap = 1000 ∧ s.mods.limit = false ∧ s.mods.cap < (1001 : BitVec 16).toNat ∧
      (979 : BitVec 16).toNat < s.mods.cap - 20 ∧ (980 : BitVec 16).toNat = s.mods.cap - 20 ∧
      (getNode s 5).thermAt + 100000 ≤ s.time ∧ 0x10 < (getNode s 5).ceilP ∧ (getNode s 5).ceilP < 0x32 ∧
      0x10 < (getNode s 5).ceilT ∧ (getNode s 5).ceilT < 0x32) ∧
    (let s := supplyState false true false 1000000
     s.mods.limit = true ∧ s.mods.goodSince + 1000000 ≤ s.time) ∧
    (let s := supplyState true false false 10000001
     s.mods.highSince = some 0 ∧ 0 + 10000000 < s.time) ∧
    (let s := supplyState false false true 100000000
     s.mods.disconnected = true ∧ s.mods.badSince + 100000000 ≤ s.time) := by
  refine ⟨by decide +kernel, ?_, ?_, by decide +kernel⟩
  · rintro b (rfl | rfl) <;> decide +kernel
  · rintro p (rfl | rfl) <;> decide +kernel

def bootState (l : List Nat) (b : Boot) : State := { mods := { trained := l, boot := b } }
/-- Every module of a pair of nodes is disabled, but one. -/
def lastModule (d n e : Nat) : State :=
  let l : Tab LinkSt := ((List.range 20).filter (fun m => linkPartner d m == some e && m != n)).map (fun m => (m, { dis := true }))
  { nodes := [(d, { links := l })] }
def moduleFails (s : State) (d n : Nat) : State := modPair s d n (fun l => { l with up := false, dis := true })

theorem witness_BringUpEvents :
    (∀ g k, (g, k) = (LinkGroup.hubDie, 0) ∨ (g, k) = (.mesh, 1) ∨ (g, k) = (.wdie, 2) →
      let s := bootState (List.range k) .rom
      s.mods.disconnected = false ∧ s.mods.trained.contains (groupCode g) = false ∧ g ≠ .tributary ∧
      s.secure.recovery = none ∧ s.mods.trained.length = groupCode g) ∧
    (let s := bootState [0, 1, 2] .farWiped
     s.mods.disconnected = false ∧ s.mods.trained.contains (groupCode .tributary) = false ∧ s.mods.boot = .farWiped) ∧
    ((bootState [0, 1, 2] .timeStarted).mods.boot = .timeStarted ∧ (bootState [0, 1, 2] .nearWiped).mods.boot = .nearWiped) ∧
    (let s := bootState [0, 1, 2, 3] .farWiped
     s.secure.recovery = none ∧ 3 ∈ s.mods.trained ∧ 24 ∈ cdies ∧ nodeActive s 24 = true ∧ 0 ∈ cdies ∧ nodeActive s 0 = true) ∧
    (linkPartner 0 4 = some 1 ∧ pairDown (moduleFails State.reset 0 4) 0 1 = false ∧ (getLink State.reset 0 4).dis = false) ∧
    (let u := moduleFails (lastModule 0 4 1) 0 4
     pairDown u 0 1 = true ∧ isCdie 1 = true ∧ nodeLost u 1 = false) ∧
    (let u := moduleFails (lastModule 24 16 32) 24 16
     linkPartner 24 16 = some 32 ∧ pairDown u 24 32 = true ∧ isWdie 32 = true ∧ nodeActive u 32 = true) ∧
    (moduleReachable (podNet gbPkt [48]) 3 = true ∧ moduleReachable (podNet gbPkt []) 3 = false ∧
      (podNet gbPkt []).net.inbox.filter (fun q => q.mod == some 3) = [gbPkt] ∧
      (getWave (podNet gbPkt []) 128).op.id = 9) := by
  refine ⟨?_, by decide +kernel⟩
  rintro g k (h | h | h) <;> simp only [Prod.mk.injEq] at h <;> obtain ⟨rfl, rfl⟩ := h <;> decide +kernel

/-- Word 0 of line 0x40 of context 1 is registered to core 0 of die 0 (the holder), or to no core. -/
def idleState (now : Nat) (r : Bool) (w : List (Nat × Wave)) : State :=
  { ms with time := now, waves := w, cores := [(0, { retention := r })] }
def poisonState (g : Bool) : State := { ms with words := if g then [(lineKey 1 0x40, allG)] else [], regions := [region0 0] }

theorem witness_ErrorEvents :
    (mayRetain (idleState 10000 false []) 0 = true ∧ mayRetain (idleState 9999 false []) 0 = false) ∧
    (let s := idleState 10000 true [(128, { wave0 with op := { id := 3 } })]
     (∃ e ∈ residentWaves s 0, waveDue s e.2 = true) ∧ (getCore s 0).badScr = [] ∧ (getCore s 0).badAcc = [] ∧
      (getCore s 0).retention = true) ∧
    (∀ g, g = true ∨ g = false → let s := poisonState g
      let key := lineKey 1 (0x2000 / 128)
      isCdie 0 = true ∧ (homeOf s (lineAsid key) (lineNo key * 128)).isSome = true ∧
      ((dirtyHolder s key 0).map agentNode = some 0 ↔ g = true)) ∧
    nodeActive ms (32 + 3) = true := by
  refine ⟨by decide +kernel, by decide +kernel, ?_, by decide +kernel⟩
  rintro g (rfl | rfl) <;> decide +kernel

/-! ## The whole machine -/

theorem witness_DecodeEncode : wellFormed (.bra (ctF none_ 15)) = true ∧ (encode (.bra (ctF none_ 15))).isSome = true ∧
    decodes 0x03800140 0x1FE0380E 0x000003C0 (.bra (ctF none_ 15)) = true := by decide +kernel

def turnState (l : List Turn) : State := { headState ms wave0 (.exit (ctF none_ 0)) with waves := [(128, wave0)], agenda := l }
def turn0 (a : Act) : Turn := { dt := 5, act := a }

/-- The states before the fetch of its turn: after the time has passed, and with the wave's slot chosen. -/
def turnS1 : State := advance { turnState [turn0 (.wave 128)] with agenda := [], free := (turnState []).free + 1 } 5
def turnS2 : State :=
  setWave (modCore { turnS1 with cur := 128 } (waveCore (getWave turnS1 128)) (fun c => { c with idleSince := turnS1.time })) 128
    { getWave turnS1 128 with cur := 0 }
def fetched (x : State × Fetched (BitVec 96)) : Option Instr :=
  match x.2 with
  | .got word => (decode (decCtx (getWave x.1 128) false) word).toOption
  | _ => none

theorem witness_StepRunsDecoded :
    ((turnState [turn0 (.wave 128)]).agenda = { dt := 5, act := .wave 128 } :: [] ∧ waveRuns turnS1 128 = true ∧
      (getWave turnS1 128).op.id = 0 ∧ deferredDue (getWave turnS1 128) = false ∧ promotionDue (getWave turnS1 128) = false ∧
      turnSlot (getWave turnS1 128) = some 0 ∧ curPath (getWave turnS2 128) = some path0 ∧
      (fetchCheck turnS2 128 path0).2 = .ok ∧
      fetched (fetchWord (fetchCheck turnS2 128 path0).1 128 path0.pc) = some (.exit (ctF none_ 0)) ∧
      joinHint (.exit (ctF none_ 0)) = false) ∧
    (let s := turnState [turn0 (.event .supplyDip)]
     s.agenda = { dt := 5, act := .event .supplyDip } :: [] ∧ isEvent .supplyDip = true) ∧
    (let s := turnState []
     va54 0x1000 % 128 ≤ 116 ∧ (Tab.find s.icache (cacheKey (l1Of (getWave s 128).node (getWave s 128).unit)
      (lineKey (asidOf (getWave s 128).asid 0x1000) (va54 0x1000 / 128)))).isSome = true) := by
  decide +kernel

/-- The slot 0 and a slot with another tag; the addresses share a line of encrypted memory. -/
theorem witness_MemoryReadWrite : paEncrypted 0x2000 = true ∧ (0x2040 : Nat) / 128 = 0x2000 / 128 ∧ (0x2040 : Nat) ≠ 0x2000 ∧
    slotTag ms 1 ≠ slotTag ms 0 ∧ 0x2040 < otherHost := by decide +kernel

theorem outcome_next {x : Host.Outcome State Fault Refusal} (h : (match x with
    | .next _ => true
    | _ => false) = true) : ∃ t, x = .next t := by
  cases x <;> simp_all

theorem witness_MemoryCanonical : MemOk State.reset ∧ ∃ t, step State.reset = .next t := by
  exact ⟨rfl, outcome_next (by decide +kernel)⟩

/-- The same word runs in the same way wherever it is fetched: `exit` as the first instruction after reset. -/
theorem test_first_instruction : decodeTableWord 96 0x000000001FE0380E03800148 = some (.exit (ctF none_ 0)) ∧
    (∃ t, step (State.reset.withFetchWord 96 0x000000001FE0380E03800148) = .next t) :=
  ⟨by decide +kernel, outcome_next (by decide +kernel)⟩

end Sys2Proof.Tests
end

section
/-! What reset leaves (`Obligations.ResetState`): what each table of State answers at reset, and from that the value of each
register. Where the spec gives no reset value the value is the model's choice (assumption log 1, 7, 8, 79). -/

namespace Sys2Proof.Machine

/-! ## The tables of State at reset -/

@[simp] theorem getNode_reset (n : Nat) : getNode State.reset n = {} := rfl

@[simp] theorem getCtx_reset (a : Nat) : getCtx State.reset a = {} := rfl

@[simp] theorem getLink_reset (d n : Nat) : getLink State.reset d n = {} := rfl

@[simp] theorem memoryRead_reset (a : Nat) : Memory.read State.reset.mem a = 0 := rfl

/-- Key slot 0 alone is allocated (R138, R144). -/
theorem getKey_reset_alloc (k : Nat) : (getKey State.reset k).alloc = decide (k = 0) := by
  by_cases h : k = 0
  · subst h; rfl
  · simp [getKey, State.reset, Tab.get, Tab.find, h, Ne.symm h]

/-! ## The status words of an entry at its default -/

@[simp] theorem half_zero (hi : Bool) : half 0 hi = 0 := by cases hi <;> rfl

/-- The clock runs at 0x28 and no step waits (R21). -/
@[simp] theorem clkStat_default : clkStat {} = 0x28 * 2 ^ 8 + 0x28 := rfl

@[simp] theorem ptimeStat_default : ptimeStat {} = 0 := rfl

@[simp] theorem dbgCtl_default : dbgCtl {} = 0 := rfl

@[simp] theorem tribStat_default : tribStat {} = 0 := rfl

@[simp] theorem leaseReg_default : leaseReg {} = 0 := rfl

/-- A UCIe module is down and has counted nothing; a place without a module reads 0 as well (R41). -/
@[simp] theorem linkStat_reset (d n : Nat) : linkStat State.reset d n = 0 := by
  unfold linkStat
  rw [getLink_reset]
  split
  · rfl
  · rfl

/-! ## The registers of the module, of its dies and of its hubs (R125) -/

/-- The module-wide registers whose Reset column is 0, and MOD_REHOME_ENT, which has none (log 79). -/
theorem regValue_reset_module_zero (r : CReg) (h : r ∈ [CReg.ready, .werr, .dbgStat, .clusterStat, .svcStat,
    .rehomeEnt false, .rehomeEnt true, .rehomeStat]) : regValue State.reset r = 0 := by
  simp only [List.mem_cons, List.not_mem_nil, or_false] at h
  rcases h with rfl | rfl | rfl | rfl | rfl | rfl | rfl | rfl <;> rfl

theorem regValue_reset_arot (i : Nat) (hi : Bool) : regValue State.reset (.arot i hi) = 0 := half_zero hi

/-- The `DIE_` block: FREQ, CUR and NEXT hold 0x28 and the ceiling 0x32 (R21), everything else is 0 (R26, R41, R272, R276). -/
theorem regValue_reset_die (d : Nat) :
    regValue State.reset (.clkCtl d) = 0x32 * 2 ^ 8 + 0x28 ∧ regValue State.reset (.clkStat d) = 0x28 * 2 ^ 8 + 0x28 ∧
    regValue State.reset (.diePtime d) = 0 ∧ regValue State.reset (.ecc d) = 0 ∧ regValue State.reset (.dbgCtl d) = 0 ∧
    ∀ n, regValue State.reset (.link d n) = 0 :=
  ⟨rfl, clkStat_default, ptimeStat_default, by simp [regValue], dbgCtl_default, linkStat_reset d⟩

/-- The `HUB_` block is 0 (R26, R43, R44, R255, R278). -/
theorem regValue_reset_hub (h : Nat) :
    regValue State.reset (.fltBase h) = 0 ∧ regValue State.reset (.fltHead h) = 0 ∧
    regValue State.reset (.fltTail h) = 0 ∧ regValue State.reset (.fltLost h) = 0 ∧
    regValue State.reset (.trapVec h) = 0 ∧ regValue State.reset (.hubPtime h) = 0 ∧
    ∀ n, regValue State.reset (.tribStat h n) = 0 ∧ regValue State.reset (.tribRoute h n) = 0 :=
  ⟨rfl, rfl, rfl, rfl, rfl, ptimeStat_default, fun _ => ⟨tribStat_default, rfl⟩⟩

/-! ## The control registers of a context -/

@[simp] theorem schedState_reset (a : Nat) : schedState State.reset a = 0 := rfl

@[simp] theorem dbgState_reset (a : Nat) : dbgState State.reset a = 0 := rfl

/-- The five ranges of numbers, from 0x80, 0x40, 0x30, 0x20 and 0 up: no context is live, and each table of the entry and
each of its fields is at its default (log 8). -/
theorem ctlValue_reset (a n : Nat) : ctlValue State.reset a n = 0 := by
  simp only [ctlValue, getCtx_reset, schedState_reset, dbgState_reset, Tab.get_nil, leaseReg_default]
  split
  · rfl
  split
  · rfl
  split
  · rfl
  split
  · rfl
  split <;> rfl

/-! ## The obligation -/

/-- Settles O57: each register's value from the entry that its table answers at reset, where every table of State but that
of the key slots is empty. -/
theorem resetState : Obligations.ResetState :=
  ⟨regValue_reset_module_zero, rfl, rfl, rfl, regValue_reset_arot, regValue_reset_die, regValue_reset_hub,
    getKey_reset_alloc, fun a => ⟨rfl, ctlValue_reset a⟩, memoryRead_reset, memOk_reset, rfl, rfl⟩

end Sys2Proof.Machine
end

section
/-! What the translation statements share: folds and lists, messages, walks, and the lease parts of a holder (R46-R53,
R107, R109-R116). -/

namespace Sys2Proof.Machine.Translation

/-! ## Folds and lists -/

/-- A fold stays within a preorder in which each of its steps stays. -/
theorem foldl_related {σ β : Type} (R : σ → σ → Prop) (refl : ∀ s, R s s) (trans : ∀ s t u, R s t → R t u → R s u)
    (f : σ → β → σ) (step : ∀ s b, R s (f s b)) (l : List β) (s : σ) : R s (l.foldl f s) := by
  induction l generalizing s with
  | nil => exact refl s
  | cons b l ih => exact trans _ _ _ (step s b) (ih _)

/-- A fold keeps what each of its steps keeps. -/
theorem foldl_keeps {σ β γ : Type} (π : σ → γ) (f : σ → β → σ) (step : ∀ s b, π (f s b) = π s)
    (l : List β) (s : σ) :
    π (l.foldl f s) = π s :=
  foldl_related (fun s t => π t = π s) (fun _ => rfl) (fun _ _ _ h h' => h'.trans h) f step l s

theorem listSet_eq_set {α : Type} (l : List α) (n : Nat) (x : α) : listSet l n x = l.set n x := by
  induction l generalizing n with
  | nil => rfl
  | cons a l ih => cases n with
    | zero => rfl
    | succ n => simp [listSet, ih]

theorem getElem?_listModify {α : Type} (l : List α) (j i : Nat) (f : α → α) :
    (listModify l j f)[i]? = if j = i then (l[i]?).map f else l[i]? := by
  unfold listModify
  by_cases h : j = i
  · subst h
    cases hl : l[j]? with
    | none => simp [hl]
    | some a =>
      have hj : j < l.length := (List.getElem?_eq_some_iff.mp hl).1
      simp [listSet_eq_set, List.getElem?_set_self hj]
  · cases hl : l[j]? <;> simp [listSet_eq_set, h]

@[simp] theorem listModify_nil {α : Type} (j : Nat) (f : α → α) : listModify ([] : List α) j f = [] := rfl

theorem mem_zip_range_iff {α : Type} (l : List α) (i : Nat) (x : α) :
    (i, x) ∈ (List.range l.length).zip l ↔ l[i]? = some x := by
  rw [List.mem_iff_getElem?]
  constructor
  · rintro ⟨j, hj⟩
    obtain ⟨hi, hx⟩ := List.getElem?_zip_eq_some.mp hj
    obtain ⟨hlt, rfl⟩ := List.getElem?_eq_some_iff.mp hi
    simpa using hx
  · intro h
    have hi : i < l.length := (List.getElem?_eq_some_iff.mp h).1
    exact ⟨i, List.getElem?_zip_eq_some.mpr ⟨by simp [hi], h⟩⟩

theorem Tab.mem_of_find {α : Type} {t : Tab α} {n : Nat} {x : α} (h : Tab.find t n = some x) : (n, x) ∈ t := by
  induction t with
  | nil => cases h
  | cons e t ih =>
    obtain ⟨k, v⟩ := e
    simp only [Tab.find] at h
    split at h
    · cases h; subst_vars; exact List.mem_cons_self
    · exact List.mem_cons_of_mem _ (ih h)

/-! ## Messages -/

/-- Sending changes the network alone. -/
theorem sendPkt_eq (s : State) (p : Pkt) (v : Nat) : ∃ n, sendPkt s p v = { s with net := n } := by
  dsimp only [sendPkt]
  split
  · exact ⟨_, rfl⟩
  split
  · exact ⟨_, rfl⟩
  generalize (if (getFlow s.net _).path.isEmpty = true then _ else _) = f
  split
  · exact ⟨_, rfl⟩
  · exact ⟨_, rfl⟩

theorem send_eq (s : State) (src dst : Nat) (cls : Cls) (v : Nat) (m : Msg) :
    ∃ n, send s src dst cls v m = { s with net := n } := sendPkt_eq _ _ _

/-- A message sent is in the inbox of its receiver, on the wire, or kept back at its sender (R49). -/
theorem travels_send (s : State) (src dst : Nat) (cls : Cls) (v : Nat) (m : Msg) :
    Travels (send s src dst cls v m) src dst m := by
  dsimp only [send, sendPkt]
  split
  · exact ⟨_, rfl, rfl, rfl, .inl (List.mem_append_right _ List.mem_cons_self)⟩
  split
  · exact ⟨_, rfl, rfl, rfl, .inl (List.mem_append_right _ List.mem_cons_self)⟩
  generalize (if (getFlow s.net _).path.isEmpty = true then _ else _) = f
  split
  · exact ⟨_, rfl, rfl, rfl, .inr (.inr ⟨_, List.mem_cons_self, List.mem_append_right _ List.mem_cons_self⟩)⟩
  · exact ⟨_, rfl, rfl, rfl, .inr (.inl (List.mem_append_right _ List.mem_cons_self))⟩

/-- A request changes the network, and what a rewrite holds back (R53, R56). -/
theorem sendReq_eq (s : State) (src dst : Nat) (cls : Cls) (asid v id : Nat) (m : Msg) :
    ∃ n r, sendReq s src dst cls asid v id m = { s with net := n, rehome := r } := by
  obtain ⟨n, hn⟩ := send_eq s src dst cls v m
  simp only [sendReq, sendHome]
  split
  · split
    · exact ⟨_, _, rfl⟩
    · exact ⟨_, _, by rw [hn]⟩
  · exact ⟨_, _, by rw [hn]⟩

/-! ## Walks -/

/-- A translation changes the TLB and the walk cache alone (R106). -/
theorem xlate_eq (s : State) (node asid v : Nat) (acc : Acc) (sup : Bool) :
    ∃ a b, (xlate s node asid v acc sup).1 = { s with tlb := a, walks := b } := by
  simp only [xlate]
  split
  · exact ⟨_, _, rfl⟩
  split
  · exact ⟨_, _, rfl⟩
  split
  · exact ⟨_, _, rfl⟩
  · exact ⟨_, _, rfl⟩

/-- The walks of a lease part change the TLB and the walk cache alone (R111). -/
theorem leaseWalk_eq (s : State) (node asid : Nat) (ent : BitVec 128) (acc : Acc) (fuel lo hi : Nat) :
    ∃ a b, (leaseWalk s node asid ent acc fuel lo hi).1 = { s with tlb := a, walks := b } := by
  induction fuel generalizing s lo with
  | zero => exact ⟨_, _, rfl⟩
  | succ fuel ih =>
    simp only [leaseWalk]
    split
    · exact ⟨_, _, rfl⟩
    split
    · exact ih _ _
    obtain ⟨a, b, hx⟩ := xlate_eq s node asid lo acc false
    split
    · exact ⟨a, b, hx⟩
    · obtain ⟨c, d, hw⟩ := ih (xlate s node asid lo acc false).1 _
      exact ⟨c, d, by rw [hw, hx]⟩

theorem grantWalk_eq {s u : State} {g : Grant} {f : Option (Nat × Nat)} (h : grantWalk s g = (u, f)) :
    ∃ a b, u = { s with tlb := a, walks := b } := by
  obtain ⟨a, b, hw⟩ := leaseWalk_eq s g.node g.asid g.ent (accOf g.kind) ((g.range.hi - g.range.lo) / 65536 + 2)
    g.range.lo g.range.hi
  exact ⟨a, b, by rw [← hw]; exact (congrArg Prod.fst h).symm⟩

/-! ## Holders and their parts -/

@[simp] theorem holderCode_holderOf (n : Nat) : holderCode (holderOf n) = n := by
  unfold holderOf
  split
  · simp only [holderCode]; omega
  · simp only [holderCode]; omega

/-- The parts of each holder after those of one have been set; a task that is not there takes none. -/
theorem holderParts_setHolderParts (s : State) (h g : LHolder) (ps : List LeasePart)
    (there : ∀ id, h = .task id → getTask s id = none → ps = []) :
    holderParts (setHolderParts s h ps) g = if h = g then ps else holderParts s g := by
  cases h with
  | task id =>
    cases g with
    | task j =>
      cases ht : getTask s id with
      | none =>
        by_cases e : id = j
        · subst e; simp [holderParts, setHolderParts, modTask, ht, there id rfl ht]
        · simp [holderParts, setHolderParts, modTask, ht, e]
      | some t =>
        by_cases e : id = j
        · subst e; simp [holderParts, setHolderParts, ht]
        · simp [holderParts, setHolderParts, modTask, ht, e, getTask_setTask_ne]
    | standing a k => simp [holderParts, setHolderParts]
  | standing a k =>
    cases g with
    | task j => simp [holderParts, setHolderParts, getTask, modCtx, setCtx]
    | standing b j =>
      by_cases e : a = b
      · subst e; by_cases e' : k = j <;> simp [holderParts, setHolderParts, Tab.modify, Tab.get_set, e']
      · simp [holderParts, setHolderParts, getCtx_modCtx_ne, e]

theorem holderParts_modPart (s : State) (h g : LHolder) (j : Nat) (f : LeasePart → LeasePart) :
    holderParts (modPart s h j f) g = if h = g then listModify (holderParts s g) j f else holderParts s g := by
  rw [modPart, holderParts_setHolderParts]
  · split <;> simp_all
  · rintro id rfl ht; simp [holderParts, ht]

/-- Part `i` of each holder after part `j` of one has been changed. -/
theorem part_modPart (s : State) (h g : LHolder) (j i : Nat) (f : LeasePart → LeasePart) :
    (holderParts (modPart s h j f) g)[i]? =
      if h = g ∧ j = i then ((holderParts s g)[i]?).map f else (holderParts s g)[i]? := by
  rw [holderParts_modPart]
  by_cases e : h = g
  · simp [e, getElem?_listModify]
  · simp [e]

theorem part_modPart_same {s : State} {h : LHolder} {i : Nat} {p : LeasePart} (f : LeasePart → LeasePart)
    (hp : (holderParts s h)[i]? = some p) : (holderParts (modPart s h i f) h)[i]? = some (f p) := by
  simp [part_modPart, hp]

/-- The end of a holder's leases: its grants go, and it keeps no part (R111, R173). -/
theorem endLeases_eq (s : State) (h : LHolder) : ∃ w n r, endLeases s h =
    setHolderParts { s with grants := s.grants.filter (fun g => g.holder != h), grantWaits := w, net := n, rehome := r } h [] :=
  ⟨_, _, _, rfl⟩

/-- The list of a node's parts names each by its holder and its place there (R115). -/
theorem part_of_mem_nodeParts {s : State} {node i : Nat} {h : LHolder} {p : LeasePart} (hm : (h, i, p) ∈ nodeParts s node) :
    (holderParts s h)[i]? = some p := by
  simp only [nodeParts, List.mem_flatMap, List.mem_map, Prod.mk.injEq] at hm
  obtain ⟨_, _, ⟨j, q⟩, hq, rfl, rfl, rfl⟩ := hm
  exact (mem_zip_range_iff _ _ _).mp hq

theorem mem_nodeParts_of_task {s : State} {id i : Nat} {y : Task} {x : LeasePart} (hy : getTask s id = some y)
    (hx : y.parts[i]? = some x) : (LHolder.task id, i, x) ∈ nodeParts s y.die := by
  have hp : holderParts s (.task id) = y.parts := by simp [holderParts, hy]
  simp only [nodeParts, List.mem_flatMap, List.mem_append, List.mem_map, List.mem_filterMap]
  refine ⟨.task id, .inl ⟨(id, y), Tab.mem_of_find hy, by simp⟩, (i, x), ?_, rfl⟩
  rw [hp]
  exact (mem_zip_range_iff _ _ _).mpr hx

/-- Under an idempotent change that a fold makes to some parts, a part stays as the change left it. -/
theorem part_foldl_changed {f : LeasePart → LeasePart} (idem : ∀ x, f (f x) = f x) (c : LHolder × Nat × LeasePart → Bool)
    {h : LHolder} {i : Nat} {x : LeasePart} (l : List (LHolder × Nat × LeasePart)) (s : State)
    (hx : (holderParts s h)[i]? = some (f x)) :
    (holderParts (l.foldl (fun t e => if c e then modPart t e.1 e.2.1 f else t) s) h)[i]? = some (f x) := by
  induction l generalizing s with
  | nil => exact hx
  | cons e l ih =>
    refine ih _ ?_
    dsimp only
    split
    · rw [part_modPart, hx]; split <;> simp [idem]
    · exact hx

/-- A fold that makes an idempotent change to the parts that it lists has made it to each of them. -/
theorem part_foldl_listed {f : LeasePart → LeasePart} (idem : ∀ x, f (f x) = f x) (c : LHolder × Nat × LeasePart → Bool)
    {h : LHolder} {i : Nat} {x : LeasePart} (l : List (LHolder × Nat × LeasePart)) (s : State)
    (hx : (holderParts s h)[i]? = some x) (hm : (h, i, x) ∈ l) (hc : c (h, i, x) = true) :
    (holderParts (l.foldl (fun t e => if c e then modPart t e.1 e.2.1 f else t) s) h)[i]? = some (f x) := by
  induction l generalizing s with
  | nil => cases hm
  | cons e l ih =>
    by_cases he : c e = true ∧ e.1 = h ∧ e.2.1 = i
    · obtain ⟨hce, rfl, rfl⟩ := he
      exact part_foldl_changed idem c l _ (by simp [hce, part_modPart_same f hx])
    · have hl : (h, i, x) ∈ l := by
        rcases List.mem_cons.mp hm with rfl | hl
        · exact absurd ⟨hc, rfl, rfl⟩ he
        · exact hl
      refine ih _ ?_ hl
      dsimp only
      split
      · rename_i hce
        rw [part_modPart, if_neg (fun e' => he ⟨hce, e'⟩), hx]
      · exact hx

/-- A part that a grantor granted to a task's request takes an idempotent change of `modNodeParts`. -/
theorem part_modNodeParts {f : LeasePart → LeasePart} (idem : ∀ x, f (f x) = f x) {s : State} {id i : Nat} {y : Task}
    {x : LeasePart} (hy : getTask s id = some y) (hx : y.parts[i]? = some x) :
    (holderParts (modNodeParts s y.die x.grantor x.req f) (.task id))[i]? = some (f x) :=
  part_foldl_listed idem _ _ s (by simpa [holderParts, hy] using hx) (mem_nodeParts_of_task hy hx) (by simp)

end Sys2Proof.Machine.Translation
end

section
/-! Leases (`Obligations.LeaseEvents`): request, grant, renewal, loss and expiry (R110, R111, R115). -/

namespace Sys2Proof.Machine.Translation

/-! ## The grantor -/

/-- The lease `g` is granted in `t`, for a term that begins at the package time of `u` (R111, R115). -/
def Granted (t u : State) (g : Grant) : Prop :=
  ∃ y ∈ t.grants, y.node = g.node ∧ y.range = g.range ∧ y.ent = g.ent ∧ y.kind = g.kind ∧ y.asid = g.asid ∧
    y.holder = g.holder ∧ y.req = g.req ∧ y.live = true ∧ y.e = nodeTime u g.node + 1000000 ∧
    Travels t g.node (holderNode u g.holder) (.grant (holderCode g.holder) g.part y.num y.e g.req)

/-- The lease that a request message asks for. -/
def askedLease (p : Pkt) (h asid lo hi kind part : Nat) (ent : BitVec 128) (req : Nat) : Grant :=
  { node := p.dst, num := 0, req := req, src := p.src, asid := if bitOf lo 53 then 0 else asid,
    range := { lo := lo, hi := hi }, ent := ent, kind := kindOf kind, holder := holderOf h, part := part, e := 0, live := false }

theorem makeGrant_eq (u : State) (g : Grant) : ∃ n, makeGrant u g = { u with
    grants := u.grants ++ [{ g with num := freeNum u g.node, e := nodeTime u g.node + 1000000, live := true }], net := n } :=
  send_eq _ _ _ _ _ _

theorem granted_makeGrant (u : State) (g : Grant) : Granted (makeGrant u g) u g := by
  refine ⟨{ g with num := freeNum u g.node, e := nodeTime u g.node + 1000000, live := true }, ?_,
    rfl, rfl, rfl, rfl, rfl, rfl, rfl, rfl, rfl, travels_send _ _ _ _ _ _⟩
  obtain ⟨n, hn⟩ := makeGrant_eq u g
  rw [hn]
  exact List.mem_append_right _ List.mem_cons_self

theorem walkAndGrant_of_walked {s u : State} {g : Grant} (hw : grantWalk s g = (u, none)) :
    walkAndGrant s g = makeGrant u g := by
  simp [walkAndGrant, hw]

theorem walkAndGrant_of_fault {s u : State} {g : Grant} {x : Nat × Nat} (hw : grantWalk s g = (u, some x)) :
    walkAndGrant s g = send u g.node (holderNode u g.holder) .rsp g.range.lo
      (.leaseFault (holderCode g.holder) g.part x.1 x.2 g.req) := by
  simp [walkAndGrant, hw]

/-- A lease whose walks succeed is granted; the grants alone tell what the grantor has changed. -/
theorem walkAndGrant_granted {s u : State} {g : Grant} (hw : grantWalk s g = (u, none)) :
    Granted (walkAndGrant s g) u g ∧ (walkAndGrant s g).mem = s.mem ∧ (walkAndGrant s g).grantWaits = s.grantWaits := by
  rw [walkAndGrant_of_walked hw]
  refine ⟨granted_makeGrant u g, ?_⟩
  obtain ⟨a, b, rfl⟩ := grantWalk_eq hw
  obtain ⟨n, hn⟩ := makeGrant_eq { s with tlb := a, walks := b } g
  rw [hn]
  exact ⟨rfl, rfl⟩

/-! ## A request reaches its grantor -/

/-- Who may be granted a lease is no matter of the messages under way. -/
theorem entryWaiters_takeMsg (s : State) (n : Nat) (seen l : List Grant) :
    entryWaiters (takeMsg s n) seen l = entryWaiters s seen l := by
  induction l generalizing seen with
  | nil => rfl
  | cons g l ih => exact congrArg (b2n (!grantBarred s g seen) + ·) (ih _)

theorem grantBlocked_takeMsg (s : State) (n : Nat) (g : Grant) (l : List Grant) :
    grantBlocked (takeMsg s n) g l = grantBlocked s g l := by
  simp only [grantBlocked, entryWaiters_takeMsg]
  rfl

section Request

variable {s u : State} {n h asid lo hi kind part req : Nat} {ent : BitVec 128} {p : Pkt}

/-- A request that need not wait is walked and granted, or its fault answered. -/
theorem serveLeaseReq_of_free (hs : servable s n = some p) (hm : p.msg = .leaseReq h asid lo hi kind part ent req)
    (hb : grantBlocked s (askedLease p h asid lo hi kind part ent req) s.grantWaits = false) :
    serveLeaseReq s n = walkAndGrant (takeMsg s n) (askedLease p h asid lo hi kind part ent req) := by
  rw [← grantBlocked_takeMsg s n] at hb
  change grantBlocked _ _ (takeMsg s n).grantWaits = _ at hb
  unfold askedLease at hb ⊢
  simp [serveLeaseReq, hs, hm, hb]

/-- A request that must wait is walked all the same (assumption log 86), and its fault answered. -/
theorem serveLeaseReq_of_fault (hs : servable s n = some p) (hm : p.msg = .leaseReq h asid lo hi kind part ent req)
    (hb : grantBlocked s (askedLease p h asid lo hi kind part ent req) s.grantWaits = true) {x : Nat × Nat}
    (hw : grantWalk (takeMsg s n) (askedLease p h asid lo hi kind part ent req) = (u, some x)) :
    serveLeaseReq s n = send u p.dst p.src .rsp lo (.leaseFault h part x.1 x.2 req) := by
  rw [← grantBlocked_takeMsg s n] at hb
  change grantBlocked _ _ (takeMsg s n).grantWaits = _ at hb
  unfold askedLease at hb hw
  simp [serveLeaseReq, hs, hm, hb, hw]

theorem serveLeaseReq_of_blocked (hs : servable s n = some p) (hm : p.msg = .leaseReq h asid lo hi kind part ent req)
    (hb : grantBlocked s (askedLease p h asid lo hi kind part ent req) s.grantWaits = true)
    (hw : grantWalk (takeMsg s n) (askedLease p h asid lo hi kind part ent req) = (u, none)) :
    serveLeaseReq s n = send { u with grantWaits := u.grantWaits ++ [askedLease p h asid lo hi kind part ent req] }
      p.dst p.src .rsp lo (.held req) := by
  rw [← grantBlocked_takeMsg s n] at hb
  change grantBlocked _ _ (takeMsg s n).grantWaits = _ at hb
  unfold askedLease at hb hw ⊢
  simp [serveLeaseReq, hs, hm, hb, hw]

theorem leaseRequest_granted (hs : servable s n = some p) (hm : p.msg = .leaseReq h asid lo hi kind part ent req)
    (hb : grantBlocked s (askedLease p h asid lo hi kind part ent req) s.grantWaits = false)
    (hw : grantWalk (takeMsg s n) (askedLease p h asid lo hi kind part ent req) = (u, none)) :
    ∃ t, exec (.leaseRequest n) s = .next t ∧ Granted t u (askedLease p h asid lo hi kind part ent req) ∧
      t.mem = s.mem := by
  obtain ⟨hg, hmem, -⟩ := walkAndGrant_granted hw
  exact ⟨_, congrArg Host.Outcome.next (serveLeaseReq_of_free hs hm hb), hg, hmem⟩

/-- A fault is answered at the request's arrival, whether the request could be granted or must wait. -/
theorem leaseRequest_faulted (hs : servable s n = some p) (hm : p.msg = .leaseReq h asid lo hi kind part ent req)
    {x : Nat × Nat} (hw : grantWalk (takeMsg s n) (askedLease p h asid lo hi kind part ent req) = (u, some x)) :
    ∃ t, exec (.leaseRequest n) s = .next t ∧ t.grants = s.grants ∧ t.grantWaits = s.grantWaits ∧
      ∃ d, Travels t p.dst d (.leaseFault (holderCode (holderOf h)) part x.1 x.2 req) := by
  have answer : ∃ d v, serveLeaseReq s n = send u p.dst d .rsp v (.leaseFault (holderCode (holderOf h)) part x.1 x.2 req) := by
    cases hb : grantBlocked s (askedLease p h asid lo hi kind part ent req) s.grantWaits with
    | false => exact ⟨_, _, (serveLeaseReq_of_free hs hm hb).trans (walkAndGrant_of_fault hw)⟩
    | true => exact ⟨_, _, by rw [holderCode_holderOf]; exact serveLeaseReq_of_fault hs hm hb hw⟩
  obtain ⟨d, v, ha⟩ := answer
  obtain ⟨a, b, hu⟩ := grantWalk_eq hw
  obtain ⟨m, hn⟩ := send_eq u p.dst d .rsp v (.leaseFault (holderCode (holderOf h)) part x.1 x.2 req)
  exact ⟨_, congrArg Host.Outcome.next ha, by rw [hn, hu]; rfl, by rw [hn, hu]; rfl, d, travels_send _ _ _ _ _ _⟩

theorem leaseRequest_held (hs : servable s n = some p) (hm : p.msg = .leaseReq h asid lo hi kind part ent req)
    (hb : grantBlocked s (askedLease p h asid lo hi kind part ent req) s.grantWaits = true)
    (hw : grantWalk (takeMsg s n) (askedLease p h asid lo hi kind part ent req) = (u, none)) :
    ∃ t, exec (.leaseRequest n) s = .next t ∧ t.grants = s.grants ∧
      t.grantWaits = s.grantWaits ++ [askedLease p h asid lo hi kind part ent req] ∧ Travels t p.dst p.src (.held req) := by
  refine ⟨_, congrArg Host.Outcome.next (serveLeaseReq_of_blocked hs hm hb hw), ?_, ?_, travels_send _ _ _ _ _ _⟩
  all_goals
    obtain ⟨m, hn⟩ := send_eq { u with grantWaits := u.grantWaits ++ [askedLease p h asid lo hi kind part ent req] }
      p.dst p.src .rsp lo (.held req)
    obtain ⟨a, b, rfl⟩ := grantWalk_eq hw
    rw [hn]
    rfl

end Request

/-- A waiting request against which nothing stands any more is granted, and waits no more (R110). -/
theorem leaseWaitGranted_granted {s u : State} {node k : Nat} {g : Grant}
    (hg : (s.grantWaits.filter (fun g => g.node == node))[k]? = some g)
    (hb : grantBlocked s g ((s.grantWaits.filter (fun x => x.node == node)).take k) = false)
    (hh : (getNode s node).halt = false)
    (hw : grantWalk { s with grantWaits := s.grantWaits.filter (fun x => x != g) } g = (u, none)) :
    ∃ t, exec (.leaseWaitGranted node k) s = .next t ∧ (Granted t u g ∧ t.mem = s.mem) ∧ g ∉ t.grantWaits := by
  obtain ⟨hgr, hmem, hwait⟩ := walkAndGrant_granted hw
  refine ⟨_, ?_, ⟨hgr, hmem⟩, ?_⟩
  · change execLeaseWaitGranted node k s = _
    simp [execLeaseWaitGranted, hg, hb, hh]
  · simp [hwait]

/-! ## The holder's parts -/

/-- GRANT gives the holder its part, with the number and the end of the term (R111). -/
theorem leaseGrant_part {s : State} {n h part num e req : Nat} {p : Pkt} {x : LeasePart} (hs : servable s n = some p)
    (hm : p.msg = .grant h part num e req) (hx : (holderParts s (holderOf h))[part]? = some x) (hr : x.req = req) :
    ∃ t, exec (.leaseGrant n) s = .next t ∧
      (holderParts t (holderOf h))[part]? = some { x with num := num, e := e, grantor := p.src, pending := false } := by
  refine ⟨modPart (answeredId (takeMsg s n) req) (holderOf h) part (fun x =>
    if x.req = req then { x with num := num, e := e, grantor := p.src, pending := false } else x), ?_, ?_⟩
  · change Host.Outcome.next (serveLeaseGrant s n) = _
    simp [serveLeaseGrant, hs, hm]
  · rw [part_modPart_same (s := answeredId (takeMsg s n) req) _ hx, if_pos hr]

/-- The holder sends RENEW with its package time (R115). -/
theorem leaseRenewDue_renews {s : State} {node k i : Nat} {h : LHolder} {p : LeasePart}
    (hk : (nodeParts s node)[k]? = some (h, i, p)) (hl : p.lost = false) (hp : p.pending = false) (hr : p.renewing = false)
    (he : p.e ≤ nodeTime s node + 500000) (hd : (getNode s node).dbgHold = false) :
    ∃ t, exec (.leaseRenewDue node k) s = .next t ∧ (holderParts t h)[i]? = some { p with renewing := true } ∧
      Travels t node p.grantor (.renew node p.req (nodeTime s node)) := by
  refine ⟨send (modPart s h i (fun x => { x with renewing := true })) node p.grantor .req p.range.lo
    (.renew node p.req (nodeTime s node)), ?_, ?_, travels_send _ _ _ _ _ _⟩
  · change execLeaseRenewDue node k s = _
    simp [execLeaseRenewDue, hk, hl, hp, hr, hd, Nat.not_lt.mpr he]
  · obtain ⟨m, hn⟩ := send_eq (modPart s h i (fun x => { x with renewing := true })) node p.grantor .req p.range.lo
      (.renew node p.req (nodeTime s node))
    rw [hn]
    exact part_modPart_same _ (part_of_mem_nodeParts (List.mem_of_getElem? hk))

/-- At 2 us before the end the holder loses the lease (R115). -/
theorem leaseHolderExpiry_lost {s : State} {node k i : Nat} {h : LHolder} {p : LeasePart}
    (hk : (nodeParts s node)[k]? = some (h, i, p)) (hp : p.pending = false) (he : p.e ≤ nodeTime s node + 2000) :
    ∃ t, exec (.leaseHolderExpiry node k) s = .next t ∧ (holderParts t h)[i]? = some { p with lost := true } := by
  refine ⟨modPart s h i (fun x => { x with lost := true }), ?_,
    part_modPart_same _ (part_of_mem_nodeParts (List.mem_of_getElem? hk))⟩
  change execLeaseHolderExpiry node k s = _
  simp [execLeaseHolderExpiry, hk, hp, Nat.not_lt.mpr he]

/-- 2 us after the end the grantor frees the lease (R115). -/
theorem leaseGrantorExpiry_freed {s : State} {node k : Nat} {g : Grant}
    (hg : (s.grants.filter (fun g => g.node == node))[k]? = some g) (he : g.e + 2000 ≤ nodeTime s node) :
    ∃ t, exec (.leaseGrantorExpiry node k) s = .next t ∧ ∀ x, x ∈ t.grants ↔ x ∈ s.grants ∧ x ≠ g := by
  refine ⟨{ s with grants := s.grants.filter (fun x => x != g) }, ?_, by simp⟩
  change execLeaseGrantorExpiry node k s = _
  simp [execLeaseGrantorExpiry, hg, Nat.not_lt.mpr he]

/-! ## Renewal -/

section Renewal

variable {s : State} {n d req x : Nat} {p : Pkt}

/-- The lease that a RENEW names: a live one of the grantor that it reaches. -/
abbrev RenewNames (p : Pkt) (req : Nat) (g : Grant) : Prop := g.node = p.dst ∧ g.req = req ∧ g.live = true

/-- The times of holder and grantor stand within 2 us of each other. -/
abbrev TimesClose (x now : Nat) : Prop := x ≤ now + 2000 ∧ now ≤ x + 2000

/-- Leases, with the end of those that a RENEW names set. -/
def setEnds (p : Pkt) (req e : Nat) (l : List Grant) : List Grant :=
  l.map (fun g => if RenewNames p req g then { g with e := e } else g)

theorem mem_setEnds_of_named {p : Pkt} {req e : Nat} {l : List Grant} {g : Grant} (hm : g ∈ l) (hn : RenewNames p req g) :
    { g with e := e } ∈ setEnds p req e l := List.mem_map.mpr ⟨g, hm, if_pos hn⟩

theorem mem_setEnds_of_other {p : Pkt} {req e : Nat} {l : List Grant} {g : Grant} (hm : g ∈ l) (hn : ¬ RenewNames p req g) :
    g ∈ setEnds p req e l := List.mem_map.mpr ⟨g, hm, if_neg hn⟩

/-- A RENEW whose lease the grantor has not is answered LOST. -/
theorem serveRenew_of_none (hs : servable s n = some p) (hm : p.msg = .renew d req x)
    (hg : ¬ ∃ g ∈ s.grants, RenewNames p req g) :
    serveRenew s n = send (takeMsg s n) p.dst p.src .rsp 0 (.leaseLost d req) := by
  have hany : (takeMsg s n).grants.any (fun g => g.node == p.dst && g.req == req && g.live) = false := by
    simpa [takeMsg, and_assoc] using hg
  simp [serveRenew, hs, hm, hany]

/-- A RENEW whose lease stands is answered by how close the two times are (R115). -/
theorem serveRenew_of_some (hs : servable s n = some p) (hm : p.msg = .renew d req x)
    (hg : ∃ g ∈ s.grants, RenewNames p req g) :
    serveRenew s n =
      if TimesClose x (nodeTime s p.dst) then
        send { takeMsg s n with grants := setEnds p req (nodeTime s p.dst + 1000000) s.grants } p.dst p.src .rsp 0
          (.renewed d req (nodeTime s p.dst + 1000000))
      else send { takeMsg s n with grants := setEnds p req (nodeTime s p.dst) s.grants } p.dst p.src .rsp 0
        (.leaseLost d req) := by
  have hany : (takeMsg s n).grants.any (fun g => g.node == p.dst && g.req == req && g.live) = true := by
    simpa [takeMsg, and_assoc] using hg
  have ht : nodeTime (takeMsg s n) p.dst = nodeTime s p.dst := rfl
  by_cases hc : TimesClose x (nodeTime s p.dst)
  · rw [if_pos hc]
    simp [serveRenew, setEnds, hs, hm, hany, ht, hc, and_assoc]
    rfl
  · rw [if_neg hc]
    simp [serveRenew, setEnds, hs, hm, hany, ht, hc, and_assoc]
    rfl

/-- Within 2 us of each other the times give the lease another term, and no other lease changes. -/
theorem renew_renewed (hs : servable s n = some p) (hm : p.msg = .renew d req x) (hg : ∃ g ∈ s.grants, RenewNames p req g)
    (hc : TimesClose x (nodeTime s p.dst)) :
    ∃ t, exec (.renew n) s = .next t ∧ Travels t p.dst p.src (.renewed d req (nodeTime s p.dst + 1000000)) ∧
      (∀ g ∈ s.grants, RenewNames p req g → { g with e := nodeTime s p.dst + 1000000 } ∈ t.grants) ∧
      ∀ g ∈ s.grants, ¬ RenewNames p req g → g ∈ t.grants := by
  have he := (serveRenew_of_some hs hm hg).trans (if_pos hc)
  refine ⟨_, congrArg Host.Outcome.next he, travels_send _ _ _ _ _ _, ?_⟩
  obtain ⟨m, hn⟩ := send_eq { takeMsg s n with grants := setEnds p req (nodeTime s p.dst + 1000000) s.grants }
    p.dst p.src .rsp 0 (.renewed d req (nodeTime s p.dst + 1000000))
  rw [hn]
  exact ⟨fun g => mem_setEnds_of_named, fun g => mem_setEnds_of_other⟩

theorem renew_lost (hs : servable s n = some p) (hm : p.msg = .renew d req x)
    (h : (∀ g ∈ s.grants, ¬ RenewNames p req g) ∨ ¬ TimesClose x (nodeTime s p.dst)) :
    ∃ t, exec (.renew n) s = .next t ∧ Travels t p.dst p.src (.leaseLost d req) := by
  by_cases hg : ∃ g ∈ s.grants, RenewNames p req g
  · have hc : ¬ TimesClose x (nodeTime s p.dst) :=
      h.resolve_left (fun hno => let ⟨g, hm, hn⟩ := hg; hno g hm hn)
    exact ⟨_, congrArg Host.Outcome.next ((serveRenew_of_some hs hm hg).trans (if_neg hc)), travels_send _ _ _ _ _ _⟩
  · exact ⟨_, congrArg Host.Outcome.next (serveRenew_of_none hs hm hg), travels_send _ _ _ _ _ _⟩

/-- RENEWED gives a task's part its new end; a part that is lost stays lost. -/
theorem renewed_part {id i e : Nat} {y : Task} {q : LeasePart} (hs : servable s n = some p) (hm : p.msg = .renewed y.die q.req e)
    (hy : getTask s id = some y) (hq : y.parts[i]? = some q) (hg : q.grantor = p.src) (hl : q.lost = false) :
    ∃ t, exec (.renewed n) s = .next t ∧
      (holderParts t (.task id))[i]? = some { q with e := e, renewing := false } := by
  refine ⟨modNodeParts (takeMsg s n) y.die q.grantor q.req
    (fun x => if x.lost then x else { x with e := e, renewing := false }), ?_, ?_⟩
  · change Host.Outcome.next (serveRenewed s n) = _
    simp [serveRenewed, hs, hm, hg]
  · rw [part_modNodeParts (fun x => by cases hx : x.lost <;> simp [hx]) (s := takeMsg s n) hy hq]
    simp [hl]

/-- LOST takes a task's part from it. -/
theorem leaseLostAnswer_part {id i : Nat} {y : Task} {q : LeasePart} (hs : servable s n = some p)
    (hm : p.msg = .leaseLost y.die q.req) (hy : getTask s id = some y) (hq : y.parts[i]? = some q) (hg : q.grantor = p.src) :
    ∃ t, exec (.leaseLostAnswer n) s = .next t ∧
      (holderParts t (.task id))[i]? = some { q with lost := true, renewing := false } := by
  refine ⟨modNodeParts (takeMsg s n) y.die q.grantor q.req (fun x => { x with lost := true, renewing := false }), ?_,
    part_modNodeParts (f := fun x => { x with lost := true, renewing := false }) (fun _ => rfl) (s := takeMsg s n) hy hq⟩
  change Host.Outcome.next (serveLeaseLost s n) = _
  simp [serveLeaseLost, hs, hm, hg]

end Renewal

/-- Settles O43: each clause is the lemma above about its event. -/
theorem leaseEvents : Obligations.LeaseEvents := by
  intro s n node k
  refine ⟨fun p h asid lo hi kind part ent req u f hs hm hw => ⟨?_, ?_, ?_⟩, ?_, ?_, ?_, ?_, ?_, ?_, ?_⟩
  · rintro hb rfl
    exact leaseRequest_granted hs hm hb hw
  · rintro x rfl
    exact leaseRequest_faulted hs hm hw
  · rintro hb rfl
    exact leaseRequest_held hs hm hb hw
  · exact fun g u hg hb hh hw => leaseWaitGranted_granted hg hb hh hw
  · exact fun p h part num e req x hs hm hx hr => leaseGrant_part hs hm hx hr
  · exact fun h i p hk hl hp hr he hd => leaseRenewDue_renews hk hl hp hr he hd
  · exact fun p d req x hs hm => ⟨renew_renewed hs hm, renew_lost hs hm⟩
  · rintro p _ _ id y i q hs hy rfl hq hg rfl
    exact ⟨fun e hm hl => renewed_part hs hm hy hq hg hl, fun hm => leaseLostAnswer_part hs hm hy hq hg⟩
  · exact fun h i p hk hp he => leaseHolderExpiry_lost hk hp he
  · exact fun g hg he => leaseGrantorExpiry_freed hg he

end Sys2Proof.Machine.Translation
end

section
/-! Routed faults, their answers and their records (`Obligations.FaultEvents`; R111, R112, R117, R118, R255). -/

namespace Sys2Proof.Machine.Translation

/-! ## Memory that a record is written to

While hub 0 serves its own role, no address stands for another host's memory (R123), and a cell has its address. -/

theorem paCell_of_role {s : State} (h : roleHub s = 48) (a : Nat) : paCell s a = a := by simp [paCell, h]

theorem paWrite_eq (s : State) (slot a : Nat) (b : Byte) : ∃ m k, paWrite s slot a b = { s with mem := m, memKey := k } := by
  simp only [paWrite, paRekey]
  split
  · exact ⟨_, _, rfl⟩
  split
  · exact ⟨_, _, rfl⟩
  · exact ⟨_, _, rfl⟩

theorem roleHub_paWrite (s : State) (slot a : Nat) (b : Byte) : roleHub (paWrite s slot a b) = roleHub s := by
  obtain ⟨m, k, e⟩ := paWrite_eq s slot a b
  rw [e]
  rfl

theorem paWriteN_eq (s : State) (slot a : Nat) (l : List Byte) :
    ∃ m k, paWriteN s slot a l = { s with mem := m, memKey := k } := by
  induction l generalizing s a with
  | nil => exact ⟨_, _, rfl⟩
  | cons b l ih =>
    obtain ⟨m, k, e⟩ := ih (paWrite s slot a b) (a + 1)
    obtain ⟨m', k', e'⟩ := paWrite_eq s slot a b
    exact ⟨m, k, by rw [paWriteN, e, e']⟩

/-- Whether a byte is readable under a slot is a matter of its line's tag and of the key slots alone. -/
theorem keyMatches_congr {s t : State} {slot c : Nat} (ht : memTag t c = memTag s c) (hk : t.keys = s.keys) :
    keyMatches t slot c = keyMatches s slot c := by
  simp [keyMatches, ht, slotTag, getKey, hk]

/-- A byte under a slot: its line is readable under the slot, and the cell of its address holds it. -/
def ByteIs (s : State) (slot a : Nat) (b : Byte) : Prop := keyMatches s slot a = true ∧ Memory.read s.mem a = b

theorem paRead_of_byteIs {s : State} {slot a : Nat} {b : Byte} (hr : roleHub s = 48) (h : ByteIs s slot a b) :
    paRead s slot a = b := by
  obtain ⟨hk, hb⟩ := h
  rw [paRead, if_pos hk, paCell_of_role hr, hb]

theorem ByteIs.congr {s t : State} {slot a : Nat} {b : Byte} (h : ByteIs s slot a b) (hm : t.mem = s.mem)
    (ht : t.memKey = s.memKey) (hk : t.keys = s.keys) : ByteIs t slot a b :=
  ⟨(keyMatches_congr (by rw [memTag, memTag, ht]) hk).trans h.1, by rw [hm]; exact h.2⟩

theorem paEncrypted_of_line {a c : Nat} (h : c / 128 = a / 128) : paEncrypted c = paEncrypted a := by
  have e : c / 2 ^ 46 = a / 2 ^ 46 := by omega
  exact congrArg (fun n => decide (n % 64 < 32)) e

/-- Lines under the slot after a line has been tagged with it. -/
theorem keyMatches_put {s : State} {slot a : Nat} (m : List Host.Cell) (c : Nat)
    (h : c / 128 = a / 128 ∨ keyMatches s slot c = true) :
    keyMatches { s with mem := m, memKey := Tab.put s.memKey (a / 128) (slotTag s slot) } slot c = true := by
  by_cases hl : a / 128 = c / 128
  · simp [keyMatches, memTag, hl, slotTag, getKey]
  · have hc := h.resolve_left (Ne.symm hl)
    rw [keyMatches_congr (s := s)]
    · exact hc
    · exact Tab.find_put_ne s.memKey _ hl
    · rfl

/-- The memory of a line that is about to be written under a slot (R139): another line is as it was, and so is this one under
the same key. -/
theorem read_rekeyed {s : State} {slot a : Nat} (he : paEncrypted a = true) :
    ∃ m, paRekey s slot a = { s with mem := m, memKey := Tab.put s.memKey (a / 128) (slotTag s slot) } ∧
      ∀ c, keyMatches s slot c = true → Memory.read m c = Memory.read s.mem c := by
  cases hk : keyMatches s slot a with
  | true => exact ⟨s.mem, by simp [paRekey, he, hk], fun _ _ => rfl⟩
  | false =>
    refine ⟨(List.range 128).foldl (fun m i =>
      Memory.write m (a / 128 * 128 + i) (Config.wrongKeyByte s.free (a / 128 * 128 + i))) s.mem, by simp [paRekey, he, hk],
      fun c hc => ?_⟩
    rw [Memory.read_foldl (a / 128 * 128) (Config.wrongKeyByte s.free), if_neg]
    intro hmem
    obtain ⟨i, hi, rfl⟩ := List.mem_map.mp hmem
    have hl : (a / 128 * 128 + i) / 128 = a / 128 := by have := List.mem_range.mp hi; omega
    rw [keyMatches, paEncrypted_of_line hl, memTag, hl] at hc
    rw [keyMatches, memTag, hc] at hk
    cases hk

/-- Memory after one write: the byte written, and of the bytes readable under the slot every other as it was (R139). -/
theorem paWrite_bytes {s : State} {slot a : Nat} (b : Byte) (hr : roleHub s = 48) :
    ByteIs (paWrite s slot a b) slot a b ∧
    ∀ c x, c ≠ a → ByteIs s slot c x → ByteIs (paWrite s slot a b) slot c x := by
  by_cases he : paEncrypted a = true
  · obtain ⟨m, hm, hread⟩ := read_rekeyed (s := s) (slot := slot) he
    have hw : paWrite s slot a b =
        { s with mem := Memory.write m a b, memKey := Tab.put s.memKey (a / 128) (slotTag s slot) } := by
      have hc : paCell (paRekey s slot a) a = a := paCell_of_role (by rw [hm]; exact hr) a
      dsimp only [paWrite]
      rw [hc, hm]
    rw [hw]
    refine ⟨⟨keyMatches_put _ a (.inl rfl), Memory.read_write_same _ _ _⟩,
      fun c x hc h => ⟨keyMatches_put _ c (.inr h.1), ?_⟩⟩
    exact (Memory.read_write _ _ _ _).trans ((if_neg hc.symm).trans ((hread c h.1).trans h.2))
  · have hw : paWrite s slot a b = { s with mem := Memory.write s.mem a b } := by
      simp [paWrite, paRekey, he, paCell_of_role hr]
    rw [hw]
    refine ⟨⟨by simp [keyMatches, he], Memory.read_write_same _ _ _⟩, fun c x hc h => ⟨h.1, ?_⟩⟩
    exact (Memory.read_write _ _ _ _).trans ((if_neg hc.symm).trans h.2)

/-- The bytes of a list written one after another, and of those readable under the slot every byte below them as it was. -/
theorem paWriteN_bytes {s : State} {slot a : Nat} (l : List Byte) (hr : roleHub s = 48) :
    (∀ j, j < l.length → ByteIs (paWriteN s slot a l) slot (a + j) (byteAt l j)) ∧
    ∀ c x, c < a → ByteIs s slot c x → ByteIs (paWriteN s slot a l) slot c x := by
  induction l generalizing s a with
  | nil => exact ⟨fun j hj => absurd hj (Nat.not_lt_zero j), fun c x _ h => h⟩
  | cons b l ih =>
    obtain ⟨hsame, hother⟩ := paWrite_bytes (slot := slot) (a := a) b hr
    obtain ⟨hl, hbelow⟩ := ih (s := paWrite s slot a b) (a := a + 1) ((roleHub_paWrite s slot a b).trans hr)
    refine ⟨fun j hj => ?_, fun c x hc h => hbelow c x (by omega) (hother c x (by omega) h)⟩
    cases j with
    | zero => exact hbelow a b (by omega) hsame
    | succ j =>
      have := hl j (by simpa using hj)
      rwa [Nat.add_assoc, Nat.add_comm 1 j] at this

/-! ## A record is written to the ring of its fault processor (R255) -/

/-- `t` differs from `s` in what homes hold of their words, and in watches and monitors, alone. -/
def WordsOnly (s t : State) : Prop :=
  ∃ w e l x v, t = { s with words := w, eccFound := e, llc := l, watches := x, waves := v }

theorem WordsOnly.rfl (s : State) : WordsOnly s s := ⟨_, _, _, _, _, Eq.refl _⟩

theorem WordsOnly.trans (s t u : State) : WordsOnly s t → WordsOnly t u → WordsOnly s u := by
  rintro ⟨_, _, _, _, _, rfl⟩ ⟨_, _, _, _, _, rfl⟩
  exact ⟨_, _, _, _, _, Eq.refl _⟩

theorem wordsOnly_setWordSt (s : State) (k w : Nat) (x : WordSt) : WordsOnly s (setWordSt s k w x) := ⟨_, _, _, _, _, rfl⟩

theorem wordsOnly_fireMon (s : State) (w code : Nat) : WordsOnly s (fireMon s w code) := by
  unfold fireMon
  split
  · split
    · exact ⟨_, _, _, _, _, rfl⟩
    · exact WordsOnly.rfl s
  · exact ⟨_, _, _, _, _, rfl⟩

theorem wordsOnly_physChanged (s : State) (a n : Nat) : WordsOnly s (physChanged s a n) := by
  refine WordsOnly.trans _ _ _ (foldl_related WordsOnly WordsOnly.rfl WordsOnly.trans _ (fun t e => ?_) _ _)
    (foldl_related WordsOnly WordsOnly.rfl WordsOnly.trans _ (fun t x => ?_) _ _)
  · dsimp only
    split
    · exact WordsOnly.rfl t
    · exact WordsOnly.trans _ _ _
        (foldl_related WordsOnly WordsOnly.rfl WordsOnly.trans _ (fun u w => wordsOnly_setWordSt u e.1 w .i) _ t)
        ⟨_, _, _, _, _, rfl⟩
  · exact WordsOnly.trans _ _ _ ⟨_, _, _, _, _, rfl⟩ (wordsOnly_fireMon _ _ _)

theorem indexWhere_holds {α : Type} {p : α → Bool} {l : List α} {i : Nat} {a : α} (h : indexWhere p l = some i)
    (ha : l[i]? = some a) : p a = true := by
  induction l generalizing i with
  | nil => cases h
  | cons b l ih =>
    by_cases hb : p b = true
    · rw [indexWhere, if_pos hb] at h
      cases h
      cases ha
      exact hb
    · rw [indexWhere, if_neg hb] at h
      obtain ⟨j, hj, rfl⟩ := Option.map_eq_some_iff.mp h
      exact ih hj ha

/-- A record that is hub 0's stands there only while hub 0 serves its own role. -/
theorem roleHub_of_procOf {s : State} {hub : Nat} (h : procOf s hub = 48) : roleHub s = 48 := by
  unfold procOf at h
  split at h
  · subst h
    simp [roleHub, *]
  · exact h

/-- The number of records of a fault processor's ring, as a power of 2, and the place in memory of the next one (R255). -/
def ringSize (m : NodeSt) : Nat := bitsOf m.fltBase.toNat 0 5
def ringNext (m : NodeSt) : Nat := bitsOf m.fltBase.toNat 12 40 * 4096 + 256 * (m.fltHead.toNat % 2 ^ ringSize m)

/-- Memory after a record's bytes have been written at `pa`, under key slot 0. -/
def recordStored (s : State) (pa : Nat) (l : List Byte) : State :=
  if paIsMemory pa then physChanged (paWriteN s 0 pa l) pa 256 else s

/-- The i-th record leaves the buffer: the ring of hub 0 has one more, and vector 1 of the PF is signalled. -/
def recordPosted (u : State) (i : Nat) : State :=
  signalMsix (modNode { u with flt := { u.flt with buffer := listErase u.flt.buffer i } } 48
    (fun n => { n with fltHead := n.fltHead + 1 })) 0 1

theorem recordPosted_flt (u : State) (i : Nat) : (recordPosted u i).flt = { u.flt with buffer := listErase u.flt.buffer i } := rfl

theorem recordPosted_msix (u : State) (i : Nat) : (recordPosted u i).msix = u.msix ++ [(0, 1)] := rfl

theorem getNode_recordPosted (u : State) (i : Nat) :
    getNode (recordPosted u i) 48 = { getNode u 48 with fltHead := (getNode u 48).fltHead + 1 } :=
  getNode_modNode { u with flt := { u.flt with buffer := listErase u.flt.buffer i } } 48
    (fun n => { n with fltHead := n.fltHead + 1 })

theorem byteIs_recordPosted {u : State} {slot a : Nat} {b : Byte} (i : Nat) (h : ByteIs u slot a b) :
    ByteIs (recordPosted u i) slot a b := h.congr rfl rfl rfl

/-- Which hub serves hub 0's roles is a matter of hub 0's being ACTIVE (R35). -/
theorem roleHub_congr {s t : State} (h : nodeActive t 48 = nodeActive s 48) : roleHub t = roleHub s := by
  rw [roleHub, roleHub, h]

theorem recordStored_eq (s : State) (pa : Nat) (l : List Byte) : ∃ m k w e c x v, recordStored s pa l =
    { s with mem := m, memKey := k, words := w, eccFound := e, llc := c, watches := x, waves := v } := by
  unfold recordStored
  split
  · obtain ⟨m, k, hw⟩ := paWriteN_eq s 0 pa l
    obtain ⟨w, e, c, x, v, hp⟩ := wordsOnly_physChanged (paWriteN s 0 pa l) pa 256
    exact ⟨m, k, w, e, c, x, v, by rw [hp, hw]⟩
  · exact ⟨_, _, _, _, _, _, _, rfl⟩

theorem byteIs_recordStored {s : State} {pa : Nat} {l : List Byte} (hr : roleHub s = 48) (hm : paIsMemory pa = true) {j : Nat}
    (hj : j < l.length) : ByteIs (recordStored s pa l) 0 (pa + j) (byteAt l j) := by
  obtain ⟨w, e, c, x, v, hp⟩ := wordsOnly_physChanged (paWriteN s 0 pa l) pa 256
  rw [recordStored, if_pos hm, hp]
  exact ((paWriteN_bytes l hr).1 j hj).congr rfl rfl rfl

theorem postOldest_of_room {s : State} {i : Nat} {r : FltRec} (hlo : 6 ≤ ringSize (getNode s 48))
    (hhi : ringSize (getNode s 48) ≤ 16)
    (hroom : ((getNode s 48).fltHead - (getNode s 48).fltTail).toNat ≠ 2 ^ ringSize (getNode s 48))
    (hi : indexWhere (fun r => procOf s r.hub == 48) s.flt.buffer = some i) (hr : s.flt.buffer[i]? = some r) :
    postOldest s = recordPosted (recordStored s (ringNext (getNode s 48)) r.bytes) i := by
  have hsize : ¬ (ringSize (getNode s 48) < 6 ∨ 16 < ringSize (getNode s 48)) := by omega
  unfold ringSize at hsize hroom
  have h48 : postOldestOf s 48 = some (recordPosted (recordStored s (ringNext (getNode s 48)) r.bytes) i) := by
    simp only [postOldestOf, if_neg hsize, if_neg hroom, hi, hr]
    rfl
  simp only [postOldest, h48]

/-- The record of the oldest fault of hub 0's processor enters a ring that has room (R255). -/
theorem faultRecordPost_posts {s : State} {i : Nat} {r : FltRec} (hlo : 6 ≤ ringSize (getNode s 48))
    (hhi : ringSize (getNode s 48) ≤ 16)
    (hroom : ((getNode s 48).fltHead - (getNode s 48).fltTail).toNat ≠ 2 ^ ringSize (getNode s 48))
    (hi : indexWhere (fun r => procOf s r.hub == 48) s.flt.buffer = some i) (hr : s.flt.buffer[i]? = some r) :
    ∃ t, exec .faultRecordPost s = .next t ∧ t.flt.buffer = listErase s.flt.buffer i ∧
      (getNode t 48).fltHead = (getNode s 48).fltHead + 1 ∧ t.msix = s.msix ++ [(0, 1)] ∧
      (paIsMemory (ringNext (getNode s 48)) = true →
        ∀ j, j < r.bytes.length → paRead t 0 (ringNext (getNode s 48) + j) = byteAt r.bytes j) := by
  have hrole : roleHub s = 48 := roleHub_of_procOf (by simpa using indexWhere_holds hi hr)
  obtain ⟨m, k, w, e, c, x, v, hst⟩ := recordStored_eq s (ringNext (getNode s 48)) r.bytes
  have hnode : getNode (recordStored s (ringNext (getNode s 48)) r.bytes) 48 = getNode s 48 := by rw [hst]; rfl
  refine ⟨_, congrArg Host.Outcome.next (postOldest_of_room hlo hhi hroom hi hr), ?_, ?_, ?_, fun hmem j hj => ?_⟩
  · rw [recordPosted_flt, hst]
  · rw [getNode_recordPosted, hnode]
  · rw [recordPosted_msix, hst]
  · refine paRead_of_byteIs ((roleHub_congr ?_).trans hrole) (byteIs_recordPosted i (byteIs_recordStored hrole hmem hj))
    rw [nodeActive, nodeActive, getNode_recordPosted, hnode]

/-! ## A fault is routed (R117) -/

/-- A record that must be answered is never dropped: it waits for its answer under the number that it takes (R256). -/
theorem postFaultAt_awaited (s : State) (hub : Nat) (f : FaultInfo) (who : AnsFor) : ∃ b h,
    postFaultAt s hub f (some who) = ({ s with flt := {
      nextSeq := (s.flt.nextSeq + 1) % 2 ^ 32
      buffer := s.flt.buffer ++ [{ seq := s.flt.nextSeq, answer := true, bytes := b, hub := h }]
      awaiting := s.flt.awaiting ++ [(s.flt.nextSeq, who)] } }, s.flt.nextSeq) :=
  ⟨recordBytes { f with answer := true, ptime := some (f.ptime.getD (nodeTime s (procOf s hub))) } s.flt.nextSeq, procOf s hub,
    by simp [postFaultAt]⟩

/-- A fault that no other module's processor covers is posted, for an answer. -/
theorem routeFault_here {s : State} {asid v : Nat} (hr : (faultRoute s asid v).1 = s.mods.podId) (origin sub xkind agent : Nat)
    (task : Word) (who : AnsFor) : ∃ b h, routeFault s origin sub xkind asid v agent task who = ({ s with flt := {
      nextSeq := (s.flt.nextSeq + 1) % 2 ^ 32
      buffer := s.flt.buffer ++ [{ seq := s.flt.nextSeq, answer := true, bytes := b, hub := h }]
      awaiting := s.flt.awaiting ++ [(s.flt.nextSeq, who)] } }, some s.flt.nextSeq) := by
  simp only [routeFault, if_pos hr]
  obtain ⟨b, h, e⟩ := postFaultAt_awaited s (48 + (faultRoute s asid v).2)
    { cause := cLeaseViolation, sub := sub, origin := origin, addr := vaFull v, agent := agent, asid := asid, xkind := xkind,
      task := task } who
  exact ⟨b, h, by rw [e]⟩

/-- Routing a fault changes the network and the fault processors alone. -/
theorem routeFault_eq (s : State) (origin sub xkind asid v agent : Nat) (task : Word) (who : AnsFor) :
    ∃ n f, (routeFault s origin sub xkind asid v agent task who).1 = { s with net := n, flt := f } := by
  by_cases hr : (faultRoute s asid v).1 = s.mods.podId
  · obtain ⟨b, h, e⟩ := routeFault_here hr origin sub xkind agent task who
    exact ⟨_, _, by rw [e]⟩
  · simp only [routeFault, if_neg hr]
    split
    · dsimp only
      exact ⟨_, _, (sendPkt_eq _ _ _).choose_spec⟩
    · exact ⟨_, _, rfl⟩

theorem getTask_endLeases (s : State) (id : Nat) :
    getTask (endLeases s (.task id)) id = (getTask s id).map (fun t => { t with parts := [] }) := by
  obtain ⟨w, n, r, e⟩ := endLeases_eq s (.task id)
  rw [e, setHolderParts, getTask_modTask]
  rfl

theorem faultRoute_modTask (s : State) (id asid v : Nat) (f : Task → Task) :
    faultRoute (modTask s id f) asid v = faultRoute s asid v := by
  unfold modTask
  split <;> rfl

/-- A task whose lease request faulted waits without leases for the number of its record (R111). -/
theorem leaseFaulted_task {s : State} {id v : Nat} {y : Task} (hy : getTask s id = some y)
    (hr : (faultRoute s y.asid v).1 = s.mods.podId) (kind : LKind) (xkind : Nat) :
    ∃ z, getTask (leaseFaulted s (.task id) kind xkind v) id = some z ∧ z.parts = [] ∧
      z.st = .faulted s.flt.nextSeq (kindCode kind) xkind (vaFull v) ∧
      (s.flt.nextSeq, AnsFor.task id) ∈ (leaseFaulted s (.task id) kind xkind v).flt.awaiting ∧
      ∃ r ∈ (leaseFaulted s (.task id) kind xkind v).flt.buffer, r.seq = s.flt.nextSeq ∧ r.answer = true := by
  obtain ⟨w, n, h, e⟩ := endLeases_eq s (.task id)
  rw [setHolderParts] at e
  have hflt : (endLeases s (.task id)).flt = s.flt := by rw [e, modTask_flt]
  have hroute : (faultRoute (endLeases s (.task id)) y.asid v).1 = (endLeases s (.task id)).mods.podId := by
    rw [e, faultRoute_modTask, modTask_mods]
    exact hr
  obtain ⟨b, hub, hrf⟩ := routeFault_here hroute 2 (kindCode kind) xkind (agentId (endLeases s (.task id)) y.die 127)
    (taskWord y) (.task id)
  rw [hflt] at hrf
  have hl : leaseFaulted s (.task id) kind xkind v = modTask { endLeases s (.task id) with flt := {
      nextSeq := (s.flt.nextSeq + 1) % 2 ^ 32
      buffer := s.flt.buffer ++ [{ seq := s.flt.nextSeq, answer := true, bytes := b, hub := hub }]
      awaiting := s.flt.awaiting ++ [(s.flt.nextSeq, .task id)] } } id
      (fun t => { t with st := .faulted s.flt.nextSeq (kindCode kind) xkind (vaFull v) }) := by
    simp only [leaseFaulted, hy, hrf]
  rw [hl]
  refine ⟨{ y with parts := [], st := .faulted s.flt.nextSeq (kindCode kind) xkind (vaFull v) }, ?_, rfl, rfl, ?_, ?_⟩
  · rw [getTask_modTask]
    exact congrArg (Option.map _) ((getTask_endLeases s id).trans (by rw [hy]))
  · rw [modTask_flt]
    exact List.mem_append_right _ List.mem_cons_self
  · rw [modTask_flt]
    exact ⟨_, List.mem_append_right _ List.mem_cons_self, rfl, rfl⟩

theorem leaseFaultAnswer_routed {s : State} {n h id part kind v req : Nat} {p : Pkt} {y : Task} {x : LeasePart}
    (hs : servable s n = some p) (hm : p.msg = .leaseFault h part kind v req) (hh : holderOf h = .task id)
    (hy : getTask s id = some y) (hx : y.parts[part]? = some x) (hq : x.req = req)
    (hr : (faultRoute s y.asid v).1 = s.mods.podId) :
    ∃ t z, exec (.leaseFaultAnswer n) s = .next t ∧ getTask t id = some z ∧ z.parts = [] ∧
      z.st = .faulted s.flt.nextSeq (kindCode x.kind) kind (vaFull v) ∧
      (s.flt.nextSeq, AnsFor.task id) ∈ t.flt.awaiting ∧
      ∃ r ∈ t.flt.buffer, r.seq = s.flt.nextSeq ∧ r.answer = true := by
  have hp : (holderParts (answeredId (takeMsg s n) req) (.task id))[part]? = some x := by
    have : holderParts s (.task id) = y.parts := by simp [holderParts, hy]
    exact (congrArg (·[part]?) this).trans hx
  have he : serveLeaseFault s n = leaseFaulted (answeredId (takeMsg s n) req) (.task id) x.kind kind v := by
    simp [serveLeaseFault, hs, hm, hh, hp, hq]
  obtain ⟨z, hz⟩ := leaseFaulted_task (s := answeredId (takeMsg s n) req) hy hr x.kind kind
  exact ⟨_, z, congrArg Host.Outcome.next he, hz⟩

/-! ## Answers (R111, R117, R118) -/

/-- An answer takes what waited for its number from the list. -/
def unawait (s : State) (q : Nat) : State :=
  { s with flt := { s.flt with awaiting := s.flt.awaiting.filter (fun a => a.1 != q) } }

theorem answerFault_thread {s : State} {seq : Word} {q w : Nat} (ok : Bool)
    (hf : s.flt.awaiting.find? (fun a => a.1 == seq.toNat) = some (q, .thread w)) :
    answerFault s seq ok = modWave (unawait s q) w (fun x => { x with stall := some (q, some ok) }) := by
  simp only [answerFault, hf]
  rfl

/-- RESOLVED: the leases of a faulted task are requested again. -/
theorem answerFault_resolved {s : State} {seq : Word} {q id a b c : Nat} {d : DWord} {y : Task}
    (hf : s.flt.awaiting.find? (fun a => a.1 == seq.toNat) = some (q, .task id)) (hy : getTask s id = some y)
    (hst : y.st = .faulted a b c d) :
    answerFault s seq true = requestRanges (modTask (unawait s q) id (fun x => { x with st := .leasing })) (.task id) y.asid
      (recRanges y.entry y.rec_) := by
  have hy' : getTask (unawait s q) id = some y := hy
  unfold unawait at hy' ⊢
  simp only [answerFault, hf, hy', hst, if_true]

/-- DENIED: a faulted task that has no workgroup ends. -/
theorem answerFault_denied {s : State} {seq : Word} {q id a b c : Nat} {d : DWord} {y : Task}
    (hf : s.flt.awaiting.find? (fun a => a.1 == seq.toNat) = some (q, .task id)) (hy : getTask s id = some y)
    (hst : y.st = .faulted a b c d) (hw : y.wg = none) :
    answerFault s seq false = taskDenied (unawait s q) id b c d := by
  have hy' : getTask (unawait s q) id = some y := hy
  unfold unawait at hy' ⊢
  simp only [answerFault, hf, hy', hst, hw, Bool.false_eq_true, if_false]

/-- A task that goes is there no more. -/
theorem getTask_taskGone (s : State) (id : Nat) : getTask (taskGone s id) id = none := by
  cases ht : getTask s id with
  | none => simp [taskGone, ht]
  | some t =>
    have erased : ∀ u : State, Tab.find (Tab.erase u.tasks id) id = none := fun u => by simp [Tab.find_erase]
    cases hp : t.phase with
    | none =>
      simp only [taskGone, ht, hp]
      exact erased _
    | some j =>
      simp only [taskGone, ht, hp]
      exact erased _

theorem getTask_taskDenied (s : State) (id sub xkind : Nat) (addr : DWord) :
    getTask (taskDenied s id sub xkind addr) id = none := by
  cases ht : getTask s id with
  | none => simp [taskDenied, ht]
  | some t =>
    simp only [taskDenied, ht]
    exact getTask_taskGone _ _

/-- Settles O44: the fault of a lease request, the two answers to a thread and to a task, and the posting of a record. -/
theorem faultEvents : Obligations.FaultEvents := by
  intro s
  refine ⟨fun n p h id part kind v req y x hs hm hh hy hx hq hr => leaseFaultAnswer_routed hs hm hh hy hx hq hr,
    fun seq q w hf => ⟨?_, ?_⟩, fun seq q id y a b c d hf hy hst => ⟨?_, fun hw => ?_⟩,
    fun i r hlo hhi hroom hi hr => faultRecordPost_posts hlo hhi hroom hi hr⟩
  · exact ⟨_, congrArg Host.Outcome.next (answerFault_thread true hf), by rw [getWave_modWave]⟩
  · exact ⟨_, congrArg Host.Outcome.next (answerFault_thread false hf), by rw [getWave_modWave]⟩
  · refine ⟨_, congrArg Host.Outcome.next (answerFault_resolved hf hy hst), ?_⟩
    have hy' : getTask (unawait s q) id = some y := hy
    simp [hy']
  · exact ⟨_, congrArg Host.Outcome.next (answerFault_denied hf hy hst hw), getTask_taskDenied _ _ _ _ _⟩

end Sys2Proof.Machine.Translation
end

section
/-! Contexts, key destruction, and the writes of CTX_LEASE and CTX_TTYPE (`Obligations.ContextEvents`; R112, R134-R140, R164). -/

namespace Sys2Proof.Machine.Translation

theorem getCtx_congr {s t : State} (h : t.ctxs = s.ctxs) (a : Nat) : getCtx t a = getCtx s a := by rw [getCtx, getCtx, h]

theorem getFunc_congr {s t : State} (h : t.funcs = s.funcs) (k : Nat) : getFunc t k = getFunc s k := by rw [getFunc, getFunc, h]

/-! ## What a standing lease's requests leave of the machine -/

/-- The leases of a standing entry have been changed: memory and key slots are as they were, so is each context but for its
leases, and no lease has been granted. -/
structure LeaseFrame (s t : State) : Prop where
  mem : t.mem = s.mem
  keys : t.keys = s.keys
  ctx : ∀ a, { getCtx t a with leases := [] } = { getCtx s a with leases := [] }
  grants : ∀ g ∈ t.grants, g ∈ s.grants

/-- And no CTX_LEASE register has changed. -/
structure LeasePartsFrame (s t : State) : Prop extends LeaseFrame s t where
  regs : ∀ a k, (Tab.get {} (getCtx t a).leases k).reg = (Tab.get {} (getCtx s a).leases k).reg

theorem LeaseFrame.rfl (s : State) : LeaseFrame s s := ⟨Eq.refl _, Eq.refl _, fun _ => Eq.refl _, fun _ h => h⟩

theorem LeaseFrame.trans (s t u : State) (h : LeaseFrame s t) (h' : LeaseFrame t u) : LeaseFrame s u :=
  ⟨h'.mem.trans h.mem, h'.keys.trans h.keys, fun a => (h'.ctx a).trans (h.ctx a), fun g hg => h.grants g (h'.grants g hg)⟩

theorem LeasePartsFrame.rfl (s : State) : LeasePartsFrame s s := ⟨LeaseFrame.rfl s, fun _ _ => Eq.refl _⟩

theorem LeasePartsFrame.trans (s t u : State) (h : LeasePartsFrame s t) (h' : LeasePartsFrame t u) : LeasePartsFrame s u :=
  ⟨LeaseFrame.trans s t u h.toLeaseFrame h'.toLeaseFrame, fun a k => (h'.regs a k).trans (h.regs a k)⟩

/-- Whatever does not touch memory, key slots, contexts and grants is in the frame. -/
theorem LeasePartsFrame.of_eq {s t : State} (hm : t.mem = s.mem) (hk : t.keys = s.keys) (hc : t.ctxs = s.ctxs)
    (hg : t.grants = s.grants) : LeasePartsFrame s t where
  mem := hm
  keys := hk
  ctx a := by rw [getCtx_congr hc]
  grants g h := hg ▸ h
  regs a k := by rw [getCtx_congr hc]

theorem leaseFrame_modCtx (s : State) (asid : Nat) (f : Ctx → Ctx)
    (hf : ∀ c, { f c with leases := [] } = { c with leases := [] }) :
    LeaseFrame s (modCtx s asid f) where
  mem := rfl
  keys := rfl
  ctx a := by
    by_cases h : asid = a
    · subst h; rw [getCtx_modCtx]; exact hf _
    · rw [getCtx_modCtx_ne s f h]
  grants _ h := h

/-- A change of a standing entry that keeps its register is in the frame. -/
theorem leasePartsFrame_modStanding (s : State) (asid k : Nat) (f : Standing → Standing) (hf : ∀ x, (f x).reg = x.reg) :
    LeasePartsFrame s (modCtx s asid (fun c => { c with leases := Tab.modify {} c.leases k f })) where
  toLeaseFrame := leaseFrame_modCtx s asid _ (fun _ => rfl)
  regs a j := by
    by_cases h : asid = a
    · subst h
      by_cases hj : k = j
      · subst hj; simp [Tab.modify, hf]
      · simp [Tab.modify, Tab.get_set_ne, hj]
    · rw [getCtx_modCtx_ne s _ h]

theorem leasePartsFrame_setParts (s : State) (asid k : Nat) (ps : List LeasePart) :
    LeasePartsFrame s (setHolderParts s (.standing asid k) ps) :=
  leasePartsFrame_modStanding s asid k _ (fun _ => rfl)

theorem leasePartsFrame_endLeases (s : State) (asid k : Nat) : LeasePartsFrame s (endLeases s (.standing asid k)) := by
  obtain ⟨w, n, r, e⟩ := endLeases_eq s (.standing asid k)
  rw [e]
  refine LeasePartsFrame.trans _ _ _ ?_ (leasePartsFrame_setParts _ asid k [])
  exact ⟨⟨rfl, rfl, fun _ => rfl, fun _ h => (List.mem_filter.mp h).1⟩, fun _ _ => rfl⟩

theorem holder_ne_of_mem_endLeases {s : State} {asid k : Nat} {g : Grant}
    (h : g ∈ (endLeases s (.standing asid k)).grants) : g.holder ≠ .standing asid k := by
  have h' : g ∈ s.grants.filter (fun g => g.holder != .standing asid k) := h
  simpa using (List.mem_filter.mp h').2

theorem leasePartsFrame_sendReq (s : State) (src dst : Nat) (cls : Cls) (asid v id : Nat) (m : Msg) :
    LeasePartsFrame s (sendReq s src dst cls asid v id m) := by
  obtain ⟨n, r, e⟩ := sendReq_eq s src dst cls asid v id m
  rw [e]
  exact .of_eq rfl rfl rfl rfl

theorem leasePartsFrame_sendLeaseReqs (s : State) (asid k : Nat) : LeasePartsFrame s (sendLeaseReqs s (.standing asid k)) := by
  refine foldl_related LeasePartsFrame LeasePartsFrame.rfl LeasePartsFrame.trans _ (fun t x => ?_) _ _
  dsimp only
  split
  · exact LeasePartsFrame.trans _ _ _ (LeasePartsFrame.trans t (freshReq t).1 _ (.of_eq rfl rfl rfl rfl)
      (leasePartsFrame_setParts _ asid k _)) (leasePartsFrame_sendReq _ _ _ _ _ _ _ _)
  · exact LeasePartsFrame.rfl t

theorem leasePartsFrame_routeFault (s : State) (origin sub xkind asid v agent : Nat) (task : Word) (who : AnsFor) :
    LeasePartsFrame s (routeFault s origin sub xkind asid v agent task who).1 := by
  obtain ⟨n, f, e⟩ := routeFault_eq s origin sub xkind asid v agent task who
  rw [e]
  exact .of_eq rfl rfl rfl rfl

theorem leasePartsFrame_leaseFaulted (s : State) (asid k : Nat) (kind : LKind) (xkind v : Nat) :
    LeasePartsFrame s (leaseFaulted s (.standing asid k) kind xkind v) :=
  LeasePartsFrame.trans _ _ _ (leasePartsFrame_endLeases s asid k)
    (LeasePartsFrame.trans _ _ _ (leasePartsFrame_routeFault _ _ _ _ _ _ _ _ _)
      (leasePartsFrame_modStanding _ asid k _ (fun _ => rfl)))

theorem leasePartsFrame_requestRanges (s : State) (asid k asid0 : Nat) (rs : List (Nat × Nat × LKind)) :
    LeasePartsFrame s (requestRanges s (.standing asid k) asid0 rs) := by
  simp only [requestRanges]
  split
  · exact leasePartsFrame_leaseFaulted _ _ _ _ _ _
  · exact LeasePartsFrame.trans _ _ _ (leasePartsFrame_setParts s asid k _) (leasePartsFrame_sendLeaseReqs _ asid k)

/-! ## A write of CTX_LEASE (R112) -/

/-- The entry after its old lease has ended and its register has been written, before its range is requested. -/
def standingWritten (s : State) (asid k : Nat) (x : DWord) : State :=
  let s1 := endLeases s (.standing asid k)
  modCtx { s1 with flt := { s1.flt with awaiting := s1.flt.awaiting.filter (fun a => a.2 != .standing asid k) } } asid
    (fun c => { c with leases := Tab.set {} c.leases k { reg := standingStore x } })

theorem leasePartsFrame_writeStanding (s : State) (asid k : Nat) (x : DWord) :
    LeasePartsFrame (standingWritten s asid k x) (writeStanding s asid k x) := by
  simp only [writeStanding]
  split
  · exact LeasePartsFrame.rfl _
  · exact leasePartsFrame_requestRanges _ asid k asid _

theorem leaseFrame_standingWritten (s : State) (asid k : Nat) (x : DWord) : LeaseFrame s (standingWritten s asid k x) := by
  refine LeaseFrame.trans _ _ _ ?_
    (leaseFrame_modCtx _ asid (fun c => { c with leases := Tab.set {} c.leases k { reg := standingStore x } }) (fun _ => rfl))
  obtain ⟨hmem, hkeys, hctx, hgrants⟩ := (leasePartsFrame_endLeases s asid k).toLeaseFrame
  exact ⟨hmem, hkeys, hctx, hgrants⟩

theorem leaseFrame_writeStanding (s : State) (asid k : Nat) (x : DWord) : LeaseFrame s (writeStanding s asid k x) :=
  LeaseFrame.trans _ _ _ (leaseFrame_standingWritten s asid k x) (leasePartsFrame_writeStanding s asid k x).toLeaseFrame

theorem writeStanding_reg (s : State) (asid k : Nat) (x : DWord) :
    (Tab.get {} (getCtx (writeStanding s asid k x) asid).leases k).reg = standingStore x := by
  rw [(leasePartsFrame_writeStanding s asid k x).regs]
  simp [standingWritten]

/-- The old lease of the entry has gone, and no new one can be granted within the write. -/
theorem holder_ne_of_mem_writeStanding {s : State} {asid k : Nat} {x : DWord} {g : Grant}
    (h : g ∈ (writeStanding s asid k x).grants) : g.holder ≠ .standing asid k :=
  holder_ne_of_mem_endLeases ((leasePartsFrame_writeStanding s asid k x).grants g h)

theorem ctxLeaseWrite_stored {s : State} {asid k : Nat} (x : DWord) (hc : ctxThere s asid = true) (hk : k < 16) :
    ∃ t, exec (.ctxLeaseWrite asid k x) s = .next t ∧ (Tab.get {} (getCtx t asid).leases k).reg = standingStore x ∧
      (∀ g ∈ t.grants, g.holder ≠ .standing asid k) ∧ t.mem = s.mem := by
  refine ⟨writeStanding s asid k x, ?_, writeStanding_reg s asid k x, fun g => holder_ne_of_mem_writeStanding,
    (leaseFrame_writeStanding s asid k x).mem⟩
  change execCtxLeaseWrite asid k x s = _
  simp [execCtxLeaseWrite, onCtx, hc, hk]

/-! ## A write of CTX_TTYPE (R164, R205) -/

theorem ctxTtypeWrite_dropped {s : State} {asid : Nat} (x : DWord) (hc : ctxThere s asid = true) :
    ∃ t, exec (.ctxTtypeWrite asid x) s = .next t ∧ (getCtx t asid).ttype = x &&& 0x003FFFFFFFC00001#64 ∧
      (getCtx t asid).ttCache = [] ∧ (∀ e ∈ t.icache, lineAsid (e.1 % 2 ^ 61) ≠ asid) ∧
      ∀ e ∈ s.icache, lineAsid (e.1 % 2 ^ 61) ≠ asid → e ∈ t.icache := by
  refine ⟨writeTtype s asid x, ?_, by rw [writeTtype, getCtx_modCtx], by rw [writeTtype, getCtx_modCtx], fun e he => ?_,
    fun e he hn => ?_⟩
  · change execCtxTtypeWrite asid x s = _
    simp [execCtxTtypeWrite, onCtx, hc]
  · have he' : e ∈ s.icache.filter (fun e => lineAsid (e.1 % 2 ^ 61) != asid) := he
    simpa using (List.mem_filter.mp he').2
  · exact List.mem_filter.mpr ⟨he, by simpa using hn⟩

/-! ## CREATE (R134-R136) -/

/-- The key slot of a new context: the one of the context that it joins, or the lowest free one (R138). -/
def createdSlot (s : State) (func : Nat) (join : Bool) : Nat :=
  if join then (getCtx s (getFunc s func).ctxJoin.toNat).slot else (freeSlot s).getD 0

/-- The context of a descriptor, with its key slot, before its standing leases are requested. -/
def contextPlaced (s : State) (func asid : Nat) (join : Bool) (d : List Byte) : State :=
  setCtx (if join then s else modKey s (createdSlot s func join) (fun k => { alloc := true, gen := k.gen + 1 })) asid
    (descCtx d func (createdSlot s func join))

/-- The standing leases of a descriptor, requested. -/
def leasesPlaced (s : State) (asid : Nat) (d : List Byte) : State :=
  (List.range 16).foldl (fun t k =>
    let x := BitVec.ofNat 64 (fieldAt d (0x800 + 8 * k) 8)
    if x = 0 then t else writeStanding t asid k x) s

theorem createContext_eq (s : State) (func asid : Nat) (join : Bool) (d : List Byte) :
    createContext s func asid join d = modFunc (leasesPlaced (contextPlaced s func asid join d) asid d) func
      (fun f => { f with ctxErr := 0, ctxSlot := createdSlot s func join }) := rfl

theorem leaseFrame_leasesPlaced (s : State) (asid : Nat) (d : List Byte) : LeaseFrame s (leasesPlaced s asid d) := by
  refine foldl_related LeaseFrame LeaseFrame.rfl LeaseFrame.trans _ (fun t k => ?_) _ _
  dsimp only
  split
  · exact LeaseFrame.rfl t
  · exact leaseFrame_writeStanding t asid k _

/-- But for its leases a new context is what its descriptor says. -/
theorem getCtx_createContext (s : State) (func asid : Nat) (join : Bool) (d : List Byte) :
    { getCtx (createContext s func asid join d) asid with leases := [] } = descCtx d func (createdSlot s func join) := by
  rw [createContext_eq, getCtx_modFunc_other, (leaseFrame_leasesPlaced _ asid d).ctx, contextPlaced, getCtx_setCtx]
  rfl

/-- What hub firmware and the registers show of a new context (R135). -/
theorem createContext_fields (s : State) (func asid : Nat) (join : Bool) (d : List Byte) :
    let c := getCtx (createContext s func asid join d) asid
    let e := descCtx d func (createdSlot s func join)
    c.live = true ∧ c.func = func ∧ c.slot = createdSlot s func join ∧ c.home = e.home ∧ c.ptbase = e.ptbase ∧
      c.rset = e.rset :=
  have h := getCtx_createContext s func asid join d
  ⟨congrArg Ctx.live h, congrArg Ctx.func h, congrArg Ctx.slot h, (congrArg Ctx.home h :), (congrArg Ctx.ptbase h :),
    (congrArg Ctx.rset h :)⟩

theorem getFunc_createContext (s : State) (func asid : Nat) (join : Bool) (d : List Byte) :
    (getFunc (createContext s func asid join d) func).ctxErr = 0 ∧
      (getFunc (createContext s func asid join d) func).ctxSlot = createdSlot s func join := by
  rw [createContext_eq, getFunc_modFunc]
  exact ⟨rfl, rfl⟩

theorem getKey_createContext (s : State) (func asid : Nat) (d : List Byte) :
    getKey (createContext s func asid false d) (createdSlot s func false) =
      { alloc := true, gen := (getKey s (createdSlot s func false)).gen + 1 } := by
  rw [createContext_eq, getKey_modFunc_other, getKey, (leaseFrame_leasesPlaced _ asid d).keys]
  exact getKey_modKey s (createdSlot s func false) (fun k => { alloc := true, gen := k.gen + 1 })

/-- The ERR of a command CREATE (R136). -/
def createErrOf (s : State) (func : Nat) (cmd : Word) : Nat :=
  createErr s func (bitsOf cmd.toNat 0 14) (cmd.getLsbD 27) (hostRead s (getFunc s func).ctxDesc.toNat 4096)

theorem ctxCreate_refused {s : State} {func : Nat} {cmd : Word} (hr : s.mods.ready = true) (he : createErrOf s func cmd ≠ 0) :
    exec (.ctxCreate func cmd) s = .next (modFunc s func (fun f => { f with ctxErr := createErrOf s func cmd })) := by
  change execCtxCreate func cmd s = _
  unfold createErrOf at he ⊢
  simp only [execCtxCreate, hr, Bool.not_true, Bool.false_eq_true, if_false, if_pos he]

theorem ctxCreate_created {s : State} {func : Nat} {cmd : Word} (hr : s.mods.ready = true) (he : createErrOf s func cmd = 0) :
    exec (.ctxCreate func cmd) s = .next (createContext s func (bitsOf cmd.toNat 0 14) (cmd.getLsbD 27)
      (hostRead s (getFunc s func).ctxDesc.toNat 4096)) := by
  change execCtxCreate func cmd s = _
  unfold createErrOf at he
  simp only [execCtxCreate, hr, Bool.not_true, Bool.false_eq_true, if_false, he, ne_eq, not_true]

/-! ## DESTROY (R137) -/

/-- The destruction of a key slot changes neither contexts nor functions. -/
theorem startKeyDestroy_keeps (s : State) (slot agent : Nat) :
    ((startKeyDestroy s slot agent).ctxs, (startKeyDestroy s slot agent).funcs) = (s.ctxs, s.funcs) := by
  simp only [startKeyDestroy]
  split
  · rfl
  · refine foldl_keeps (fun t : State => (t.ctxs, t.funcs)) _ (fun t n => ?_) _ _
    obtain ⟨m, e⟩ := send_eq t (roleHub t) n .ctl 0 (.keyDestroy slot (getKey s slot).gen agent)
    rw [e]

/-- The context has ended, and its function is busy. -/
def contextEnded (s : State) (func asid : Nat) : State :=
  modFunc (endContext s asid) func (fun f => { f with ctxErr := 0, ctxBusy := true, ctxAsid := asid })

theorem getCtx_contextEnded (s : State) (func asid : Nat) : ∃ c : Ctx, getCtx (contextEnded s func asid) asid =
    { c with live := false, awaitsAtinv := true, leases := [], ttCache := [], sched := .halted } :=
  ⟨_, by rw [contextEnded, getCtx_modFunc_other]; exact getCtx_modCtx _ asid _⟩

theorem getFunc_contextEnded (s : State) (func asid : Nat) : ∃ f : Func, getFunc (contextEnded s func asid) func =
    { f with ctxErr := 0, ctxBusy := true, ctxAsid := asid } :=
  ⟨_, getFunc_modFunc _ func _⟩

theorem ctxDestroy_busy {s : State} {func : Nat} {cmd : Word} (hb : (getFunc s func).ctxBusy = true) :
    exec (.ctxDestroy func cmd) s = .next (modFunc s func (fun f => { f with ctxErr := 1 })) := by
  change execCtxDestroy func cmd s = _
  simp only [execCtxDestroy, hb, if_true]

theorem ctxDestroy_refused {s : State} {func : Nat} {cmd : Word} (hb : (getFunc s func).ctxBusy = false)
    (h : bitsOf cmd.toNat 0 14 = 0 ∨ (getCtx s (bitsOf cmd.toNat 0 14)).live = false ∨
      (getCtx s (bitsOf cmd.toNat 0 14)).func ≠ func) :
    exec (.ctxDestroy func cmd) s = .next (modFunc s func (fun f => { f with ctxErr := 3 })) := by
  change execCtxDestroy func cmd s = _
  have h' : bitsOf cmd.toNat 0 14 = 0 ∨ (!(getCtx s (bitsOf cmd.toNat 0 14)).live) = true ∨
      (getCtx s (bitsOf cmd.toNat 0 14)).func ≠ func := by simpa using h
  simp only [execCtxDestroy, hb, Bool.false_eq_true, if_false, if_pos h']

theorem ctxDestroy_ended {s : State} {func : Nat} {cmd : Word} (hb : (getFunc s func).ctxBusy = false)
    (h0 : bitsOf cmd.toNat 0 14 ≠ 0) (hl : (getCtx s (bitsOf cmd.toNat 0 14)).live = true)
    (hf : (getCtx s (bitsOf cmd.toNat 0 14)).func = func) :
    ∃ t, exec (.ctxDestroy func cmd) s = .next t ∧ t.ctxs = (contextEnded s func (bitsOf cmd.toNat 0 14)).ctxs ∧
      t.funcs = (contextEnded s func (bitsOf cmd.toNat 0 14)).funcs := by
  have hno : ¬ (bitsOf cmd.toNat 0 14 = 0 ∨ (!(getCtx s (bitsOf cmd.toNat 0 14)).live) = true ∨
      (getCtx s (bitsOf cmd.toNat 0 14)).func ≠ func) := by simp [h0, hl, hf]
  have he : exec (.ctxDestroy func cmd) s = .next
      (if (getCtx s (bitsOf cmd.toNat 0 14)).slot ≠ 0 ∧
        (boundTo (contextEnded s func (bitsOf cmd.toNat 0 14)) (getCtx s (bitsOf cmd.toNat 0 14)).slot).isEmpty
      then startKeyDestroy (contextEnded s func (bitsOf cmd.toNat 0 14)) (getCtx s (bitsOf cmd.toNat 0 14)).slot 0
      else contextEnded s func (bitsOf cmd.toNat 0 14)) := by
    change execCtxDestroy func cmd s = _
    unfold contextEnded
    simp only [execCtxDestroy, hb, Bool.false_eq_true, if_false, if_neg hno]
  refine ⟨_, he, ?_⟩
  split
  · exact Prod.mk.inj (startKeyDestroy_keeps _ _ _)
  · exact ⟨rfl, rfl⟩

/-! ## Key destruction (R140) -/

/-- The slot of a line is a matter of the page tables, not of the messages under way. -/
theorem paReadN_takeMsg (s : State) (i slot a n : Nat) : paReadN (takeMsg s i) slot a n = paReadN s slot a n := by
  induction n generalizing a with
  | zero => rfl
  | succ n ih => exact congrArg (paRead s slot a :: ·) (ih _)

theorem walkFrom_takeMsg (s : State) (i node asid v key fuel lvl t : Nat) (l : List (Nat × Nat)) :
    walkFrom (takeMsg s i) node asid v key fuel lvl t l = walkFrom s node asid v key fuel lvl t l := by
  induction fuel generalizing lvl t l with
  | zero => rfl
  | succ fuel ih =>
    simp only [walkFrom, ih, paRead64, paReadN_takeMsg]
    rfl

theorem xlatePeek_takeMsg (s : State) (i node asid v : Nat) (acc : Acc) (sup : Bool) :
    xlatePeek (takeMsg s i) node asid v acc sup = xlatePeek s node asid v acc sup := by
  have hw : walkPage (takeMsg s i) node asid v = walkPage s node asid v := by
    simp only [walkPage, walkFrom_takeMsg]
    rfl
  have ht : tlbFind (takeMsg s i) node asid v = tlbFind s node asid v := rfl
  have hl : ∀ e lvl, leafCheck (takeMsg s i) asid v acc sup e lvl = leafCheck s asid v acc sup e lvl := fun _ _ => rfl
  simp only [xlatePeek, xlate, ht, hw, hl]
  cases tlbFind s node asid v with
  | some x => rfl
  | none =>
    cases (walkPage s node asid v).1 with
    | error k => rfl
    | ok e =>
      dsimp only
      cases leafCheck s asid v acc sup e.1 e.2 <;> rfl

theorem lineSlot_takeMsg (s : State) (i k : Nat) : lineSlot (takeMsg s i) k = lineSlot s k := by
  simp only [lineSlot, xlatePeek_takeMsg]
  rfl

/-- A node that clears a slot's keys has dropped the lines of its LLC that are tagged with it; memory keeps what they held. -/
theorem clearKeyAt_keeps (s : State) (n slot : Nat) : ((clearKeyAt s n slot).llc, (clearKeyAt s n slot).mem) =
    (s.llc.filter (fun e => !(e.1 / 2 ^ 61 == n && lineSlot s (e.1 % 2 ^ 61) == some slot)), s.mem) := by
  simp only [clearKeyAt]
  refine (foldl_keeps (fun t : State => (t.llc, t.mem)) _ (fun t w => ?_) _ _).trans
    (foldl_keeps (fun t : State => (t.llc, t.mem)) _ (fun t e => ?_) _ _)
  · rfl
  · refine foldl_keeps (fun t : State => (t.llc, t.mem)) _ (fun u w => ?_) _ _
    split
    · rfl
    · rfl

theorem serveKeyDestroy_cleared {s : State} {n slot gen a : Nat} {p : Pkt} (hs : servable s n = some p)
    (hm : p.msg = .keyDestroy slot gen a) (hg : (getKey s slot).gen = gen) :
    serveKeyDestroy s n = modKey (clearKeyAt (takeMsg s n) p.dst slot) slot (fun k =>
      { k with destroying := k.destroying.map (fun l => l.filter (fun d => d != p.dst)), cleared := k.cleared ++ [p.dst] }) := by
  have hg' : (getKey (takeMsg s n) slot).gen = gen := hg
  simp [serveKeyDestroy, hs, hm, hg']

theorem keyDestruction_cleared {s : State} {n slot gen a : Nat} {p : Pkt} (hs : servable s n = some p)
    (hm : p.msg = .keyDestroy slot gen a) (hg : (getKey s slot).gen = gen) :
    ∃ t, exec (.keyDestruction n) s = .next t ∧ p.dst ∈ (getKey t slot).cleared ∧
      (∀ l, (getKey t slot).destroying = some l → p.dst ∉ l) ∧
      (∀ e ∈ t.llc, e.1 / 2 ^ 61 = p.dst → lineSlot s (e.1 % 2 ^ 61) ≠ some slot) ∧ t.mem = s.mem := by
  obtain ⟨hllc, hmem⟩ := Prod.mk.inj (clearKeyAt_keeps (takeMsg s n) p.dst slot)
  refine ⟨_, congrArg Host.Outcome.next (serveKeyDestroy_cleared hs hm hg), ?_, ?_, ?_, hmem⟩
  · rw [getKey_modKey]
    exact List.mem_append_right _ List.mem_cons_self
  · intro l hl
    rw [getKey_modKey] at hl
    obtain ⟨l', -, rfl⟩ := Option.map_eq_some_iff.mp hl
    simp
  · intro e he hd
    rw [modKey_llc, hllc] at he
    obtain ⟨-, hout⟩ := List.mem_filter.mp he
    rw [hd, lineSlot_takeMsg] at hout
    simpa using hout

/-! ## The obligation -/

/-- Settles O45: CREATE through the context that a descriptor gives, DESTROY through the context that has ended, and the
node and the registers of the other clauses. -/
theorem contextEvents : Obligations.ContextEvents := by
  intro s
  refine ⟨fun func cmd hr => ⟨fun he => ctxCreate_refused hr he, fun he => ?_⟩,
    fun func cmd => ⟨fun hb => ctxDestroy_busy hb, fun hb h => ctxDestroy_refused hb h, fun hb h0 hl hf => ?_⟩,
    fun n p slot gen a hs hm hg => keyDestruction_cleared hs hm hg,
    fun asid k x hc hk => ctxLeaseWrite_stored x hc hk, fun asid x hc => ctxTtypeWrite_dropped x hc⟩
  · obtain ⟨hlive, hfunc, hslot, hhome, hpt, hset⟩ := createContext_fields s func (bitsOf cmd.toNat 0 14) (cmd.getLsbD 27)
      (hostRead s (getFunc s func).ctxDesc.toNat 4096)
    obtain ⟨herr, hfslot⟩ := getFunc_createContext s func (bitsOf cmd.toNat 0 14) (cmd.getLsbD 27)
      (hostRead s (getFunc s func).ctxDesc.toNat 4096)
    refine ⟨_, ctxCreate_created hr he, hlive, hfunc, hslot, hhome, hpt, hset, herr, hfslot, fun hj => ?_⟩
    have hkey := getKey_createContext s func (bitsOf cmd.toNat 0 14) (hostRead s (getFunc s func).ctxDesc.toNat 4096)
    rw [hj]
    exact ⟨congrArg KeySlot.alloc hkey, congrArg KeySlot.gen hkey⟩
  · obtain ⟨t, ht, hctxs, hfuncs⟩ := ctxDestroy_ended hb h0 hl hf
    obtain ⟨c, hc⟩ := getCtx_contextEnded s func (bitsOf cmd.toNat 0 14)
    obtain ⟨f, hfu⟩ := getFunc_contextEnded s func (bitsOf cmd.toNat 0 14)
    refine ⟨t, ht, ?_⟩
    rw [getCtx_congr hctxs, hc, getFunc_congr hfuncs, hfu]
    exact ⟨rfl, rfl, rfl, rfl, rfl, rfl⟩

end Sys2Proof.Machine.Translation
end

section
/-! Memory under key slots (`Obligations.MemoryReadWrite`; R139, R144): which cell an address has, what a line reads as once it
has been tagged for a write, and from that a byte after a write. -/

namespace Sys2Proof.Machine.KeyedMemory

open Translation

/-! ## Cells (R18, R123) -/

/-- Encrypted memory is the module's own, and stands at its address whichever hub serves the host. -/
theorem paCell_of_encrypted {s : State} {c : Nat} (h : paEncrypted (paCell s c) = true) : paCell s c = c := by
  unfold paCell at h ⊢
  split
  · rename_i hc
    rw [if_pos hc] at h
    obtain ⟨-, hn, -⟩ := hc
    have hn' := of_decide_eq_true h
    simp only [paNode, otherHost] at hn hn'
    omega
  · rfl

theorem paCell_eq_of_encrypted (s : State) {c : Nat} (h : paEncrypted c = true) : paCell s c = c := by
  refine if_neg fun ⟨_, hn, _⟩ => ?_
  simp only [paEncrypted, decide_eq_true_eq] at h
  omega

theorem paCell_inj {s : State} {a c : Nat} (ha : a < otherHost) (hc : c < otherHost) (h : paCell s c = paCell s a) : c = a := by
  unfold paCell at h
  split at h <;> split at h <;> omega

/-! ## A line tagged for a write (R139) -/

/-- Whether a slot has a line's key is one answer for the whole line. -/
theorem keyMatches_of_line {s : State} {slot a c : Nat} (h : c / 128 = a / 128) :
    keyMatches s slot c = keyMatches s slot a := by
  rw [keyMatches, keyMatches, paEncrypted_of_line h, memTag, memTag, h]

theorem paRekey_of_plain {s : State} {slot a : Nat} (h : paEncrypted a = false) : paRekey s slot a = s := by
  simp [paRekey, h]

theorem memKey_paRekey {s : State} {slot a : Nat} (h : paEncrypted a = true) :
    (paRekey s slot a).memKey = Tab.put s.memKey (a / 128) (slotTag s slot) := by
  simp only [paRekey, h, Bool.not_true, Bool.false_eq_true, if_false]
  split <;> rfl

/-- Tagging a line for a write changes memory and its tags alone. -/
theorem paRekey_eq (s : State) (slot a : Nat) : ∃ m k, paRekey s slot a = { s with mem := m, memKey := k } := by
  unfold paRekey
  split
  · exact ⟨_, _, rfl⟩
  · dsimp only
    split
    · exact ⟨_, _, rfl⟩
    · exact ⟨_, _, rfl⟩

theorem paCell_paRekey (s : State) (slot a c : Nat) : paCell (paRekey s slot a) c = paCell s c := by
  obtain ⟨m, k, e⟩ := paRekey_eq s slot a
  rw [e]
  rfl

/-- A tagged line has the key of the slot that tagged it, and of each other slot with that tag. -/
theorem keyMatches_paRekey_line {s : State} {slot a c : Nat} (other : Nat) (ha : paEncrypted a = true) (hl : c / 128 = a / 128) :
    keyMatches (paRekey s slot a) other c = (slotTag s slot == slotTag s other) := by
  obtain ⟨m, k, e⟩ := paRekey_eq s slot a
  have hkeys : slotTag (paRekey s slot a) other = slotTag s other := by rw [e]; rfl
  simp [keyMatches, paEncrypted_of_line hl, ha, memTag, memKey_paRekey ha, hl, hkeys]

theorem keyMatches_paRekey_ne {s : State} {slot a c : Nat} (other : Nat) (ha : paEncrypted a = true) (hl : c / 128 ≠ a / 128) :
    keyMatches (paRekey s slot a) other c = keyMatches s other c := by
  obtain ⟨m, k, e⟩ := paRekey_eq s slot a
  refine keyMatches_congr ?_ (by rw [e])
  rw [memTag, memKey_paRekey ha, Tab.find_put_ne _ _ (Ne.symm hl), memTag]

theorem keyMatches_paRekey_same (s : State) (slot a : Nat) : keyMatches (paRekey s slot a) slot a = true := by
  cases ha : paEncrypted a with
  | false => simp [keyMatches, ha]
  | true => simp [keyMatches_paRekey_line slot ha rfl]

theorem mem_line_iff (a c : Nat) : c ∈ (List.range 128).map (a / 128 * 128 + ·) ↔ c / 128 = a / 128 := by
  simp only [List.mem_map, List.mem_range]
  constructor
  · rintro ⟨i, hi, rfl⟩
    omega
  · intro h
    exact ⟨c % 128, by omega, by omega⟩

/-- The cells after a line has been tagged: those of a line that had another key hold what it decrypts to. -/
theorem read_paRekey {s : State} {slot a : Nat} (c : Nat) (ha : paEncrypted a = true) :
    Memory.read (paRekey s slot a).mem c =
      if c / 128 = a / 128 ∧ keyMatches s slot a = false then Config.wrongKeyByte s.free c else Memory.read s.mem c := by
  cases hk : keyMatches s slot a with
  | true => simp [paRekey, ha, hk]
  | false =>
    simp only [paRekey, ha, hk, Bool.not_true, Bool.false_eq_true, if_false, and_true,
      Memory.read_foldl (a / 128 * 128) (Config.wrongKeyByte s.free), mem_line_iff]

/-- Under the slot that tags a line, every byte of memory reads as before. -/
theorem paRead_paRekey (s : State) (slot a c : Nat) : paRead (paRekey s slot a) slot c = paRead s slot c := by
  cases ha : paEncrypted a with
  | false => rw [paRekey_of_plain ha]
  | true =>
    by_cases hl : c / 128 = a / 128
    · have hcell := paCell_eq_of_encrypted s ((paEncrypted_of_line hl).trans ha)
      rw [paRead, paRead, keyMatches_paRekey_line slot ha hl, paCell_paRekey, hcell, read_paRekey c ha, keyMatches_of_line hl]
      cases keyMatches s slot a <;> simp [hl]
    · have hcell : paCell s c / 128 ≠ a / 128 := fun e =>
        hl (paCell_of_encrypted ((paEncrypted_of_line e).trans ha) ▸ e)
      obtain ⟨m, k, e⟩ := paRekey_eq s slot a
      have hfree : (paRekey s slot a).free = s.free := by rw [e]
      rw [paRead, paRead, keyMatches_paRekey_ne slot ha hl, paCell_paRekey, read_paRekey _ ha,
        if_neg (c := _ ∧ _) fun h => hcell h.1, hfree]

/-! ## A byte after a write (R139) -/

theorem keyMatches_paWrite (s : State) (slot a : Nat) (b : Byte) (other c : Nat) :
    keyMatches (paWrite s slot a b) other c = keyMatches (paRekey s slot a) other c := rfl

theorem paRead_paWrite_same (s : State) (slot a : Nat) (b : Byte) : paRead (paWrite s slot a b) slot a = b := by
  rw [paRead, keyMatches_paWrite, if_pos (keyMatches_paRekey_same s slot a)]
  exact Memory.read_write_same _ _ _

theorem paRead_paWrite_ne {s : State} {slot a c : Nat} (b : Byte) (ha : a < otherHost) (hc : c < otherHost) (h : c ≠ a) :
    paRead (paWrite s slot a b) slot c = paRead s slot c := by
  have hcell : paCell (paRekey s slot a) a ≠ paCell (paRekey s slot a) c := fun e => h (paCell_inj ha hc e.symm)
  have hread : Memory.read (paWrite s slot a b).mem (paCell (paWrite s slot a b) c) =
      Memory.read (paRekey s slot a).mem (paCell (paRekey s slot a) c) :=
    (Memory.read_write _ _ _ _).trans (if_neg hcell)
  rw [← paRead_paRekey s slot a c, paRead, hread, keyMatches_paWrite]
  rfl

theorem paRead_paWrite_otherKey {s : State} {slot other a c : Nat} (b : Byte) (ha : paEncrypted a = true)
    (hl : c / 128 = a / 128) (hk : slotTag s other ≠ slotTag s slot) :
    paRead (paWrite s slot a b) other c = Config.wrongKeyByte s.free c := by
  obtain ⟨m, k, e⟩ := paWrite_eq s slot a b
  have hfree : (paWrite s slot a b).free = s.free := by rw [e]
  have hno : (slotTag s slot == slotTag s other) = false := by simpa using hk.symm
  rw [paRead, keyMatches_paWrite, keyMatches_paRekey_line other ha hl, hno, if_neg Bool.false_ne_true, hfree]

/-! ## Bytes written one after another -/

theorem paRead_paWriteN_below {s : State} {slot a c : Nat} (l : List Byte) (h : a + l.length ≤ otherHost) (hc : c < a) :
    paRead (paWriteN s slot a l) slot c = paRead s slot c := by
  induction l generalizing s a with
  | nil => rfl
  | cons b l ih =>
    rw [List.length_cons] at h
    rw [paWriteN, ih (by omega) (by omega), paRead_paWrite_ne b (by omega) (by omega) (by omega)]

theorem paReadN_paWriteN {s : State} {slot a : Nat} (l : List Byte) (h : a + l.length ≤ otherHost) :
    paReadN (paWriteN s slot a l) slot a l.length = l := by
  induction l generalizing s a with
  | nil => rfl
  | cons b l ih =>
    rw [List.length_cons] at h
    rw [List.length_cons, paReadN, paWriteN, ih (by omega), paRead_paWriteN_below l (by omega) (by omega), paRead_paWrite_same]

/-! ## The obligation -/

/-- Settles O58: tagging a line is invisible under the slot that tags it, and the byte written lands in one cell. -/
theorem memoryReadWrite : Obligations.MemoryReadWrite := fun s slot a =>
  ⟨paRead_paWrite_same s slot a, fun b _ ha hc h => paRead_paWrite_ne b ha hc h,
    fun b _ _ ha hl hk => paRead_paWrite_otherKey b ha hl hk, fun l h => paReadN_paWriteN l h⟩

end Sys2Proof.Machine.KeyedMemory
end

section
/-! Attestation, firmware images and the life cycle (`Obligations.SecurityEvents`; R127, R141-R148): what an attestation command
leaves, what the checks of an image decide, and what one that passes them does. -/

namespace Sys2Proof.Machine.Security

open Translation

/-! ## Memory and the registers of a function

Memory is read and written alike whatever the registers of the functions hold. -/

theorem paReadN_modFunc (s : State) (k : Nat) (f : Func → Func) (slot a n : Nat) :
    paReadN (modFunc s k f) slot a n = paReadN s slot a n := by
  induction n generalizing a with
  | zero => rfl
  | succ n ih => exact congrArg (paRead s slot a :: ·) (ih _)

theorem paWrite_modFunc (s : State) (k : Nat) (f : Func → Func) (slot a : Nat) (b : Byte) :
    paWrite (modFunc s k f) slot a b = modFunc (paWrite s slot a b) k f := by
  have hk : keyMatches (modFunc s k f) slot a = keyMatches s slot a := rfl
  simp only [paWrite, paRekey, hk]
  split
  · rfl
  split <;> rfl

theorem paWriteN_modFunc (s : State) (k : Nat) (f : Func → Func) (slot a : Nat) (l : List Byte) :
    paWriteN (modFunc s k f) slot a l = modFunc (paWriteN s slot a l) k f := by
  induction l generalizing s a with
  | nil => rfl
  | cons b l ih => rw [paWriteN, paWrite_modFunc, ih, paWriteN]

theorem paNode_hostAddr (a : Nat) : paNode (hostAddr a) = 63 := by
  unfold paNode hostAddr
  omega

/-- What is stored at the host's port stands in the host's memory (R18). -/
theorem mem_outsideStore_hostAddr (s : State) (a : Nat) (l : List Byte) :
    (outsideStore s (hostAddr a) l).mem = (paWriteN s 0 (hostAddr a) l).mem := by
  obtain ⟨w, e, c, x, v, h⟩ := wordsOnly_physChanged (paWriteN s 0 (hostAddr a) l) (hostAddr a) l.length
  rw [outsideStore, if_pos (.inl (paNode_hostAddr a)), h]

/-! ## Attestation (R127, R148) -/

/-- No attestation command of a function is in progress but, perhaps, command `k`. -/
def AttAlone (s : State) (func k : Nat) : Prop := (getFunc s func).attCmd.any (fun c => c != k) = false

theorem exec_attReport (s : State) (func : Nat) (ok : Bool) :
    exec (.attReport func ok) s = .next (attCommand s func 1 ok (reportBytes s func)) := rfl

theorem exec_attCert (s : State) (func : Nat) (ok : Bool) :
    exec (.attCert func ok) s = .next (attCommand s func 2 ok certBytes) := rfl

/-- The registers after a command has been taken: none is in progress. -/
def attTaken (s : State) (func : Nat) : State := modFunc s func (fun f => { f with attCmd := none })

section AttCommand

variable {s : State} {func k : Nat}

theorem attCommand_busy (ok : Bool) (l : List Byte) (hf : func < 64) (ha : ¬ AttAlone s func k) :
    (getFunc (attCommand s func k ok l) func).attErr = 1 ∧ (attCommand s func k ok l).mem = s.mem := by
  rw [attCommand, if_neg (by omega), if_pos (by simpa [AttAlone] using ha), getFunc_modFunc]
  exact ⟨rfl, rfl⟩

theorem attCommand_alone (ok : Bool) (l : List Byte) (hf : func < 64) (ha : AttAlone s func k) :
    attCommand s func k ok l = attest (attTaken s func) func ok l := by
  rw [attCommand, if_neg (by omega), if_neg (by simpa [AttAlone] using ha), attTaken]

/-- There is no attestation key any more (R144). -/
theorem attCommand_retired (ok : Bool) (l : List Byte) (hf : func < 64) (ha : AttAlone s func k)
    (hl : s.secure.lc = .retired) :
    (getFunc (attCommand s func k ok l) func).attErr = 3 ∧ (attCommand s func k ok l).mem = s.mem := by
  rw [attCommand_alone ok l hf ha, attest, if_pos (c := (attTaken s func).secure.lc = _) hl, getFunc_modFunc]
  exact ⟨rfl, rfl⟩

theorem attCommand_unwritten (l : List Byte) (hf : func < 64) (ha : AttAlone s func k) (hl : s.secure.lc ≠ .retired) :
    (getFunc (attCommand s func k false l) func).attErr = 2 ∧ (attCommand s func k false l).mem = s.mem := by
  rw [attCommand_alone false l hf ha, attest, if_neg (c := (attTaken s func).secure.lc = _) hl,
    if_pos (c := (!false) = true) rfl, getFunc_modFunc]
  exact ⟨rfl, rfl⟩

theorem attCommand_written (l : List Byte) (hf : func < 64) (ha : AttAlone s func k) (hl : s.secure.lc ≠ .retired) :
    (getFunc (attCommand s func k true l) func).attErr = 0 ∧
    (getFunc (attCommand s func k true l) func).attLen = l.length % 2 ^ 16 ∧
    (attCommand s func k true l).mem = (paWriteN s 0 (hostAddr (getFunc s func).attAddr.toNat) l).mem := by
  rw [attCommand_alone true l hf ha, attest, if_neg (c := (attTaken s func).secure.lc = _) hl,
    if_neg (c := (!true) = true) Bool.false_ne_true, getFunc_modFunc, modFunc_mem,
    mem_outsideStore_hostAddr, attTaken, getFunc_modFunc, paWriteN_modFunc, modFunc_mem]
  exact ⟨rfl, rfl, rfl⟩

end AttCommand

/-! ## The bytes of a report (R148) -/

theorem length_bytesOfNat (n x : Nat) : (bytesOfNat n x).length = n := by
  induction n generalizing x with
  | zero => rfl
  | succ n ih => rw [bytesOfNat, List.length_cons, ih]

theorem length_bytesOf {w : Nat} (n : Nat) (x : BitVec w) : (bytesOf n x).length = n := length_bytesOfNat n _

/-- The fields of a report, which zeros follow up to its signature. -/
def reportFields (s : State) (func : Nat) : List Byte :=
  bytesOfNat 8 (identity s.secure) ++ bytesOfNat 8 (lcCode s.secure.lc + s.secure.counter * 2 ^ 8)
    ++ bytesOf 64 (getFunc s func).attNonce
    ++ bytesOf 64 (runningImg s 1).digest ++ bytesOf 64 (runningImg s 2).digest ++ bytesOf 64 (runningImg s 3).digest
    ++ bytesOfNat 8 (diesPresent s)

theorem length_reportFields (s : State) (func : Nat) : (reportFields s func).length = 280 := by
  simp only [reportFields, List.length_append, length_bytesOfNat, length_bytesOf]

theorem reportBytes_eq (s : State) (func : Nat) : reportBytes s func = reportFields s func ++
    (List.replicate 232 0 ++ (List.range 512).map (Config.attSignature s.free)) := by
  have hl := length_reportFields s func
  have hb : reportBody s func = padTo 512 (reportFields s func) := rfl
  rw [reportBytes, hb, padTo, List.take_of_length_le (by omega), hl, List.append_assoc]

theorem length_reportBytes (s : State) (func : Nat) : (reportBytes s func).length = 1024 := by
  simp only [reportBytes_eq, List.length_append, length_reportFields, List.length_replicate, List.length_map, List.length_range]

theorem take_reportBytes (s : State) (func : Nat) :
    (reportBytes s func).take (reportFields s func).length = reportFields s func := by
  rw [reportBytes_eq, List.take_left]

theorem byteAt_reportBytes {s : State} {func i : Nat} (h : (reportFields s func).length ≤ i) (hi : i < 512) :
    byteAt (reportBytes s func) i = 0 := by
  have hl := length_reportFields s func
  rw [byteAt, reportBytes_eq, List.getD_eq_getElem?_getD, List.getElem?_append_right h,
    List.getElem?_append_left (by rw [List.length_replicate]; omega), List.getElem?_replicate, if_pos (by omega)]
  rfl

/-! ## Image commands (R127, R142) -/

/-- No image command is in progress but, perhaps, command `k`. -/
def ImgAlone (s : State) (k : Nat) : Prop := (getFunc s 0).imgCmd.any (fun c => c != k) = false

/-- `t` shows the code of a command that `s` refuses, and nothing else of the security processor or the module has changed. -/
def Refused (s t : State) (c : Nat) : Prop :=
  (getFunc t 0).imgErr = c ∧ t.secure.pendErr = c ∧ t.secure = { s.secure with pendErr := c } ∧ t.mods = s.mods

/-- What every image command does once it acts: the code of the first check that fails, or what the command is for. -/
def checkedImage (code : Secure → ImgFile → Nat) (perform : Nat → State → ImgFile → State) (ok : Bool) (s : State) : State :=
  let c := if ok then code s.secure (hostImage s) else 0x0D
  if c ≠ 0 then imgResult s c else perform s.time (imgResult s c) (hostImage s)

/-- An image that is staged, at package time `now`. -/
def stageImage (now : Nat) (s : State) (f : ImgFile) : State :=
  { s with secure := { s.secure with staged := Tab.put s.secure.staged (imgType f) (imgOf f now) } }

/-- A hub image that is run at once, which ends recovery (R147). -/
def recoverImage (now : Nat) (s : State) (f : ImgFile) : State :=
  { s with secure := { s.secure with running := Tab.put s.secure.running 1 (imgOf f now), recovery := none } }

theorem exec_imgStage (s : State) (ok : Bool) : exec (.imgStage ok) s =
    imgCommand s 1 (checkedImage (fun x f => firmwareCode x f [1, 2, 3]) stageImage ok) := rfl

theorem exec_imgLifecycle (s : State) (ok : Bool) : exec (.imgLifecycle ok) s =
    imgCommand s 2 (checkedImage lcCodeOf (fun _ => lcPerform) ok) := rfl

theorem exec_imgRecover {s : State} (ok : Bool) (h : s.secure.recovery.isSome = true) : exec (.imgRecover ok) s =
    imgCommand s 3 (checkedImage (fun x f => firmwareCode x f [1]) recoverImage ok) :=
  if_neg (by simpa using Option.isSome_iff_ne_none.mp h)

theorem exec_imgRecover_of_none {s : State} (ok : Bool) (h : s.secure.recovery = none) : exec (.imgRecover ok) s = .next s :=
  if_pos (by rw [h]; rfl)

theorem refused_imgResult (s : State) {c : Nat} (h : c ≠ 0) : Refused s (imgResult s c) c := by
  rw [imgResult, if_neg h]
  refine ⟨?_, rfl, rfl, rfl⟩
  exact congrArg Func.imgErr (getFunc_modFunc s 0 (fun f => { f with imgErr := c }))

/-- The command in progress is another: it goes on, and this one is refused with code 0x0F. -/
theorem imgCommand_busy {s : State} {i : Instr} {k : Nat} {act : State → State} (he : exec i s = imgCommand s k act)
    (ha : ¬ ImgAlone s k) : ∃ t, exec i s = .next t ∧ Refused s t 0x0F := by
  refine ⟨_, ?_, refused_imgResult s (by decide)⟩
  rw [he, imgCommand, if_pos (by simpa [ImgAlone] using ha)]

/-- The registers after a command has been taken: none is in progress. -/
def imgTaken (s : State) : State := modFunc s 0 (fun f => { f with imgCmd := none })

theorem imgCommand_alone {s : State} {k : Nat} (act : State → State) (ha : ImgAlone s k) :
    imgCommand s k act = .next (act (imgTaken s)) := by
  rw [imgCommand, if_neg (by simpa [ImgAlone] using ha), imgTaken]

theorem hostImage_imgTaken (s : State) : hostImage (imgTaken s) = hostImage s := by
  simp only [hostImage, hostRead, imgTaken, getFunc_modFunc, paReadN_modFunc]

section Checked

variable {s : State} {i : Instr} {k : Nat} {code : Secure → ImgFile → Nat} {perform : Nat → State → ImgFile → State}

/-- The image cannot be read, or fails a check. -/
theorem imgCommand_refused {ok : Bool} {c : Nat} (he : exec i s = imgCommand s k (checkedImage code perform ok))
    (ha : ImgAlone s k) (h : ok = false ∧ c = 0x0D ∨ ok = true ∧ c = code s.secure (hostImage s) ∧ c ≠ 0) :
    ∃ t, exec i s = .next t ∧ Refused s t c := by
  have hc : c = (if ok then code (imgTaken s).secure (hostImage (imgTaken s)) else 0x0D) ∧ c ≠ 0 := by
    rw [hostImage_imgTaken]
    rcases h with ⟨rfl, rfl⟩ | ⟨rfl, hc, h0⟩
    · exact ⟨rfl, by decide⟩
    · exact ⟨hc, h0⟩
  obtain ⟨hc, h0⟩ := hc
  refine ⟨_, ?_, refused_imgResult (imgTaken s) h0⟩
  rw [he, imgCommand_alone _ ha, checkedImage, ← hc, if_pos h0]

/-- The image passes: the command's ERR is 0, and what it is for is performed. -/
theorem imgCommand_passed (he : exec i s = imgCommand s k (checkedImage code perform true)) (ha : ImgAlone s k)
    (h : code s.secure (hostImage s) = 0) :
    exec i s = .next (perform s.time (modFunc (imgTaken s) 0 (fun f => { f with imgErr := 0 })) (hostImage s)) := by
  have hc : (if true then code (imgTaken s).secure (hostImage (imgTaken s)) else 0x0D) = 0 := by
    rw [hostImage_imgTaken]
    exact h
  rw [he, imgCommand_alone _ ha, checkedImage, hc, if_neg (by decide), imgResult, if_pos rfl, hostImage_imgTaken]
  rfl

end Checked

theorem stageImage_staged (now : Nat) (s : State) (f : ImgFile) :
    Tab.find (stageImage now s f).secure.staged (imgType f) = some (imgOf f now) := Tab.find_put_same _ _ _

theorem recoverImage_version (now : Nat) (s : State) (f : ImgFile) :
    (Tab.get ({} : Img) (recoverImage now s f).secure.running 1).version = imgVersion f := by
  rw [Tab.get, recoverImage, Tab.find_put_same]
  rfl

/-- The transition is fused, and the module is wiped: it is not ready, and no context and no wave is left (R143, R144). -/
theorem lcPerform_fields (s : State) (f : ImgFile) :
    (lcPerform s f).secure.lc = lcOfCode (lcTarget f) ∧
    (lcPerform s f).secure.transitions = min 1024 (s.secure.transitions + 1) ∧ (lcPerform s f).mods.ready = false ∧
    (lcPerform s f).ctxs = [] ∧ (lcPerform s f).waves = [] ∧
    (lcPerform s f).secure.attKey = (lcOfCode (lcTarget f) != .retired) := ⟨rfl, rfl, rfl, rfl, rfl, rfl⟩

/-! ## The fused counter (R147) -/

/-- A running maximum is no less than its start and each value, and is one of them. -/
theorem foldl_max_spec {β : Type} (g : β → Nat) (l : List β) (c : Nat) :
    let m := l.foldl (fun c e => max c (g e)) c
    c ≤ m ∧ (∀ e ∈ l, g e ≤ m) ∧ (m = c ∨ ∃ e ∈ l, m = g e) := by
  induction l generalizing c with
  | nil => simp
  | cons e l ih =>
    obtain ⟨hstart, hall, hsome⟩ := ih (max c (g e))
    obtain ⟨hc, hg⟩ := Nat.max_le.mp hstart
    refine ⟨hc, List.forall_mem_cons.mpr ⟨hg, hall⟩, ?_⟩
    rcases hsome with h | ⟨e', he', h⟩
    · rcases Nat.le_total c (g e) with hle | hle
      · exact .inr ⟨e, List.mem_cons_self, h.trans (Nat.max_eq_right hle)⟩
      · exact .inl (h.trans (Nat.max_eq_left hle))
    · exact .inr ⟨e', List.mem_cons_of_mem _ he', h⟩

theorem advanceCommit_counter (s : State) : ∃ t, exec .advanceCommit s = .next t ∧ s.secure.counter ≤ t.secure.counter ∧
    (∀ e ∈ s.secure.running, e.2.advance = true → e.2.startAt + 10000000000 ≤ s.time →
      min 63 e.2.version ≤ t.secure.counter) ∧
    (t.secure.counter = s.secure.counter ∨ ∃ e ∈ s.secure.running, e.2.advance = true ∧
      e.2.startAt + 10000000000 ≤ s.time ∧ t.secure.counter = min 63 e.2.version) := by
  obtain ⟨hstart, hall, hsome⟩ := foldl_max_spec (fun e : Nat × Img => min 63 e.2.version)
    (s.secure.running.filter (fun e => e.2.advance && decide (e.2.startAt + 10000000000 ≤ s.time))) s.secure.counter
  refine ⟨_, rfl, hstart, fun e he hadv ht => hall e (List.mem_filter.mpr ⟨he, by simp [hadv, ht]⟩), ?_⟩
  refine hsome.imp_right fun ⟨e, he, h⟩ => ?_
  obtain ⟨hmem, hdue⟩ := List.mem_filter.mp he
  rw [Bool.and_eq_true, decide_eq_true_eq] at hdue
  exact ⟨e, hmem, hdue.1, hdue.2, h⟩

/-! ## The obligation -/

/-- Settles O49: an attestation command by what stops it, an image command by its first failing check and by what a passed
image performs, and the counter as a running maximum. -/
theorem securityEvents : Obligations.SecurityEvents := by
  intro s func ok
  refine ⟨fun hf => ⟨fun ha => ⟨_, exec_attReport s func ok, attCommand_busy ok _ hf ha⟩,
      fun ha => ⟨_, exec_attCert s func ok, attCommand_busy ok _ hf ha⟩⟩,
    ⟨imgCommand_busy (exec_imgStage s ok), imgCommand_busy (exec_imgLifecycle s ok),
      fun hr => imgCommand_busy (exec_imgRecover ok hr)⟩,
    ?_, ?_, ?_, fun c => imgCommand_refused (exec_imgStage s ok), ?_, fun c => imgCommand_refused (exec_imgLifecycle s ok),
    exec_imgRecover_of_none ok, ?_, fun c ha hr => imgCommand_refused (exec_imgRecover ok hr) ha, advanceCommit_counter s⟩
  · rintro hf hl rfl hreport hcert
    obtain ⟨herr, hlen, hmem⟩ := attCommand_written (reportBytes s func) hf hreport hl
    rw [length_reportBytes] at hlen
    obtain ⟨herr', -, hmem'⟩ := attCommand_written certBytes hf hcert hl
    exact ⟨⟨reportBytes s func, _, exec_attReport s func true, length_reportBytes s func, take_reportBytes s func,
      fun i => byteAt_reportBytes, herr, hlen, hmem⟩, ⟨_, exec_attCert s func true, herr', hmem'⟩⟩
  · rintro hf i (⟨rfl, ha⟩ | ⟨rfl, ha⟩)
    · refine ⟨fun hl => ⟨_, exec_attReport s func ok, attCommand_retired ok _ hf ha hl⟩, ?_⟩
      rintro hl rfl
      exact ⟨_, exec_attReport s func false, attCommand_unwritten _ hf ha hl⟩
    · refine ⟨fun hl => ⟨_, exec_attCert s func ok, attCommand_retired ok _ hf ha hl⟩, ?_⟩
      rintro hl rfl
      exact ⟨_, exec_attCert s func false, attCommand_unwritten _ hf ha hl⟩
  · rintro ha rfl h
    refine ⟨_, imgCommand_passed (exec_imgStage s true) ha h, ?_, rfl, _, stageImage_staged _ _ _, rfl, rfl, rfl⟩
    exact congrArg Func.imgErr (getFunc_modFunc (imgTaken s) 0 (fun f => { f with imgErr := 0 }))
  · rintro ha rfl h
    exact ⟨_, imgCommand_passed (exec_imgLifecycle s true) ha h, lcPerform_fields _ _⟩
  · rintro ha hr rfl h
    exact ⟨_, imgCommand_passed (exec_imgRecover true hr) ha h, rfl, recoverImage_version _ _ _⟩

end Sys2Proof.Machine.Security
end
